-- ==== Sys2Proof/Word.lean ====
section
/-! DEFINITION. The word types of the CX48: bytes, tick counts and panel IDs. -/

namespace Sys2Proof

/-- A byte of a frame, of a response or of a panel ID. -/
abbrev Byte := BitVec 8

/-- A tick count: the 32-bit unsigned count of milliseconds of R185. -/
abbrev Tick := BitVec 32

/-- A panel ID: a string of character codes (R4). Two IDs are equal when they are equal as lists. -/
abbrev PanelId := List Byte

end Sys2Proof
end

