-- ==== Sys2Proof/Syntax.lean ====
section
/-! DEFINITION. The commands of the CX48: one constructor of `Instr` for each row of the table of operations and
events, with the row's operands. Operands of a request are the decoded fields of R191, before any check. -/

namespace Sys2Proof

/-- One of the two lanes. -/
inductive LaneNo where
  | zero | one
deriving DecidableEq, Repr

/-- The front or the oven section of a lane (R43). -/
inductive LineSection where
  | front | oven
deriving DecidableEq, Repr

/-- One of the three divert outputs of a lane (R58). -/
inductive DivertGate where
  | a | b | u
deriving DecidableEq, Repr

/-- The fourteen station offsets of R45, in the order of their SET_PARAM identifiers 0x01..0x0E (R191). -/
inductive StationOffset where
  | idWindow | mask | divertA | booth | divertB | flashApproach | transfer
  | zoneEnd1 | zoneEnd2 | zoneEnd3 | zoneEnd4 | zoneEnd5 | zoneEnd6 | unload
deriving DecidableEq, Repr

/-- What begins a device reset (R187): RESET_N low for a number of nanoseconds, or power-up. -/
inductive ResetCause where
  | resetN (lowNs : Nat)
  | powerUp
deriving DecidableEq, Repr

/-- The fields of DEFINE_RECIPE as the request carries them (R191). -/
structure RecipeFields where
  coats : Nat
  massClass : Nat
  recoat : Int
  flashMin : Int
  flowRate : Nat
  flowTol : Nat
  minorTol : Nat
  holdMask : Nat
  base : Nat
  segs : Nat
  rows : Nat
  dy : Int
  mode : Nat
  rotation : Nat
  reversal : Nat
deriving DecidableEq, Repr

/-- The fields of SET_CURE_PROFILE as the request carries them (R191). -/
structure CureFields where
  tRef : Int
  doubling : Nat
  tFloor : Int
  target : Nat
  ceiling : Nat
  minPeak : Int
  peakLimit : Int
deriving DecidableEq, Repr

/-- The four bytes that one sensor transfer receives on TMISO, in their order: the first, which the part ignores,
then status and temperature (R194). -/
structure SensorReply where
  first : Byte
  status : Byte
  tempHigh : Byte
  tempLow : Byte
deriving DecidableEq, Repr

/-- The samples of a character's eight data bits, `bit0` the first on the line (R70). -/
structure DataSamples where
  bit0 : Bool
  bit1 : Bool
  bit2 : Bool
  bit3 : Bool
  bit4 : Bool
  bit5 : Bool
  bit6 : Bool
  bit7 : Bool
deriving DecidableEq, Repr

/-- The commands, in the order of the table. A `level` operand is the level that one 10 us sample finds on the
input the row names (R186); the row's event is the rising edge recognised at that sample. -/
inductive Instr where
  /-- REQUEST_FRAME: every bit the host clocked between the fall and the rise of CS_N, in its order on the line
  (R173); the first eight spell the type 0x51. -/
  | requestFrame (bits : List Bool)
  /-- FETCH_FRAME: every bit the host clocked, in its order on the line (R173); the first eight spell the type 0x52. -/
  | fetchFrame (bits : List Bool)
  /-- IGNORED_FRAME: every bit the host clocked, in its order on the line (R173); the first eight spell no known type,
  or fewer than eight came. -/
  | ignoredFrame (bits : List Bool)
  | processingComplete
  | lineStatus
  | startLine
  | stopLine
  | clearLane (lane : Nat)
  | resetBooth (lane : Nat)
  | resyncTag (lane : Nat)
  | readZones
  | defineRecipe (recipe : Nat) (fields : RecipeFields)
  | setMaskZone (recipe zone criticality x0 y0 x1 y1 : Nat)
  | clearMaskZone (recipe zone : Nat)
  | setCureProfile (recipe : Nat) (fields : CureFields)
  | eraseRecipe (recipe : Nat)
  | readRecipe (recipe part : Nat)
  | writeSegment (index x0 y0 x1 y1 speed valve : Nat)
  | readSegment (index : Nat)
  | find (id : PanelId)
  | readPanel (handle part : Nat)
  | assignRecipe (handle recipe : Nat)
  | bindId (handle : Nat) (id : PanelId)
  | nextNotice
  | retire (handle disposition : Nat)
  | hold (handle reason : Nat)
  | service (handle reason : Nat)
  | release (handle : Nat)
  | waiveMask (handle : Nat)
  | reenter (handle lane point : Nat)
  | withdraw (handle : Nat)
  | setParamStationOffset (offset : StationOffset) (value : Int)
  | setParamEyeTolerance (value : Int)
  | setParamDivertPulse (value : Int)
  | setParamMinimumGap (value : Int)
  | setParamSettleTime (value : Int)
  | setParamEntryReserve (value : Int)
  | setParamDefaultRecipe (lane : Nat) (value : Int)
  | setParamBaudRate (value : Int)
  | setParamInspectTimeout (value : Int)
  | setParamTraverseSpeed (value : Int)
  | setParamAbortLevel (value : Int)
  | setParamSamplePeriod (value : Int)
  | setParamStaleLimit (value : Int)
  | setParamAmbient (value : Int)
  | setParamClassLimits (class5 class4 class3 class2 class1 : Int)
  | setParamGainEntry (mass airflow : Nat) (value : Int)
  | setParamReasonLevel (reason : Nat) (value : Int)
  | encoderCount (lane : LaneNo) (sect : LineSection) (level : Bool)
  | eyeEntry (lane : LaneNo) (level : Bool)
  | eyeOven (lane : LaneNo) (level : Bool)
  | eyeUnload (lane : LaneNo) (level : Bool)
  | settledEvent (lane : LaneNo)
  | flashClaimExpiry (lane : LaneNo)
  | divertPulseEnd (lane : LaneNo) (gate : DivertGate)
  | inspectTrigPulseEnd (lane : LaneNo)
  | inspectTrigRecoveryEnd (lane : LaneNo)
  | inspectWindowExpiry (handle : Nat)
  /-- CHARACTER_RECEIVED: the receiver's samples of the start bit, the eight data bits and the stop bit (R70). -/
  | characterReceived (start : Bool) (data : DataSamples) (stop : Bool)
  | breakEntry
  | breakEnd
  | lineQuiet
  | assemblerByteTake
  | idRead
  | maskReport
  | gantryTransferEnd
  | moveDone (lane : LaneNo) (level : Bool)
  | durationExpiry (lane : LaneNo)
  | moveTimeout (lane : LaneNo)
  | gantryErr (lane : LaneNo) (level : Bool)
  | flowPulse (lane : LaneNo) (level : Bool)
  | recoatExpiry (lane : LaneNo)
  | pollStart
  /-- POLL_COMPLETION: the replies of converter channels 1 to 6. -/
  | pollCompletion (replies : Vector SensorReply 6)
  /-- TACH_EDGE: `zone` is the zone number less 1, `sample` the number of the 10 us sample. -/
  | tachEdge (zone : Fin 6) (level : Bool) (sample : Nat)
  | stallWatchExpiry (zone : Fin 6) (sample : Nat)
  | deviceReset (cause : ResetCause)
  | resetEnd
  | tick
  | csnFallingEdge
  /-- RXD_EDGE: the level of RXD after the edge. -/
  | rxdEdge (level : Bool)
deriving DecidableEq, Repr

end Sys2Proof
end

