-- ==== Sys2Proof/Decode.lean ====
section
/-! DEFINITION. Decoding by the table's bits. No row of the table of operations and events gives bits (log 2). The
requests' byte formats (R190, R191) are in Machine/Formats.lean. -/

namespace Sys2Proof

/-- The command that a word spells by the table's bits: the table gives no row any bits, so no word spells one
(log 2). -/
def decodeTableWord (_nbits _w : Nat) : Option Instr := none

end Sys2Proof
end

