-- ==== Sys2Proof/Config.lean ====
section
/-! DEFINITION. What the manual leaves free. -/

namespace Sys2Proof

/-- FREE VALUE (log 7). R44 calls the arrivals that one count raises for different records at different offsets
separate events and gives them no order. This opaque function gives each station a rank for the `n`-th count acted
on; arrivals are handled in rising rank. Nothing can be proved of it, so a claim holds for every order. -/
opaque Config.arrivalRank (n station : Nat) : Nat

/-- FREE VALUE (log 28). The byte that MISO shows with CS_N low and no frame begun, a CS_N that was low when reset
ended. R188 gives its level while CS_N is high and during a frame, and is silent here. -/
opaque Config.misoUnframed : Byte

/-- FREE VALUE (log 30). Byte `i` behind the first that the part sends in a frame of unknown type, `n` the counter of
free values. R173 and R177 give these bytes in REQUEST and FETCH frames only. -/
opaque Config.misoIgnored (n i : Nat) : Byte

end Sys2Proof
end

