-- ==== Sys2Proof/Machine/State.lean ====
section
/-! DEFINITION. The state of the CX48 as plain data, the (empty) types of reasons to stop, and the machine right
after device reset. Each structure names the rule that gives its fields. -/

namespace Sys2Proof.Machine

/-- A value for each of the two lanes (or for the lane's booth channel). -/
structure PerLane (α : Type) where
  zero : α
  one : α
deriving DecidableEq, Repr

/-! ### Holds (Chapter 9) -/

/-- The seventeen hold reasons, in the order of their codes 1..17 (R153). -/
inductive HoldReason where
  | overtemp | overcure | trackLost | maskCritical | nozzleBlock | gantryFault | cureUnverified | undercure
  | duplicateId | idMismatch | inspectTimeout | noRecipe | maskExcess | coatVolume | spacing | noId | hostQa
deriving DecidableEq, Repr

/-- The four items of a rank (R157); the level of a FIXED reason is not read. -/
structure Rank where
  masked : Bool
  fixed : Bool
  level : Nat
  code : Nat
deriving DecidableEq, Repr

/-- PENDING, or IN_SERVICE with the service rank recorded at SERVICE (R155, R164). -/
inductive HoldState where
  | pending
  | inService (rank : Rank)
deriving DecidableEq, Repr

/-- One entry of a hold list (R155). -/
structure HoldEntry where
  reason : HoldReason
  state : HoldState
  count : Nat
deriving DecidableEq, Repr

/-- A hold mask: a subset of the four maskable reasons (R29). -/
structure HoldMask where
  maskExcess : Bool
  coatVolume : Bool
  spacing : Bool
  noId : Bool
deriving DecidableEq, Repr

/-! ### Panel records (Chapter 1) -/

/-- The twelve stages (R6), in the order of their codes (R193). -/
inductive Stage where
  | entered | admitted | inspecting | verified | spraying | flashing | passThrough | curing | exited | done
  | parked | reentering
deriving DecidableEq, Repr

/-- The six notices (R13), in the order of their bits (R193). -/
inductive Notice where
  | identified | holdRaised | diverted | cured | unloaded | reentered
deriving DecidableEq, Repr

/-- A notice set (R13). -/
structure Notices where
  identified : Bool
  holdRaised : Bool
  diverted : Bool
  cured : Bool
  unloaded : Bool
  reentered : Bool
deriving DecidableEq, Repr

/-- Section and position, present while the record is on a section queue (R7). -/
structure Place where
  sect : LineSection
  pos : Nat
deriving DecidableEq, Repr

/-- The mask verdicts (R8), in the order of their codes. -/
inductive MaskVerdict where
  | pass | passGuarded | waived | failed
deriving DecidableEq, Repr

/-- The status a mask report gives a zone (R80). -/
inductive ZoneStatus where
  | present | absent | displaced
deriving DecidableEq, Repr

/-- A mask result: verdict, defect list in zone order, guard set in zone order (R8). -/
structure MaskResult where
  verdict : MaskVerdict
  defects : List (Nat × ZoneStatus)
  guards : List Nat
deriving DecidableEq, Repr

/-- One entry of the coat list (R9). -/
structure CoatEntry where
  expected : Nat
  counted : Nat
  run : Nat
  suppressed : Nat
  completed : Bool
deriving DecidableEq, Repr

/-- The cure verdicts (R10). -/
inductive CureVerdict where
  | pass | undercure
deriving DecidableEq, Repr

/-- The cure fields (R10). -/
structure Cure where
  temp : Int
  dose : Nat
  peak : Int
  ovenTime : Nat
  last : Tick
  verdict : Option CureVerdict
deriving DecidableEq, Repr

/-- The resume points (R12), in the order of their codes. -/
inductive ResumePoint where
  | fromMask | fromSpray | fromOven
deriving DecidableEq, Repr

/-- A panel record (R3 to R13). Its handle is the number of its slot. `holds` keeps its IN_SERVICE entries in the
order of their service, so that they are the service chain, bottom first (R164, log 14). -/
structure Panel where
  id : Option PanelId
  lane : LaneNo
  recipe : Option Nat
  stage : Stage
  place : Option Place
  inspectTag : Option (BitVec 4)
  flashEnd : Option Tick
  mask : Option MaskResult
  coatsApplied : Nat
  coats : List CoatEntry
  cure : Option Cure
  holds : List HoldEntry
  truncated : Bool
  resume : Option ResumePoint
  rework : Nat
  notices : Notices
deriving DecidableEq, Repr

/-! ### Recipes and the path pool (Chapter 2) -/

/-- The body of a recipe: process fields (R27) and path program (R28). -/
structure Body where
  coats : Nat
  massClass : Nat
  recoat : Nat
  flashMin : Nat
  flowRate : Nat
  flowTol : Nat
  minorTol : Nat
  holdMask : HoldMask
  base : Nat
  segs : Nat
  rows : Nat
  dy : Int
  serpentine : Bool
  rotation : Nat
  reversal : Bool
deriving DecidableEq, Repr

/-- One entry of a mask map (R30). -/
structure MaskZone where
  zone : Nat
  critical : Bool
  x0 : Nat
  y0 : Nat
  x1 : Nat
  y1 : Nat
deriving DecidableEq, Repr

/-- A cure profile (R32). -/
structure CureProfile where
  tRef : Int
  doubling : Nat
  tFloor : Int
  target : Nat
  ceiling : Nat
  minPeak : Int
  peakLimit : Int
deriving DecidableEq, Repr

/-- A recipe: its three parts and its reference count (R25, R35). -/
structure Recipe where
  body : Option Body
  map : List MaskZone
  cure : Option CureProfile
  refs : Nat
deriving DecidableEq, Repr

/-- A DEFINED pool entry (R38). -/
structure Segment where
  x0 : Nat
  y0 : Nat
  x1 : Nat
  y1 : Nat
  speed : Nat
  valveOpen : Bool
deriving DecidableEq, Repr

/-! ### Lane tracker (Chapter 3) -/

/-- The lane states (R48). -/
inductive LaneState where
  | idle | tracking | fault
deriving DecidableEq, Repr

/-- What the lane tracker keeps for a lane: state (R48), queues (R47), re-entry list (R50), claims (R59, R60; the
FLASH claim stands with its expiry), quiet timer (R61) and divert pulses (R58), each by the tick it ends at. -/
structure LaneTrack where
  state : LaneState
  front : List Nat
  oven : List Nat
  reentry : List Nat
  boothClaim : Bool
  flashClaim : Option Tick
  quiet : Option Tick
  divertA : Option Tick
  divertB : Option Tick
  divertU : Option Tick
deriving DecidableEq, Repr

/-! ### Mask verifier (Chapter 5) -/

/-- An open inspection window: the record and the tick its timer expires at (R84, R86). -/
structure Window where
  handle : Nat
  expiry : Tick
deriving DecidableEq, Repr

/-- The INSPECT_TRIG output (R87): negated and free, asserted until a tick, or in recovery until a tick. -/
inductive Trigger where
  | free
  | asserted (until_ : Tick)
  | recovery (until_ : Tick)
deriving DecidableEq, Repr

/-- What the mask verifier keeps for a lane (R83, R84, R87). -/
structure MaskLane where
  tag : BitVec 4
  inspecting : List Window
  backlog : Nat
  trig : Trigger
deriving DecidableEq, Repr

/-! ### Path generator and booth channels (Chapters 6 and 7) -/

/-- A point of the panel plane in millimetres. -/
structure Point where
  x : Int
  y : Int
deriving DecidableEq, Repr

/-- The generator states (R100). -/
inductive GenState where
  | idle | generating | coatEnded
deriving DecidableEq, Repr

/-- The generator of a channel (R100). -/
structure Generator where
  state : GenState
  record : Option Nat
  coat : Nat
  row : Nat
  step : Nat
  pos : Point
deriving DecidableEq, Repr

/-- A traverse, or a segment order with its pool entry, row number and step (R106). -/
inductive OrderKind where
  | traverse
  | segment (entry row step : Nat)
deriving DecidableEq, Repr

/-- A move order as the generator hands it out (R106). -/
structure MoveOrder where
  kind : OrderKind
  start : Point
  stop : Point
  speed : Nat
  valveOpen : Bool
  suppressed : Bool
  last : Bool
  duration : Nat
  expected : Nat
deriving DecidableEq, Repr

/-- The channel states (R116), in the order of their codes. -/
inductive ChannelState where
  | idle | settling | coating | recoatWait | aborting | parking | fault
deriving DecidableEq, Repr

/-- A booth channel (R116). `inFlight` tells an order in flight from one waiting for the port (R120). -/
structure Channel where
  state : ChannelState
  served : Option Nat
  coat : Nat
  order : Option MoveOrder
  inFlight : Bool
  sendTick : Tick
  doneSeen : Bool
  durationExpired : Bool
  flow : Nat
  recoatExpiry : Option Tick
deriving DecidableEq, Repr

/-- A frame on the gantry port: the lane whose select is asserted and the bytes shifted out (R120, R194). -/
structure GantryFrame where
  lane : LaneNo
  bytes : List Byte
deriving DecidableEq, Repr

/-! ### Oven model (Chapter 8) -/

/-- The zone states (R136), in the order of their codes. -/
inductive ZoneState where
  | valid | stale | invalid
deriving DecidableEq, Repr

/-- A zone table entry (R136), the sample of the last tachometer edge (R138), and the last sampled level of the
tachometer input with the sample at which it was read (R186). The stall watch runs while the fan is RUNNING
(R139). -/
structure Zone where
  air : Int
  state : ZoneState
  stale : Nat
  airflow : Nat
  running : Bool
  period : Option Nat
  lastEdge : Option Nat
  level : Option Bool
  readAt : Option Nat
deriving DecidableEq, Repr

/-- The poll of the sensor port: the tick of the next sample boundary and whether a poll is in flight (R134). -/
structure Poll where
  boundary : Tick
  inFlight : Bool
deriving DecidableEq, Repr

/-! ### Station link receiver (Chapter 4) -/

/-- One entry of the receive FIFO (R72). -/
structure FifoEntry where
  byte : Byte
  error : Bool
  loss : Bool
  gap : Bool
deriving DecidableEq, Repr

/-- A good frame's message (R79, R80). -/
inductive StationMessage where
  | idRead (lane : LaneNo) (id : PanelId)
  | maskReport (lane : LaneNo) (tag : BitVec 4) (pairs : List (Nat × ZoneStatus))
deriving DecidableEq, Repr

/-- The assembler states (R76), OFFERING with the message offered (R81). -/
inductive AsmState where
  | hunting | length | body | checksum
  | offering (msg : StationMessage)
deriving DecidableEq, Repr

/-- The frame assembler (R76): `bytes` are TYPE and the payload bytes taken so far. -/
structure Assembler where
  state : AsmState
  len : Nat
  bytes : List Byte
  sum : Byte
  corrupt : Bool
deriving DecidableEq, Repr

/-- The character receiver (R70, R74): waiting, in a character (with the gap mark fixed at its start), in BREAK. -/
inductive Receiver where
  | waiting
  | receiving (gap : Bool)
  | inBreak
deriving DecidableEq, Repr

/-- The station link receiver (R70 to R76). `quiet` is the quiet state QUIET. -/
structure StationLink where
  rx : Receiver
  rxd : Bool
  quiet : Bool
  fifo : List FifoEntry
  lossPending : Bool
  asm : Assembler
deriving DecidableEq, Repr

/-! ### Line link port (Chapter 10) -/

/-- The link states (R174). -/
inductive LinkState where
  | idle | busy | response
deriving DecidableEq, Repr

/-- The statuses (R178), in the order of their codes (R193). -/
inductive Status where
  | ok | badRequest | badHandle | badState | inUse | range | full | notFound | fixedHold | notGoverning | held
  | coatLimit | reworkLimit | mode
deriving DecidableEq, Repr

/-- A response: status and data (R176). -/
structure Response where
  status : Status
  data : List Byte
deriving DecidableEq, Repr

/-- The request buffer: command code and parameter bytes (R175). -/
structure RequestBuffer where
  code : Byte
  params : List Byte
deriving DecidableEq, Repr

/-- The line link port's frames and buffers (R173 to R177). `effect` is the response of the request in process once
it has taken effect; `frame` is the link state at the fall of CS_N while a frame is in progress; `csn` is the level
of CS_N; `miso` is the bits the part sent in the last frame. -/
structure LineLink where
  state : LinkState
  request : Option RequestBuffer
  effect : Option Response
  response : Option Response
  frame : Option LinkState
  csn : Bool
  miso : List Bool
deriving DecidableEq, Repr

/-- The line modes (R179). -/
inductive LineMode where
  | config | run
deriving DecidableEq, Repr

/-- The six sticky flags (R182), in the order of their bits (R193). -/
inductive Flag where
  | strayId | strayReport | linkError | zoneAlarm | laneFault0 | laneFault1
deriving DecidableEq, Repr

/-- The sticky flags as they stand (R182). -/
structure Flags where
  strayId : Bool
  strayReport : Bool
  linkError : Bool
  zoneAlarm : Bool
  laneFault0 : Bool
  laneFault1 : Bool
deriving DecidableEq, Repr

/-- The airflow class limits in 10 us units (R140). -/
structure ClassLimits where
  class5 : Nat
  class4 : Nat
  class3 : Nat
  class2 : Nat
  class1 : Nat
deriving DecidableEq, Repr

/-- The line parameters (R181). `offsets` is indexed by the identifier less 1, `gain` by mass class × 6 + airflow
class (R145), `levels` by reason code less 3: the releasable reasons have codes 3..17 (R153, R154). -/
structure Params where
  offsets : Vector Nat 14
  eyeTolerance : Nat
  divertPulse : Nat
  minimumGap : Nat
  settleTime : Nat
  entryReserve : Nat
  defaultRecipe : PerLane (Option Nat)
  baud : Nat
  inspectTimeout : Nat
  traverseSpeed : Nat
  abortLevel : Nat
  samplePeriod : Nat
  staleLimit : Nat
  ambient : Int
  limits : ClassLimits
  gain : Vector Nat 24
  levels : Vector Nat 15
deriving DecidableEq, Repr

/-! ### Inputs (R186) -/

/-- The last sampled level of each station-side input of a lane; `none` before its first sample after reset. -/
structure LaneInputs where
  encFront : Option Bool
  encOven : Option Bool
  eyeEntry : Option Bool
  eyeOven : Option Bool
  eyeUnload : Option Bool
  moveDone : Option Bool
  gantryErr : Option Bool
  flow : Option Bool
deriving DecidableEq, Repr

/-! ### The whole state -/

/-- The state of the part. `pending` is the queue of commands (log 1), `free` the counter of free values (logs 7
and 30), `samples` the 10 us sample count and `tickSample` its value at the last tick boundary (log 9). -/
structure State where
  pending : List Instr
  inReset : Bool
  tick : Tick
  samples : Nat
  tickSample : Nat
  free : Nat
  slots : Vector (Option Panel) 48
  freeList : List Nat
  idMap : List (PanelId × Nat)
  recipes : Vector Recipe 16
  pool : Vector (Option Segment) 384
  params : Params
  mode : LineMode
  flags : Flags
  ltk : PerLane LaneTrack
  mvf : PerLane MaskLane
  pgn : PerLane Generator
  bch : PerLane Channel
  inputs : PerLane LaneInputs
  port : Option GantryFrame
  zones : Vector Zone 6
  poll : Poll
  slr : StationLink
  link : LineLink
deriving DecidableEq, Repr

/-- The part has no machine fault: a lane FAULT or a channel FAULT is a state of the part, and nothing in the manual
stops it. Closed and empty, so nothing raises one (safe). -/
inductive Fault where
deriving DecidableEq, Repr

/-- Why a command is refused by the model. -/
inductive Refusal where
  /-- Raised by `exec` for a command that has no meaning in the model. Safe. No arm of `exec` raises it. -/
  | notModelled (mnemonic : String)
deriving DecidableEq, Repr

/-! ### Device reset (R187 and the reset section of each chapter) -/

/-- A lane tracker lane after reset (R69). -/
def LaneTrack.reset : LaneTrack :=
  { state := .idle, front := [], oven := [], reentry := [], boothClaim := false, flashClaim := none, quiet := none,
    divertA := none, divertB := none, divertU := none }

/-- A mask verifier lane after reset (R99). -/
def MaskLane.reset : MaskLane := { tag := 0, inspecting := [], backlog := 0, trig := .free }

/-- A generator after reset (R100). -/
def Generator.reset : Generator :=
  { state := .idle, record := none, coat := 0, row := 0, step := 0, pos := { x := 0, y := 0 } }

/-- A booth channel after reset (R133); the pass coat number and the send tick are DESIGN CHOICE 0 (log 13). -/
def Channel.reset : Channel :=
  { state := .idle, served := none, coat := 0, order := none, inFlight := false, sendTick := 0, doneSeen := false,
    durationExpired := false, flow := 0, recoatExpiry := none }

/-- The inputs of a lane after reset: none has been sampled (R187). -/
def LaneInputs.reset : LaneInputs :=
  { encFront := none, encOven := none, eyeEntry := none, eyeOven := none, eyeUnload := none, moveDone := none,
    gantryErr := none, flow := none }

/-- A zone table entry after reset (R142). -/
def Zone.reset : Zone :=
  { air := 250, state := .invalid, stale := 3, airflow := 0, running := false, period := none, lastEdge := none,
    level := none, readAt := none }

/-- The assembler with no frame in assembly, in HUNTING (R76, R82). -/
def Assembler.reset : Assembler := { state := .hunting, len := 0, bytes := [], sum := 0, corrupt := false }

/-- The station link receiver after reset (R82), RXD at its idle level (log 12). -/
def StationLink.reset : StationLink :=
  { rx := .waiting, rxd := true, quiet := true, fifo := [], lossPending := false, asm := Assembler.reset }

/-- The line link port after reset (R184), CS_N high (log 12). -/
def LineLink.reset : LineLink :=
  { state := .idle, request := none, effect := none, response := none, frame := none, csn := true, miso := [] }

/-- No sticky flag set (R182). -/
def Flags.reset : Flags :=
  { strayId := false, strayReport := false, linkError := false, zoneAlarm := false, laneFault0 := false,
    laneFault1 := false }

/-- An EMPTY recipe with no parts and count 0 (R25). -/
def Recipe.reset : Recipe := { body := none, map := [], cure := none, refs := 0 }

/-- The defaults of the gain table (R145), row by row. -/
def gainDefaults : Vector Nat 24 :=
  #v[1311, 2621, 3277, 3932, 4588, 5243,
     983, 1966, 2458, 2949, 3441, 3932,
     655, 1311, 1638, 1966, 2294, 2621,
     328, 655, 819, 983, 1147, 1311]

/-- The levels of the releasable reasons, codes 3 to 17, after reset (R153). -/
def levelDefaults : Vector Nat 15 := #v[0, 1, 1, 1, 2, 2, 3, 3, 3, 3, 4, 4, 5, 5, 6]

/-- Every line parameter at its default (R181). -/
def Params.reset : Params :=
  { offsets := Vector.replicate 14 0, eyeTolerance := 20, divertPulse := 200, minimumGap := 150, settleTime := 200,
    entryReserve := 2, defaultRecipe := { zero := none, one := none }, baud := 115200, inspectTimeout := 3000,
    traverseSpeed := 300, abortLevel := 1, samplePeriod := 500, staleLimit := 3, ambient := 250,
    limits := { class5 := 800, class4 := 1000, class3 := 1300, class2 := 1800, class1 := 3000 },
    gain := gainDefaults, levels := levelDefaults }

/-- The part right after device reset (R187; R24, R42, R69, R82, R99, R100, R133, R142, R172, R184). -/
def State.reset : State :=
  { pending := [], inReset := false, tick := 0, samples := 0, tickSample := 0, free := 0,
    slots := Vector.replicate 48 none, freeList := List.range 48, idMap := [],
    recipes := Vector.replicate 16 Recipe.reset, pool := Vector.replicate 384 none, params := Params.reset,
    mode := .config, flags := Flags.reset,
    ltk := { zero := LaneTrack.reset, one := LaneTrack.reset },
    mvf := { zero := MaskLane.reset, one := MaskLane.reset },
    pgn := { zero := Generator.reset, one := Generator.reset },
    bch := { zero := Channel.reset, one := Channel.reset },
    inputs := { zero := LaneInputs.reset, one := LaneInputs.reset },
    port := none, zones := Vector.replicate 6 Zone.reset, poll := { boundary := 500, inFlight := false },
    slr := StationLink.reset, link := LineLink.reset }

end Sys2Proof.Machine
end

