-- ==== Sys2Proof/Machine/Ops.lean ====
section
/-! DEFINITION. The named operations every block uses: lanes, record slots, recipes, ticks and queues. -/

namespace Sys2Proof.Machine

/-! ### Lanes -/

/-- The other lane. -/
def otherLane : LaneNo → LaneNo
  | .zero => .one
  | .one => .zero

/-- The lane a byte names, if it is 0 or 1. -/
def laneOfNat : Nat → Option LaneNo
  | 0 => some .zero
  | 1 => some .one
  | _ => none

/-- The number of a lane. -/
def laneNum : LaneNo → Nat
  | .zero => 0
  | .one => 1

/-- The value of one lane. -/
def PerLane.get {α : Type} (p : PerLane α) : LaneNo → α
  | .zero => p.zero
  | .one => p.one

/-- The pair with one lane's value replaced. -/
def PerLane.set {α : Type} (p : PerLane α) : LaneNo → α → PerLane α
  | .zero, a => { p with zero := a }
  | .one, a => { p with one := a }

/-- Change the lane tracker's lane. -/
def State.modLtk (l : LaneNo) (f : LaneTrack → LaneTrack) (s : State) : State :=
  { s with ltk := s.ltk.set l (f (s.ltk.get l)) }

/-- Change the mask verifier's lane. -/
def State.modMvf (l : LaneNo) (f : MaskLane → MaskLane) (s : State) : State :=
  { s with mvf := s.mvf.set l (f (s.mvf.get l)) }

/-- Change a generator. -/
def State.modPgn (l : LaneNo) (f : Generator → Generator) (s : State) : State :=
  { s with pgn := s.pgn.set l (f (s.pgn.get l)) }

/-- Change a booth channel. -/
def State.modBch (l : LaneNo) (f : Channel → Channel) (s : State) : State :=
  { s with bch := s.bch.set l (f (s.bch.get l)) }

/-! ### Record slots and recipes -/

/-- The LIVE record of a handle; none for a FREE slot or a number outside 0..47 (R1, R15). -/
def State.panel (s : State) (h : Nat) : Option Panel := (s.slots[h]?).join

/-- Replace a slot. -/
def State.setSlot (h : Nat) (o : Option Panel) (s : State) : State :=
  { s with slots := s.slots.setIfInBounds h o }

/-- Change the LIVE record of a handle; nothing for a FREE slot. -/
def State.modPanel (h : Nat) (f : Panel → Panel) (s : State) : State :=
  match s.panel h with
  | none => s
  | some p => s.setSlot h (some (f p))

/-- The recipe of a number 0..15. -/
def State.recipe (s : State) (r : Nat) : Option Recipe := s.recipes[r]?

/-- Change a recipe. -/
def State.modRecipe (r : Nat) (f : Recipe → Recipe) (s : State) : State :=
  match s.recipe r with
  | none => s
  | some x => { s with recipes := s.recipes.setIfInBounds r (f x) }

/-- The state DEFINED of a recipe: body and cure profile both present (R25). -/
def recipeDefined (r : Recipe) : Bool := r.body.isSome && r.cure.isSome

/-- The recipe number names a DEFINED recipe. -/
def State.definedRecipe (s : State) (r : Nat) : Bool :=
  match s.recipe r with
  | some x => recipeDefined x
  | none => false

/-- The recipe a record names. -/
def State.recipeOf (s : State) (p : Panel) : Option Recipe := p.recipe.bind s.recipe

/-- The body of the recipe a record names. -/
def State.bodyOf (s : State) (p : Panel) : Option Body := (s.recipeOf p).bind Recipe.body

/-- The cure profile of the recipe a record names. -/
def State.cureProfileOf (s : State) (p : Panel) : Option CureProfile := (s.recipeOf p).bind Recipe.cure

/-- The mask map of the recipe a record names. -/
def State.maskMapOf (s : State) (p : Panel) : List MaskZone :=
  match s.recipeOf p with
  | some r => r.map
  | none => []

/-- One more live record names the recipe (R5, R35). -/
def State.addRef (r : Nat) (s : State) : State := s.modRecipe r fun x => { x with refs := x.refs + 1 }

/-- One live record fewer names the recipe (R5, R35). -/
def State.dropRef (r : Nat) (s : State) : State := s.modRecipe r fun x => { x with refs := x.refs - 1 }

/-! ### Free list and ID map (R1, R14) -/

/-- Insert a handle in its ascending place. -/
def insertHandle (h : Nat) : List Nat → List Nat
  | [] => [h]
  | x :: xs => if h < x then h :: x :: xs else x :: insertHandle h xs

/-- The number of FREE slots (R1). -/
def State.freeCount (s : State) : Nat := s.freeList.length

/-- The handle an ID is mapped to (R14). -/
def State.findId (s : State) (id : PanelId) : Option Nat :=
  (s.idMap.find? fun e => e.1 == id).map Prod.snd

/-- Every character is a code in 0x21..0x7E (R4). -/
def idCharsOk (id : PanelId) : Bool := id.all fun c => 0x21 ≤ c.toNat && c.toNat ≤ 0x7E

/-- A panel ID: 1 to 16 characters in 0x21..0x7E (R4). -/
def idOk (id : PanelId) : Bool := 1 ≤ id.length && id.length ≤ 16 && idCharsOk id

/-! ### Ticks (R185) -/

/-- Tick count A lies after B: A − B modulo 2^32 is 1..2,147,483,647 (R185). -/
def tickAfter (a b : Tick) : Bool := 1 ≤ (a - b).toNat && (a - b).toNat ≤ 2147483647

/-- The tick counter has reached an expiry: the expiry lies at or before it (R185). -/
def due (now expiry : Tick) : Bool := !tickAfter expiry now

/-- The tick `ms` milliseconds from now, modulo 2^32 (R185). -/
def State.later (s : State) (ms : Nat) : Tick := s.tick + BitVec.ofNat 32 ms

/-- A timer that runs and whose expiry has been reached. -/
def State.expired (s : State) (timer : Option Tick) : Bool :=
  match timer with
  | none => false
  | some e => due s.tick e

/-! ### Line parameters -/

/-- The place of a station offset among the fourteen (R191: identifier less 1). -/
def offsetIndex : StationOffset → Nat
  | .idWindow => 0
  | .mask => 1
  | .divertA => 2
  | .booth => 3
  | .divertB => 4
  | .flashApproach => 5
  | .transfer => 6
  | .zoneEnd1 => 7
  | .zoneEnd2 => 8
  | .zoneEnd3 => 9
  | .zoneEnd4 => 10
  | .zoneEnd5 => 11
  | .zoneEnd6 => 12
  | .unload => 13

/-- The value of a station offset (R45). -/
def Params.offset (p : Params) (o : StationOffset) : Nat := (p.offsets[offsetIndex o]?).getD 0

/-! ### Outcomes -/

/-- What a step answers. -/
abbrev Result := Host.Outcome State Fault Refusal

/-- While the part is in reset no event of any block is taken (R187); otherwise the event is. -/
def whenRunning (f : State → State) (s : State) : Result :=
  if s.inReset then .next s else .next (f s)

/-- A request carried out: status OK with its data (R178). -/
def State.answer (data : List Byte) (s : State) : State × Response := (s, { status := .ok, data := data })

/-- A request refused: its status, no data, nothing changed (R178, R192). -/
def State.refuse (st : Status) (s : State) : State × Response := (s, { status := st, data := [] })

end Sys2Proof.Machine
end

