-- ==== Sys2Proof/Machine/Flags.lean ====
section
/-! DEFINITION. Sticky flags (R182), notices (R13), and the outputs computed from the state (R52, R58, R59, R87,
R120, R183, R188). -/

namespace Sys2Proof.Machine

/-- Set a sticky flag; setting one already set changes nothing (R182). -/
def Flags.raise (f : Flags) : Flag → Flags
  | .strayId => { f with strayId := true }
  | .strayReport => { f with strayReport := true }
  | .linkError => { f with linkError := true }
  | .zoneAlarm => { f with zoneAlarm := true }
  | .laneFault0 => { f with laneFault0 := true }
  | .laneFault1 => { f with laneFault1 := true }

/-- Set a sticky flag of the part. -/
def State.raiseFlag (fl : Flag) (s : State) : State := { s with flags := s.flags.raise fl }

/-- The lane's fault flag (R48). -/
def laneFaultFlag : LaneNo → Flag
  | .zero => .laneFault0
  | .one => .laneFault1

/-- At least one sticky flag is set (R183). -/
def Flags.any (f : Flags) : Bool :=
  f.strayId || f.strayReport || f.linkError || f.zoneAlarm || f.laneFault0 || f.laneFault1

/-- The empty notice set. -/
def noNotices : Notices :=
  { identified := false, holdRaised := false, diverted := false, cured := false, unloaded := false,
    reentered := false }

/-- Set a notice; setting one already in the set leaves it (R13). -/
def Notices.put (n : Notices) : Notice → Notices
  | .identified => { n with identified := true }
  | .holdRaised => { n with holdRaised := true }
  | .diverted => { n with diverted := true }
  | .cured => { n with cured := true }
  | .unloaded => { n with unloaded := true }
  | .reentered => { n with reentered := true }

/-- The set is non-empty. -/
def Notices.any (n : Notices) : Bool :=
  n.identified || n.holdRaised || n.diverted || n.cured || n.unloaded || n.reentered

/-- Set a notice on a record (R13). -/
def Panel.notify (n : Notice) (p : Panel) : Panel := { p with notices := p.notices.put n }

/-- Some LIVE slot has a non-empty notice set (R13). -/
def State.noticePending (s : State) : Bool :=
  s.slots.toList.any fun o => match o with
    | some p => p.notices.any
    | none => false

/-- ATTN asserted (low): a notice pending or a sticky flag set (R183); negated through reset (R188). -/
def State.attn (s : State) : Bool := !s.inReset && (s.noticePending || s.flags.any)

/-- FRONT_STOP of a lane: asserted exactly while its claim set is non-empty (R59); negated through reset (R188). -/
def State.frontStop (s : State) (l : LaneNo) : Bool :=
  !s.inReset && ((s.ltk.get l).boothClaim || (s.ltk.get l).flashClaim.isSome)

/-- ENTRY_INHIBIT of a lane (R52); asserted through reset (R188). -/
def State.entryInhibit (s : State) (l : LaneNo) : Bool :=
  s.inReset || s.freeCount ≤ s.params.entryReserve || 24 ≤ (s.ltk.get l).front.length ||
  (s.ltk.get l).state == .fault || s.mode == .config

/-- A divert output of a lane: asserted while its pulse runs (R58); negated through reset (R188). -/
def State.divertOut (s : State) (l : LaneNo) (g : DivertGate) : Bool :=
  !s.inReset && (match g with
    | .a => (s.ltk.get l).divertA
    | .b => (s.ltk.get l).divertB
    | .u => (s.ltk.get l).divertU).isSome

/-- INSPECT_TRIG of a lane (R87); negated through reset (R188). -/
def State.inspectTrig (s : State) (l : LaneNo) : Bool :=
  !s.inReset && match (s.mvf.get l).trig with
    | .asserted _ => true
    | _ => false

/-- The gantry select of a lane: asserted while its frame is shifted out (R120, R194); negated through reset. -/
def State.gantrySelect (s : State) (l : LaneNo) : Bool :=
  !s.inReset && match s.port with
    | some f => f.lane == l
    | none => false

/-- The sensor port's select: asserted for the transfers of a poll in flight (R135, R194); negated through reset. -/
def State.sensorSelect (s : State) : Bool := !s.inReset && s.poll.inFlight

/-- The 24 bytes the part sends in a poll: for each channel its number and three bytes 0x00 (R194). -/
def sensorFrames : List Byte := [1, 0, 0, 0, 2, 0, 0, 0, 3, 0, 0, 0, 4, 0, 0, 0, 5, 0, 0, 0, 6, 0, 0, 0]

/-- What the clock and data out lines of the gantry port or the sensor port carry: both low, or the bytes being
shifted out (R188, R194). -/
inductive PortLines where
  | low
  | shifting (bytes : List Byte)
deriving DecidableEq, Repr

/-- GSCK and GMOSI: the frame on the gantry port, low without one and through reset (R120, R188, R194). -/
def State.gantryLines (s : State) : PortLines :=
  match s.inReset, s.port with
  | false, some f => .shifting f.bytes
  | _, _ => .low

/-- TSCK and TMOSI: the transfers of a poll in flight, low without one and through reset (R135, R188, R194). -/
def State.sensorLines (s : State) : PortLines := if s.sensorSelect then .shifting sensorFrames else .low

/-- The byte of a link state (R173). -/
def linkStateByte : LinkState → Byte
  | .idle => 0x00
  | .busy => 0x01
  | .response => 0x02

/-- What MISO does: high impedance, or the byte it is sending (R173, R188). -/
inductive MisoLine where
  | highImpedance
  | sending (byte : Byte)
deriving DecidableEq, Repr

/-- MISO: high impedance while CS_N is high; the link state at the fall of CS_N during the first byte of a frame
(R173, R188). With CS_N low and no frame begun the manual states no level, and the byte is free (log 28). The later
bytes of a frame are in `LineLink.miso`. -/
def State.misoLine (s : State) : MisoLine :=
  if s.link.csn then .highImpedance
  else
    match s.inReset, s.link.frame with
    | false, some st => .sending (linkStateByte st)
    | _, _ => .sending Config.misoUnframed

end Sys2Proof.Machine
end

