-- ==== Sys2Proof/Machine/Holds.lean ====
section
/-! DEFINITION. The hold arbiter's shared operations: reasons and ranks (R153 to R157), the governing hold (R158),
raising (R159, R160), the service chain (R164), and the abort class a coating booth channel asks for (R127). -/

namespace Sys2Proof.Machine

/-- The code of a reason, 1..17 (R153). -/
def HoldReason.code : HoldReason → Nat
  | .overtemp => 1
  | .overcure => 2
  | .trackLost => 3
  | .maskCritical => 4
  | .nozzleBlock => 5
  | .gantryFault => 6
  | .cureUnverified => 7
  | .undercure => 8
  | .duplicateId => 9
  | .idMismatch => 10
  | .inspectTimeout => 11
  | .noRecipe => 12
  | .maskExcess => 13
  | .coatVolume => 14
  | .spacing => 15
  | .noId => 16
  | .hostQa => 17

/-- The reason of a code (R153). -/
def reasonOfCode : Nat → Option HoldReason
  | 1 => some .overtemp
  | 2 => some .overcure
  | 3 => some .trackLost
  | 4 => some .maskCritical
  | 5 => some .nozzleBlock
  | 6 => some .gantryFault
  | 7 => some .cureUnverified
  | 8 => some .undercure
  | 9 => some .duplicateId
  | 10 => some .idMismatch
  | 11 => some .inspectTimeout
  | 12 => some .noRecipe
  | 13 => some .maskExcess
  | 14 => some .coatVolume
  | 15 => some .spacing
  | 16 => some .noId
  | 17 => some .hostQa
  | _ => none

/-- The FIXED reasons: OVERTEMP and OVERCURE (R153). -/
def HoldReason.fixed : HoldReason → Bool
  | .overtemp => true
  | .overcure => true
  | _ => false

/-- The level of a releasable reason as the level table stands (R154). -/
def Params.level (p : Params) (r : HoldReason) : Nat := (p.levels[r.code - 3]?).getD 0

/-- The reason is in the hold mask; only the four maskable reasons can be (R29, R156). -/
def HoldMask.covers (m : HoldMask) : HoldReason → Bool
  | .maskExcess => m.maskExcess
  | .coatVolume => m.coatVolume
  | .spacing => m.spacing
  | .noId => m.noId
  | _ => false

/-- The hold mask of a record without a recipe: no reason (R29). -/
def emptyMask : HoldMask := { maskExcess := false, coatVolume := false, spacing := false, noId := false }

/-- The hold mask of the recipe a record names, read now (R156). -/
def State.holdMaskOf (s : State) (p : Panel) : HoldMask :=
  match s.bodyOf p with
  | some b => b.holdMask
  | none => emptyMask

/-- The rank a reason has under a hold mask and the level table as they stand (R157). -/
def rankOf (prm : Params) (m : HoldMask) (r : HoldReason) : Rank :=
  { masked := m.covers r, fixed := r.fixed, level := prm.level r, code := r.code }

/-- The first of the four tests that separates two ranks decides (R157). -/
def Rank.outranks (a b : Rank) : Bool :=
  if a.masked != b.masked then !a.masked
  else if a.fixed != b.fixed then a.fixed
  else if !a.fixed && a.level != b.level then a.level < b.level
  else a.code < b.code

/-- The live rank of an entry of a list (R157). -/
def entryRank (prm : Params) (m : HoldMask) (e : HoldEntry) : Rank := rankOf prm m e.reason

/-- Insert an entry before the first one it outranks. -/
def insertByRank (prm : Params) (m : HoldMask) (e : HoldEntry) : List HoldEntry → List HoldEntry
  | [] => [e]
  | x :: xs =>
    if (entryRank prm m e).outranks (entryRank prm m x) then e :: x :: xs
    else x :: insertByRank prm m e xs

/-- A hold list in live rank order, the highest-ranked first (R157). -/
def inRankOrder (prm : Params) (m : HoldMask) (holds : List HoldEntry) : List HoldEntry :=
  holds.foldr (insertByRank prm m) []

/-- The entry is PENDING (R155). -/
def HoldEntry.isPending (e : HoldEntry) : Bool :=
  match e.state with
  | .pending => true
  | .inService _ => false

/-- The governing hold of a hold list: its highest-ranked unmasked entry (R158). -/
def governingOf (prm : Params) (m : HoldMask) (holds : List HoldEntry) : Option HoldEntry :=
  (inRankOrder prm m holds).find? fun e => !m.covers e.reason

/-- The governing hold of a record, computed now (R158). -/
def State.governingPanel (s : State) (p : Panel) : Option HoldEntry :=
  governingOf s.params (s.holdMaskOf p) p.holds

/-- The governing hold of a handle, computed now (R158). -/
def State.governing (s : State) (h : Nat) : Option HoldEntry :=
  match s.panel h with
  | some p => s.governingPanel p
  | none => none

/-- The lowest-ranked PENDING entry of a list (R157). -/
def lowestPending (prm : Params) (m : HoldMask) (holds : List HoldEntry) : Option HoldEntry :=
  ((inRankOrder prm m holds).filter HoldEntry.isPending).getLast?

/-- The highest-ranked PENDING entry of a list (R165). -/
def highestPending (prm : Params) (m : HoldMask) (holds : List HoldEntry) : Option HoldEntry :=
  (inRankOrder prm m holds).find? HoldEntry.isPending

/-- The service chain: the IN_SERVICE entries, bottom first (R164, log 14). -/
def serviceChain (holds : List HoldEntry) : List HoldEntry := holds.filter fun e => !e.isPending

/-! ### Raising (R159, R160) -/

/-- The outcome of a raise (R162). -/
inductive RaiseOutcome where
  | added
  | coalesced
  | evicted (reason : HoldReason)
  | dropped
deriving DecidableEq, Repr

/-- A new PENDING entry with count 1 (R159). -/
def newEntry (r : HoldReason) : HoldEntry := { reason := r, state := .pending, count := 1 }

/-- One more occurrence, staying at 15 (R159). -/
def bumpEntry (r : HoldReason) (e : HoldEntry) : HoldEntry :=
  if e.reason = r then { e with count := min 15 (e.count + 1) } else e

/-- A raise on a record: HOLD_RAISED, then coalesce, add, evict or drop (R159, R160). -/
def Panel.raise (prm : Params) (m : HoldMask) (r : HoldReason) (p : Panel) : Panel × RaiseOutcome :=
  let p := p.notify .holdRaised
  if p.holds.any fun e => e.reason == r then
    ({ p with holds := p.holds.map (bumpEntry r) }, .coalesced)
  else if p.holds.length < 4 then
    ({ p with holds := p.holds ++ [newEntry r] }, .added)
  else
    match lowestPending prm m p.holds with
    | none => ({ p with truncated := true }, .dropped)
    | some low =>
      if (rankOf prm m r).outranks (entryRank prm m low) then
        ({ p with
            holds := (p.holds.filter fun e => e.reason != low.reason) ++ [newEntry r]
            truncated := true }, .evicted low.reason)
      else
        ({ p with truncated := true }, .dropped)

/-- The raise on a live record, not passed to any neighbour (R159). -/
def State.raiseQuiet (r : HoldReason) (h : Nat) (s : State) : State :=
  match s.panel h with
  | none => s
  | some p => s.setSlot h (some (p.raise s.params (s.holdMaskOf p) r).1)

/-! ### The abort class (R127) -/

/-- A hold of abort class: FIXED, or of a level at or below the abort level (R127). -/
def abortClass (prm : Params) (e : HoldEntry) : Bool := e.reason.fixed || prm.level e.reason ≤ prm.abortLevel

/-- The record has a governing hold of abort class now. -/
def State.abortHold (s : State) (h : Nat) : Bool :=
  match s.governing h with
  | some e => abortClass s.params e
  | none => false

/-- A channel in COATING asks its hold question: an abort-class governing hold sends it to ABORTING (R127). -/
def State.askAbort (l : LaneNo) (s : State) : State :=
  match (s.bch.get l).served with
  | none => s
  | some h =>
    if (s.bch.get l).state == .coating && s.abortHold h then
      s.modBch l fun c => { c with state := .aborting }
    else s

/-- A raise is passed to the booth channel that serves the record (R159). -/
def State.tellBooth (h : Nat) (s : State) : State :=
  match s.panel h with
  | none => s
  | some p => if (s.bch.get p.lane).served = some h then s.askAbort p.lane else s

/-- A raise by a block other than the serving channel, or by the host: on the record, then to the channel (R159). -/
def State.raise (r : HoldReason) (h : Nat) (s : State) : State := (s.raiseQuiet r h).tellBooth h

/-- Raise one reason on each record of a list, in its order. -/
def State.raiseAll (r : HoldReason) (hs : List Nat) (s : State) : State := hs.foldl (fun s h => s.raise r h) s

end Sys2Proof.Machine
end

