-- ==== Sys2Proof/Machine/Operands.lean ====
section
/-! DEFINITION. Operand forms: the 10 us sample of an input (R186), sample times, and multi-byte fields most
significant byte first (R189), and the bits of the line link's bytes (R173). -/

namespace Sys2Proof.Machine

/-! ### Sampled inputs (R186) -/

/-- The station-side inputs of a lane. -/
inductive LaneInput where
  | encFront | encOven | eyeEntry | eyeOven | eyeUnload | moveDone | gantryErr | flow
deriving DecidableEq, Repr

/-- The last sampled level of an input. -/
def LaneInputs.level (i : LaneInputs) : LaneInput → Option Bool
  | .encFront => i.encFront
  | .encOven => i.encOven
  | .eyeEntry => i.eyeEntry
  | .eyeOven => i.eyeOven
  | .eyeUnload => i.eyeUnload
  | .moveDone => i.moveDone
  | .gantryErr => i.gantryErr
  | .flow => i.flow

/-- Keep the level a sample finds. -/
def LaneInputs.sampled (i : LaneInputs) (k : LaneInput) (v : Bool) : LaneInputs :=
  match k with
  | .encFront => { i with encFront := some v }
  | .encOven => { i with encOven := some v }
  | .eyeEntry => { i with eyeEntry := some v }
  | .eyeOven => { i with eyeOven := some v }
  | .eyeUnload => { i with eyeUnload := some v }
  | .moveDone => { i with moveDone := some v }
  | .gantryErr => { i with gantryErr := some v }
  | .flow => { i with flow := some v }

/-- A rising edge: the sample finds the input high and the previous sample found it low (R186). The first sample
after reset has no previous one and recognises no edge (R187). -/
def risingEdge (last : Option Bool) (level : Bool) : Bool := last == some false && level

/-- The last sampled level of a lane's input. -/
def State.inputLevel (s : State) (l : LaneNo) (k : LaneInput) : Option Bool := (s.inputs.get l).level k

/-- Keep the level a sample finds on a lane's input. -/
def State.keepLevel (l : LaneNo) (k : LaneInput) (v : Bool) (s : State) : State :=
  { s with inputs := s.inputs.set l ((s.inputs.get l).sampled k v) }

/-- One sample of a lane's input: keep its level and, at a rising edge, take the edge's event (R186). -/
def State.onEdge (l : LaneNo) (k : LaneInput) (v : Bool) (event : State → State) (s : State) : State :=
  if risingEdge (s.inputLevel l k) v then event (s.keepLevel l k v) else s.keepLevel l k v

/-- The sample number of an event in the present millisecond: not before the last one acted on and not past the
next tick boundary, 100 samples after the last (R185, R186; log 9). -/
def State.sampleAt (s : State) (at_ : Nat) : Nat := max s.samples (min at_ (s.tickSample + 100))

/-! ### Fields (R189) -/

/-- Two bytes, most significant first; the two's complement of a negative value. -/
def be16 (v : Int) : List Byte :=
  let w := BitVec.ofInt 16 v
  [w.extractLsb' 8 8, w.extractLsb' 0 8]

/-- Four bytes, most significant first; the two's complement of a negative value. -/
def be32 (v : Int) : List Byte :=
  let w := BitVec.ofInt 32 v
  [w.extractLsb' 24 8, w.extractLsb' 16 8, w.extractLsb' 8 8, w.extractLsb' 0 8]

/-- One byte. -/
def be8 (v : Nat) : Byte := BitVec.ofNat 8 v

/-- The byte at a place of a parameter list. -/
def byteAt (ps : List Byte) (i : Nat) : Byte := ps.getD i 0

/-- The unsigned one-byte field at a place. -/
def u8At (ps : List Byte) (i : Nat) : Nat := (byteAt ps i).toNat

/-- The two bytes at a place as a word. -/
def w16At (ps : List Byte) (i : Nat) : BitVec 16 := byteAt ps i ++ byteAt ps (i + 1)

/-- The unsigned two-byte field at a place. -/
def u16At (ps : List Byte) (i : Nat) : Nat := (w16At ps i).toNat

/-- The signed two-byte field at a place. -/
def s16At (ps : List Byte) (i : Nat) : Int := (w16At ps i).toInt

/-- The four bytes at a place as a word. -/
def w32At (ps : List Byte) (i : Nat) : BitVec 32 := w16At ps i ++ w16At ps (i + 2)

/-- The unsigned four-byte field at a place. -/
def u32At (ps : List Byte) (i : Nat) : Nat := (w32At ps i).toNat

/-- The signed four-byte field at a place. -/
def s32At (ps : List Byte) (i : Nat) : Int := (w32At ps i).toInt

/-! ### Bits of the line link (R173) -/

/-- The whole bytes of the bits clocked in a frame, most significant bit first; bits after the last whole byte are
ignored (R173). -/
def wholeBytes : List Bool → List Byte
  | b7 :: b6 :: b5 :: b4 :: b3 :: b2 :: b1 :: b0 :: rest =>
    BitVec.ofBoolListBE [b7, b6, b5, b4, b3, b2, b1, b0] :: wholeBytes rest
  | _ => []

/-- The type byte of a frame, its first whole byte (R173). -/
def frameType (bits : List Bool) : Option Byte := (wholeBytes bits).head?

/-- A byte's bits, most significant first (R173). -/
def byteBits (b : Byte) : List Bool := [b[7], b[6], b[5], b[4], b[3], b[2], b[1], b[0]]

/-- The bits of bytes sent one after another (R173). -/
def bitsOf (bytes : List Byte) : List Bool := bytes.flatMap byteBits

/-- A yes/no byte. -/
def boolByte (b : Bool) : Byte := if b then 1 else 0

end Sys2Proof.Machine
end

