-- ==== Sys2Proof/Machine/PathGen.lean ====
section
/-! DEFINITION. The path generator: from loop indices to a segment (R102 to R104), guards (R109 to R111), traverses,
durations and expected pulses (R112 to R114), and its answers to a booth channel (R101, R105, R108). -/

namespace Sys2Proof.Machine

/-! ### Arithmetic -/

/-- The bits of the floor of a square root from place `k` down, given those found so far. -/
def sqrtBits (n : Nat) : Nat → Nat → Nat
  | 0, acc => acc
  | k + 1, acc => sqrtBits n k (if (acc + 2 ^ k) * (acc + 2 ^ k) ≤ n then acc + 2 ^ k else acc)

/-- The floor of the square root. -/
def floorSqrt (n : Nat) : Nat := sqrtBits n (n.log2 / 2 + 1) 0

/-- The least L with L × L ≥ n (R112). -/
def ceilSqrt (n : Nat) : Nat := if floorSqrt n * floorSqrt n = n then floorSqrt n else floorSqrt n + 1

/-- The length of a traverse: the straight-line distance rounded up to a whole millimetre (R112). -/
def traverseLength (p q : Point) : Nat :=
  ceilSqrt ((p.x - q.x).natAbs * (p.x - q.x).natAbs + (p.y - q.y).natAbs * (p.y - q.y).natAbs)

/-- The nominal duration ceil(L × 1000 / v) (R113). -/
def nominalDuration (len speed : Nat) : Nat := (len * 1000 + (speed - 1)) / speed

/-- The expected pulses floor((F × d + 500) / 1000) (R114). -/
def expectedPulses (flowRate d : Nat) : Nat := (flowRate * d + 500) / 1000

/-- The park point (R108). -/
def parkPoint : Point := { x := 0, y := 0 }

/-! ### From loop indices to a pool segment (R102 to R104) -/

/-- The row number of a row index in a coat (R102). -/
def rowNumber (b : Body) (coat i : Nat) : Nat := if b.reversal && coat == 1 then b.rows - 1 - i else i

/-- The row runs backwards: SERPENTINE and an odd row number (R103). -/
def rowReversed (b : Body) (r : Nat) : Bool := b.serpentine && r % 2 == 1

/-- The place of a step's entry in the run of the pool: rotation, then the serpentine mirror (R103). -/
def stepPlace (b : Body) (coat r j : Nat) : Nat :=
  let m := (j + coat * b.rotation) % b.segs
  if rowReversed b r then b.segs - 1 - m else m

/-- A pool entry's start point, moved by the row offset (R104). -/
def shiftedStart (b : Body) (r : Nat) (g : Segment) : Point := { x := g.x0, y := g.y0 + (r : Int) * b.dy }

/-- A pool entry's end point, moved by the row offset (R104). -/
def shiftedStop (b : Body) (r : Nat) (g : Segment) : Point := { x := g.x1, y := g.y1 + (r : Int) * b.dy }

/-- The length of an entry along its axis (R104). -/
def segmentLength (g : Segment) : Nat :=
  if g.y0 = g.y1 then ((g.x1 : Int) - g.x0).natAbs else ((g.y1 : Int) - g.y0).natAbs

/-- The candidate segment of R104: the pool entry and its number, the row number, and the ends it runs between. -/
structure Candidate where
  entry : Nat
  row : Nat
  seg : Segment
  start : Point
  stop : Point
deriving DecidableEq, Repr

/-- The candidate segment that c, i and j name (R102 to R104). -/
def candidate (pool : Vector (Option Segment) 384) (b : Body) (coat i j : Nat) : Option Candidate :=
  let r := rowNumber b coat i
  let e := b.base + stepPlace b coat r j
  match (pool[e]?).join with
  | none => none
  | some g =>
    if rowReversed b r then
      some { entry := e, row := r, seg := g, start := shiftedStop b r g, stop := shiftedStart b r g }
    else
      some { entry := e, row := r, seg := g, start := shiftedStart b r g, stop := shiftedStop b r g }

/-! ### Guarded zones (R109 to R111) -/

/-- The guard rectangles of a record: the map entries whose zones lie in its guard set (R109). -/
def State.guardRects (s : State) (p : Panel) : List MaskZone :=
  match p.mask with
  | none => []
  | some m => (s.maskMapOf p).filter fun z => m.guards.contains z.zone

/-- The segment between two points and the closed rectangle share a point (R110): the horizontal rule where both
ends have one y, the vertical rule otherwise. -/
def meetsRect (a b : Point) (z : MaskZone) : Bool :=
  if a.y = b.y then
    (z.y0 : Int) ≤ a.y && a.y ≤ z.y1 && min a.x b.x ≤ z.x1 && (z.x0 : Int) ≤ max a.x b.x
  else
    (z.x0 : Int) ≤ a.x && a.x ≤ z.x1 && min a.y b.y ≤ z.y1 && (z.y0 : Int) ≤ max a.y b.y

/-! ### Orders (R105, R106) -/

/-- A traverse between two points (R106, R112). -/
def traverseOrder (speed : Nat) (p q : Point) : MoveOrder :=
  { kind := .traverse, start := p, stop := q, speed := speed, valveOpen := false, suppressed := false, last := false,
    duration := nominalDuration (traverseLength p q) speed, expected := 0 }

/-- A segment order for a candidate (R106, R111, R113, R114). -/
def segmentOrder (b : Body) (rects : List MaskZone) (step : Nat) (last : Bool) (c : Candidate) : MoveOrder :=
  let supp := c.seg.valveOpen && rects.any (meetsRect c.start c.stop)
  let d := nominalDuration (segmentLength c.seg) c.seg.speed
  { kind := .segment c.entry c.row step, start := c.start, stop := c.stop, speed := c.seg.speed,
    valveOpen := c.seg.valveOpen && !supp, suppressed := supp, last := last, duration := d,
    expected := if c.seg.valveOpen && !supp then expectedPulses b.flowRate d else 0 }

/-- The step and row after a segment order: the step advances, and at the row's end the row index does (R105). -/
def advanceStep (b : Body) (i j : Nat) : Nat × Nat := if j + 1 = b.segs then (i + 1, 0) else (i, j + 1)

/-- The generator takes a coat start in any state; the tracked position is kept (R101). -/
def State.startGenerator (l : LaneNo) (h coat : Nat) (s : State) : State :=
  s.modPgn l fun g => { g with state := .generating, record := some h, coat := coat, row := 0, step := 0 }

/-- The next order of a GENERATING generator from its body and candidate (R105). -/
def nextFrom (speed : Nat) (b : Body) (rects : List MaskZone) (g : Generator) (c : Candidate) :
    Generator × MoveOrder :=
  if c.start ≠ g.pos then
    ({ g with pos := c.start }, traverseOrder speed g.pos c.start)
  else
    let n := advanceStep b g.row g.step
    let ended := n.1 = b.rows
    ({ g with
        state := if ended then .coatEnded else .generating
        row := n.1
        step := n.2
        pos := c.stop }, segmentOrder b rects g.step ended c)

/-- A request for the next order: an order in GENERATING, none in COAT_ENDED or IDLE (R105). -/
def State.nextOrder (l : LaneNo) (s : State) : State × Option MoveOrder :=
  let g := s.pgn.get l
  if g.state ≠ .generating then (s, none)
  else
    match g.record.bind s.panel with
    | none => (s, none)
    | some p =>
      match s.bodyOf p with
      | none => (s, none)
      | some b =>
        match candidate s.pool b g.coat g.row g.step with
        | none => (s, none)
        | some c =>
          let n := nextFrom s.params.traverseSpeed b (s.guardRects p) g c
          (s.modPgn l fun _ => n.1, some n.2)

/-- A park request: the rest of the coat is dropped; a park traverse unless already at (0,0) (R108). -/
def State.parkOrder (l : LaneNo) (s : State) : State × Option MoveOrder :=
  let pos := (s.pgn.get l).pos
  (s.modPgn l fun g => { g with state := .idle, record := none, pos := parkPoint },
   if pos = parkPoint then none else some (traverseOrder s.params.traverseSpeed pos parkPoint))

/-- The generator goes to IDLE with its record absent, the tracked position kept (R115, channel FAULT). -/
def State.idleGenerator (l : LaneNo) (s : State) : State :=
  s.modPgn l fun g => { g with state := .idle, record := none }

/-- The bytes of a move order frame (R194). -/
def orderFrame (o : MoveOrder) : List Byte :=
  be16 o.start.x ++ be16 o.start.y ++ be16 o.stop.x ++ be16 o.stop.y ++ be16 o.speed ++ [boolByte o.valveOpen]

end Sys2Proof.Machine
end

