-- ==== Sys2Proof/Machine/Booth.lean ====
section
/-! DEFINITION. The booth channels (Chapter 7): the gantry port (R120), coats (R119, R124, R125), recoat (R126),
aborting and parking (R128, R129), FAULT (R122), and the meanings of the booth's commands. -/

namespace Sys2Proof.Machine

/-- The record the lane's channel serves (R116). -/
def State.served (s : State) (l : LaneNo) : Option Nat := (s.bch.get l).served

/-! ### The gantry port (R120) -/

/-- An order in hand that waits for the port. -/
def Channel.waiting (c : Channel) : Bool := c.order.isSome && !c.inFlight

/-- The send of the order in hand: it is in flight, its marks are cleared and its frame is on the port (R120). -/
def State.send (l : LaneNo) (s : State) : State :=
  match (s.bch.get l).order with
  | none => s
  | some o =>
    { s.modBch l fun c => { c with inFlight := true, doneSeen := false, durationExpired := false, flow := 0 } with
      port := some { lane := l, bytes := orderFrame o } }

/-- The channel offers an order to the port: it is sent at once when the port is free and waits otherwise. The send
tick is the tick of the offer in both cases (R120). -/
def State.offer (l : LaneNo) (o : MoveOrder) (s : State) : State :=
  let s := s.modBch l fun c => { c with order := some o, inFlight := false, sendTick := s.tick }
  if s.port.isNone then s.send l else s

/-- The transfer on the port ends; the other lane's waiting order is sent, or else the same lane's (R120, log 18). -/
def State.portEnd (s : State) : State :=
  match s.port with
  | none => s
  | some f =>
    let s := { s with port := none }
    if (s.bch.get (otherLane f.lane)).waiting then s.send (otherLane f.lane)
    else if (s.bch.get f.lane).waiting then s.send f.lane
    else s

/-! ### Coat entries -/

/-- Change the last element of a list. -/
def modLast {α : Type} (f : α → α) : List α → List α
  | [] => []
  | [x] => [f x]
  | x :: y :: xs => x :: modLast f (y :: xs)

/-- A new coat list entry (R119). -/
def newCoat : CoatEntry := { expected := 0, counted := 0, run := 0, suppressed := 0, completed := false }

/-- Addition saturating at 4,294,967,295 (R9, R124). -/
def satAdd (a b : Nat) : Nat := min 4294967295 (a + b)

/-- A completed segment order's counts are added to the coat entry (R124 step 2). -/
def addOrder (o : MoveOrder) (flow : Nat) (e : CoatEntry) : CoatEntry :=
  { e with
    expected := satAdd e.expected o.expected
    counted := satAdd e.counted flow
    run := e.run + 1
    suppressed := e.suppressed + (if o.suppressed then 1 else 0) }

/-- The number of completed entries of a coat list (R125, R129). -/
def completedCoats (coats : List CoatEntry) : Nat := coats.countP CoatEntry.completed

/-- The coats of the recipe a record names. -/
def State.recipeCoats (s : State) (p : Panel) : Nat :=
  match s.bodyOf p with
  | some b => b.coats
  | none => 0

/-! ### Parking (R129) -/

/-- The channel returns to IDLE: no record served, no order in hand, the BOOTH claim removed (R116, R129). -/
def State.channelIdle (l : LaneNo) (s : State) : State :=
  (s.modBch l fun c =>
    { c with state := .idle, served := none, order := none, inFlight := false, recoatExpiry := none }).modLtk l
    fun t => { t with boothClaim := false }

/-- Every coat of the pass is completed (R129). -/
def State.passComplete (s : State) (p : Panel) : Bool := completedCoats p.coats == s.recipeCoats p

/-- A record whose pass is complete becomes FLASHING with its flash end time; any other keeps its stage (R129). -/
def State.flashAfterPass (h : Nat) (s : State) : State :=
  match s.panel h with
  | none => s
  | some p =>
    match s.bodyOf p with
    | none => s
    | some b =>
      if s.passComplete p then
        s.modPanel h fun p => { p with stage := .flashing, flashEnd := some (s.later (b.flashMin * 1000)) }
      else s

/-- The completion of the park traverse (R129). -/
def State.parkDone (l : LaneNo) (s : State) : State :=
  match s.served l with
  | none => s.channelIdle l
  | some h => (s.flashAfterPass h).channelIdle l

/-- Entry to PARKING: the park traverse is offered, or the gantry is already parked (R129). -/
def State.enterPark (l : LaneNo) (s : State) : State :=
  let s := s.modBch l fun c => { c with state := .parking, recoatExpiry := none }
  let r := s.parkOrder l
  match r.2 with
  | none => r.1.parkDone l
  | some o => r.1.offer l o

/-! ### Coats (R119, R124 to R126) -/

/-- The channel asks for the next order and offers it (R119, R124). -/
def State.askNext (l : LaneNo) (s : State) : State :=
  let r := s.nextOrder l
  match r.2 with
  | none => r.1
  | some o => r.1.offer l o

/-- A coat starts: a new coat entry, the generator's coat, COATING and the first order (R119). -/
def State.startCoat (l : LaneNo) (s : State) : State :=
  match s.served l with
  | none => s
  | some h =>
    let s := s.modPanel h fun p => { p with coats := p.coats ++ [newCoat] }
    let s := s.startGenerator l h (s.bch.get l).coat
    let s := s.modBch l fun c => { c with state := .coating, recoatExpiry := none }
    s.askNext l

/-- A coat after the first: started only without a governing hold, otherwise PARKING (R119, R126). -/
def State.nextCoat (l : LaneNo) (s : State) : State :=
  match s.served l with
  | none => s
  | some h => if (s.governing h).isSome then s.enterPark l else s.startCoat l

/-- The coat check fails: C × 100 outside E × (100 − t) .. E × (100 + t) (R125). -/
def coatCheckFails (tol : Nat) (e : CoatEntry) : Bool :=
  0 < e.expected &&
  ((e.counted : Int) * 100 < (e.expected : Int) * (100 - (tol : Int)) ||
   (e.expected : Int) * (100 + (tol : Int)) < (e.counted : Int) * 100)

/-- The coat ends: completed, coats applied, coat check, then RECOAT_WAIT or PARKING (R125, R126). A recoat interval
of 0 s starts the next coat in the same event. -/
def State.endCoat (l : LaneNo) (s : State) : State :=
  match s.served l with
  | none => s
  | some h =>
    match s.panel h with
    | none => s
    | some p =>
      match s.bodyOf p with
      | none => s
      | some b =>
        let coats := modLast (fun e => { e with completed := true }) p.coats
        let s := s.setSlot h (some { p with coats := coats, coatsApplied := p.coatsApplied + 1 })
        let s := if (coats.getLast?.map (coatCheckFails b.flowTol)).getD false then s.raiseQuiet .coatVolume h else s
        if completedCoats coats < b.coats then
          let s := s.modBch l fun c =>
            { c with
              state := .recoatWait
              coat := c.coat + 1
              recoatExpiry := some (s.later (b.recoat * 1000)) }
          if b.recoat = 0 then s.nextCoat l else s
        else s.enterPark l

/-- The per-segment check fails: an OPEN, unsuppressed segment expecting 20 or more counted less than a quarter
(R124 step 1). -/
def nozzleBlocked (o : MoveOrder) (flow : Nat) : Bool :=
  match o.kind with
  | .traverse => false
  | .segment _ _ _ => o.valveOpen && !o.suppressed && 20 ≤ o.expected && flow < o.expected / 4

/-- The order is a segment order (R106). -/
def MoveOrder.isSegment (o : MoveOrder) : Bool :=
  match o.kind with
  | .traverse => false
  | .segment _ _ _ => true

/-- The per-segment check and the accounts of a completed order (R124 steps 1 and 2). -/
def State.accountOrder (h : Nat) (o : MoveOrder) (flow : Nat) (s : State) : State :=
  let s := if nozzleBlocked o flow then s.raiseQuiet .nozzleBlock h else s
  if o.isSegment then s.modPanel h fun p => { p with coats := modLast (addOrder o flow) p.coats } else s

/-- What follows a completed order in COATING: coat end, PARKING on an abort-class hold, or the next order
(R124 step 3). -/
def State.afterOrder (l : LaneNo) (h : Nat) (o : MoveOrder) (s : State) : State :=
  if o.last then s.endCoat l
  else if s.abortHold h then s.enterPark l
  else s.askNext l

/-- The completion of the order in flight, by the channel's state (R121, R124, R128, R129). -/
def State.completeOrder (l : LaneNo) (s : State) : State :=
  let c := s.bch.get l
  match c.order, c.served with
  | some o, some h =>
    let s := s.modBch l fun c => { c with order := none, inFlight := false }
    match c.state with
    | .coating => (s.accountOrder h o c.flow).afterOrder l h o
    | .aborting => (s.accountOrder h o c.flow).enterPark l
    | .parking => s.parkDone l
    | _ => s
  | _, _ => s

/-! ### FAULT, and bringing a channel back (R122, R131, R132) -/

/-- Entry to FAULT: the order in hand is abandoned, the generator is IDLE, GANTRY_FAULT is raised on the served
record; the claim and the served record stay (R122). -/
def State.enterFault (l : LaneNo) (s : State) : State :=
  let s := s.modBch l fun c =>
    { c with state := .fault, order := none, inFlight := false, flow := 0, recoatExpiry := none }
  let s := s.idleGenerator l
  match s.served l with
  | none => s
  | some h => s.raise .gantryFault h

/-- The channel is serving a record and not in FAULT, so that GANTRY_ERR acts on it (R122). -/
def ChannelState.gantryErrActs : ChannelState → Bool
  | .settling | .coating | .recoatWait | .aborting | .parking => true
  | .idle | .fault => false

/-- CLEAR_LANE brings the channel to IDLE without a park move; the tracked position becomes (0,0) (R115, R132). -/
def State.clearBooth (l : LaneNo) (s : State) : State :=
  let s := s.modPgn l fun g => { g with state := .idle, record := none, pos := parkPoint }
  if (s.bch.get l).state = .idle then s
  else (s.modBch l fun c => { c with flow := 0 }).channelIdle l

/-! ### Arrival at BOOTH and the settled event (R117, R118) -/

/-- The IDLE channel takes a VERIFIED record: served, BOOTH claim, SETTLING; FAULT at once when GANTRY_ERR is
asserted (R117, R122). -/
def State.takeAtBooth (l : LaneNo) (h : Nat) (s : State) : State :=
  let s := (s.modBch l fun c => { c with state := .settling, served := some h }).modLtk l
    fun t => { t with boothClaim := true }
  if s.inputLevel l .gantryErr = some true then s.enterFault l else s

/-- The arrival of a record at BOOTH (R117). -/
def State.arriveBooth (l : LaneNo) (h : Nat) (s : State) : State :=
  match s.panel h with
  | none => s
  | some p =>
    if p.stage = .verified then
      match (s.bch.get l).state with
      | .idle => s.takeAtBooth l h
      | .fault => s.raise .gantryFault h
      | _ => s.raise .spacing h
    else s

/-- The settled event in SETTLING: IDLE on a governing hold, otherwise coat 0 of a new pass (R118). -/
def State.settled (l : LaneNo) (s : State) : State :=
  match s.served l with
  | none => s
  | some h =>
    if (s.bch.get l).state = .settling then
      if (s.governing h).isSome then s.channelIdle l
      else
        let s := s.modPanel h fun p => { p with coats := [], stage := .spraying }
        let s := s.modBch l fun c => { c with coat := 0 }
        s.startCoat l
    else s

/-! ### The booth's commands -/

/-- GANTRY_TRANSFER_END (R120). -/
def execGantryTransferEnd (s : State) : Result := whenRunning State.portEnd s

/-- A MOVE_DONE edge: for the order in flight and not yet seen, it completes the order if its duration has expired
and otherwise marks it seen (R121). -/
def State.moveDoneEdge (l : LaneNo) (s : State) : State :=
  let c := s.bch.get l
  if c.inFlight && c.order.isSome && !c.doneSeen then
    let s := s.modBch l fun c => { c with doneSeen := true }
    if c.durationExpired then s.completeOrder l else s
  else s

/-- MOVE_DONE (R121, R186). -/
def execMoveDone (l : LaneNo) (level : Bool) (s : State) : Result :=
  whenRunning (State.onEdge l .moveDone level (State.moveDoneEdge l)) s

/-- The duration timer of the order in flight expires d ms after the send tick (R120, R121). -/
def State.durationEnd (l : LaneNo) (s : State) : State :=
  let c := s.bch.get l
  match c.order with
  | none => s
  | some o =>
    if c.inFlight && !c.durationExpired && due s.tick (c.sendTick + BitVec.ofNat 32 o.duration) then
      let s := s.modBch l fun c => { c with durationExpired := true }
      if c.doneSeen then s.completeOrder l else s
    else s

/-- DURATION_EXPIRY (R121). -/
def execDurationExpiry (l : LaneNo) (s : State) : Result := whenRunning (State.durationEnd l) s

/-- The timeout of the order in flight expires 2 × d + 500 ms after the send tick with MOVE_DONE not seen (R122). -/
def State.moveTimeoutEnd (l : LaneNo) (s : State) : State :=
  let c := s.bch.get l
  match c.order with
  | none => s
  | some o =>
    if c.inFlight && !c.doneSeen && due s.tick (c.sendTick + BitVec.ofNat 32 (2 * o.duration + 500)) then
      s.enterFault l
    else s

/-- MOVE_TIMEOUT (R122). -/
def execMoveTimeout (l : LaneNo) (s : State) : Result := whenRunning (State.moveTimeoutEnd l) s

/-- One sample of GANTRY_ERR: a level, asserted high, that puts a serving channel in FAULT (R122, R186). -/
def State.gantryErrSample (l : LaneNo) (level : Bool) (s : State) : State :=
  let s := s.keepLevel l .gantryErr level
  if level && (s.bch.get l).state.gantryErrActs then s.enterFault l else s

/-- GANTRY_ERR (R122). -/
def execGantryErr (l : LaneNo) (level : Bool) (s : State) : Result := whenRunning (State.gantryErrSample l level) s

/-- A flow-meter pulse is counted while an OPEN, unsuppressed segment order is in flight (R123). -/
def State.countPulse (l : LaneNo) (s : State) : State :=
  let c := s.bch.get l
  match c.order with
  | none => s
  | some o =>
    if c.inFlight && o.isSegment && o.valveOpen && !o.suppressed then
      s.modBch l fun c => { c with flow := satAdd c.flow 1 }
    else s

/-- FLOW_PULSE (R123, R186). -/
def execFlowPulse (l : LaneNo) (level : Bool) (s : State) : Result :=
  whenRunning (State.onEdge l .flow level (State.countPulse l)) s

/-- The recoat wait ends at its expiry: the next coat, or PARKING on a governing hold (R126). -/
def State.recoatEnd (l : LaneNo) (s : State) : State :=
  if (s.bch.get l).state = .recoatWait && s.expired (s.bch.get l).recoatExpiry then
    (s.modBch l fun c => { c with recoatExpiry := none }).nextCoat l
  else s

/-- RECOAT_EXPIRY (R126). -/
def execRecoatExpiry (l : LaneNo) (s : State) : Result := whenRunning (State.recoatEnd l) s

/-- RESET_BOOTH's checks and effect (R131). -/
def serveResetBooth (lane : Nat) (s : State) : State × Response :=
  match laneOfNat lane with
  | none => s.refuse .range
  | some l =>
    if (s.bch.get l).state = .fault then
      ((s.channelIdle l).modPgn l fun g => { g with pos := parkPoint }).answer []
    else s.refuse .badState

end Sys2Proof.Machine
end

