-- ==== Sys2Proof/Machine/Mask.lean ====
section
/-! DEFINITION. The mask verifier (Chapter 5): trigger and pulses (R86, R87), windows (R89, R90), evaluation (R92 to
R95), resynchronisation and waiver (R97, R98), and the meanings of its commands. -/

namespace Sys2Proof.Machine

/-! ### Windows -/

/-- The record leaves its lane's inspecting list; its window timer is cancelled with its entry (R84). -/
def State.leaveInspecting (l : LaneNo) (h : Nat) (s : State) : State :=
  s.modMvf l fun m => { m with inspecting := m.inspecting.filter fun w => w.handle != h }

/-- A window ends without a report: the record leaves the list with its tag and mask result absent, becomes
VERIFIED and is held INSPECT_TIMEOUT (R86 step 1, R89, R90). -/
def State.endWindow (h : Nat) (s : State) : State :=
  match s.panel h with
  | none => s
  | some p =>
    ((s.leaveInspecting p.lane h).modPanel h fun p =>
      { p with inspectTag := none, mask := none, stage := .verified }).raise .inspectTimeout h

/-- The record of a lane's inspecting list that holds a tag (R91). -/
def State.inspectingWithTag (s : State) (l : LaneNo) (tag : BitVec 4) : Option Nat :=
  ((s.mvf.get l).inspecting.map Window.handle).find? fun h =>
    match s.panel h with
    | some p => p.inspectTag == some tag
    | none => false

/-! ### The trigger (R86, R87) -/

/-- One pulse is owed to INSPECT_TRIG: asserted at once when the output is free with no backlog, and otherwise
added to the backlog (R87). -/
def State.owePulse (l : LaneNo) (s : State) : State :=
  s.modMvf l fun m =>
    if m.trig = .free && m.backlog = 0 then { m with trig := .asserted (s.later 5) }
    else { m with backlog := m.backlog + 1 }

/-- Tag reuse: the record that still holds the tag about to be given has its window ended (R86 step 1). -/
def State.reuseTag (l : LaneNo) (s : State) : State :=
  match s.inspectingWithTag l (s.mvf.get l).tag with
  | none => s
  | some h => s.endWindow h

/-- A trigger (R86). -/
def State.trigger (l : LaneNo) (h : Nat) (s : State) : State :=
  let tag := (s.mvf.get l).tag
  let s := s.reuseTag l
  let s := s.modPanel h fun p => { p with inspectTag := some tag, stage := .inspecting }
  let s := s.modMvf l fun m =>
    { m with
      tag := m.tag + 1
      inspecting := m.inspecting ++ [{ handle := h, expiry := s.later s.params.inspectTimeout }] }
  s.owePulse l

/-- An arrival at MASK handed over by the lane tracker: bypass, hold-back or trigger (R85). -/
def State.maskStation (l : LaneNo) (h : Nat) (s : State) : State :=
  match s.panel h with
  | none => s
  | some p =>
    if p.resume = some .fromSpray && p.mask.isSome then
      s.modPanel h fun p => { p with stage := .verified }
    else if (s.mvf.get l).backlog = 24 then
      (s.modPanel h fun p => { p with stage := .verified, mask := none }).raise .inspectTimeout h
    else s.trigger l h

/-! ### Evaluation (R92 to R95) -/

/-- The counted status of a zone: the last pair naming it, ABSENT when none does (R92). -/
def countedStatus (pairs : List (Nat × ZoneStatus)) (zone : Nat) : ZoneStatus :=
  match (pairs.filter fun e => e.1 == zone).getLast? with
  | some e => e.2
  | none => .absent

/-- The defect list: every map zone whose counted status is a defect, in zone order (R92). -/
def defectList (map : List MaskZone) (pairs : List (Nat × ZoneStatus)) : List (Nat × ZoneStatus) :=
  (map.map fun z => (z.zone, countedStatus pairs z.zone)).filter fun e => e.2 != .present

/-- A zone of the defect list has a CRITICAL entry in the mask map (R93, R98). -/
def criticalDefect (map : List MaskZone) (defects : List (Nat × ZoneStatus)) : Bool :=
  defects.any fun d => map.any fun z => z.zone == d.1 && z.critical

/-- The mask result and the hold named by an evaluation (R93, R94). -/
def evaluateReport (map : List MaskZone) (minorTol : Nat) (mask : HoldMask) (pairs : List (Nat × ZoneStatus)) :
    MaskResult × Option HoldReason :=
  let ds := defectList map pairs
  if criticalDefect map ds then
    ({ verdict := .failed, defects := ds, guards := [] }, some .maskCritical)
  else if ds.length = 0 then
    ({ verdict := .pass, defects := ds, guards := [] }, none)
  else if ds.length ≤ minorTol then
    ({ verdict := .passGuarded, defects := ds, guards := ds.map Prod.fst }, none)
  else if mask.maskExcess then
    ({ verdict := .passGuarded, defects := ds, guards := ds.map Prod.fst }, some .maskExcess)
  else
    ({ verdict := .failed, defects := ds, guards := [] }, some .maskExcess)

/-- The minor-defect tolerance of a record's recipe. -/
def State.minorTolOf (s : State) (p : Panel) : Nat :=
  match s.bodyOf p with
  | some b => b.minorTol
  | none => 0

/-- Raise the hold an evaluation names, if any (R95 step 2). -/
def State.raiseOpt (r : Option HoldReason) (h : Nat) (s : State) : State :=
  match r with
  | none => s
  | some r => s.raise r h

/-- The outcome of an evaluation is applied to the matched record in one event (R95). -/
def State.applyReport (h : Nat) (pairs : List (Nat × ZoneStatus)) (s : State) : State :=
  match s.panel h with
  | none => s
  | some p =>
    let e := evaluateReport (s.maskMapOf p) (s.minorTolOf p) (s.holdMaskOf p) pairs
    let s := s.modPanel h fun p => { p with mask := some e.1 }
    let s := s.raiseOpt e.2 h
    (s.leaveInspecting p.lane h).modPanel h fun p => { p with inspectTag := none, stage := .verified }

/-- A report accepted: matched by tag in the lane it names, or STRAY_REPORT (R91). -/
def State.acceptReport (l : LaneNo) (tag : BitVec 4) (pairs : List (Nat × ZoneStatus)) (s : State) : State :=
  match s.inspectingWithTag l tag with
  | none => s.raiseFlag .strayReport
  | some h => s.applyReport h pairs

/-- The assembler resumes in HUNTING at an acceptance (R81). -/
def State.resumeAssembler (s : State) : State := { s with slr := { s.slr with asm := Assembler.reset } }

/-- The mask verifier accepts the report offered to it (R81, R91). -/
def State.takeReport (s : State) : State :=
  match s.slr.asm.state with
  | .offering (.maskReport l tag pairs) => s.resumeAssembler.acceptReport l tag pairs
  | _ => s

/-! ### The mask verifier's commands -/

/-- MASK_REPORT (R91). -/
def execMaskReport (s : State) : Result := whenRunning State.takeReport s

/-- INSPECT_TRIG is negated after its 5 ms and recovers for 5 ms (R87). -/
def State.trigPulseEnd (l : LaneNo) (s : State) : State :=
  match (s.mvf.get l).trig with
  | .asserted t => if due s.tick t then s.modMvf l fun m => { m with trig := .recovery (s.later 5) } else s
  | _ => s

/-- INSPECT_TRIG_PULSE_END (R87). -/
def execInspectTrigPulseEnd (l : LaneNo) (s : State) : Result := whenRunning (State.trigPulseEnd l) s

/-- Recovery ends: with a backlog the next pulse begins (R87). -/
def State.trigRecoveryEnd (l : LaneNo) (s : State) : State :=
  match (s.mvf.get l).trig with
  | .recovery t =>
    if due s.tick t then
      s.modMvf l fun m =>
        if 0 < m.backlog then { m with backlog := m.backlog - 1, trig := .asserted (s.later 5) }
        else { m with trig := .free }
    else s
  | _ => s

/-- INSPECT_TRIG_RECOVERY_END (R87). -/
def execInspectTrigRecoveryEnd (l : LaneNo) (s : State) : Result := whenRunning (State.trigRecoveryEnd l) s

/-- The window of a record that its lane's inspecting list holds, if its timer has expired. -/
def State.windowExpired (s : State) (h : Nat) (p : Panel) : Bool :=
  (s.mvf.get p.lane).inspecting.any fun w => w.handle == h && due s.tick w.expiry

/-- A window timer expires (R89). -/
def State.windowTimeout (h : Nat) (s : State) : State :=
  match s.panel h with
  | none => s
  | some p => if s.windowExpired h p then s.endWindow h else s

/-- INSPECT_WINDOW_EXPIRY (R89). -/
def execInspectWindowExpiry (h : Nat) (s : State) : Result := whenRunning (State.windowTimeout h) s

/-! ### Requests -/

/-- RESYNC_TAG's checks and effect (R97). -/
def serveResyncTag (lane : Nat) (s : State) : State × Response :=
  match laneOfNat lane with
  | none => s.refuse .range
  | some l =>
    if (s.mvf.get l).inspecting.isEmpty then
      (s.modMvf l fun m => { m with tag := 0 }).answer []
    else s.refuse .badState

/-- WAIVE_MASK's checks and effect (R98). -/
def serveWaiveMask (h : Nat) (s : State) : State × Response :=
  match s.panel h with
  | none => s.refuse .badHandle
  | some p =>
    match p.mask with
    | none => s.refuse .badState
    | some m =>
      if p.stage = .parked && m.verdict = .failed && !criticalDefect (s.maskMapOf p) m.defects then
        (s.modPanel h fun p =>
          { p with mask := some { m with verdict := .waived, guards := m.defects.map Prod.fst } }).answer []
      else s.refuse .badState

end Sys2Proof.Machine
end

