-- ==== Sys2Proof/Machine/Oven.lean ====
section
/-! DEFINITION. The oven model (Chapter 8): the zone table (R136, R137), fans (R138, R139), the panel update (R143 to
R149), the exit decision (R151), the transfer's cure fields (R10, R144), and the meanings of its commands. -/

namespace Sys2Proof.Machine

/-- Change a zone table entry. -/
def State.modZone (z : Nat) (f : Zone → Zone) (s : State) : State :=
  match s.zones[z]? with
  | none => s
  | some x => { s with zones := s.zones.setIfInBounds z (f x) }

/-- "Clamped to a..b" (Conventions). -/
def clampInt (a b v : Int) : Int := max a (min b v)

/-! ### The zone table (R136, R137) -/

/-- The state a stale count above 0 gives: STALE below the limit, INVALID at it (R136, R137). -/
def staleState (limit count : Nat) : ZoneState := if count < limit then .stale else .invalid

/-- The bytes a transfer receives, in their order (R194). -/
def receivedBytes (r : SensorReply) : List Byte := [r.first, r.status, r.tempHigh, r.tempLow]

/-- The status byte of a reply: the second byte received, the first being ignored (R194). -/
def replyStatus (r : SensorReply) : Byte := byteAt (receivedBytes r) 1

/-- The temperature of a reply: the last two bytes received, most significant first, signed (R189, R194). -/
def replyTemperature (r : SensorReply) : Int := s16At (receivedBytes r) 2

/-- A reply applied to its zone entry (R136): status 0 is OK; OPEN, NOT_READY and any other value are not
(R135, R194). -/
def applyReply (limit : Nat) (r : SensorReply) (z : Zone) : Zone :=
  if replyStatus r = 0 then
    { z with air := clampInt (-400) 4000 (replyTemperature r), stale := 0, state := .valid }
  else
    let n := if z.stale < limit then z.stale + 1 else z.stale
    { z with stale := n, state := staleState limit n }

/-- A zone that enters INVALID sets ZONE_ALARM (R136, R137). -/
def State.alarmIfInvalid (before : ZoneState) (z : Nat) (s : State) : State :=
  match s.zones[z]? with
  | none => s
  | some x => if before != .invalid && x.state == .invalid then s.raiseFlag .zoneAlarm else s

/-- Apply a poll's reply to one zone (R136). -/
def State.applyReplyAt (r : SensorReply) (z : Nat) (s : State) : State :=
  match s.zones[z]? with
  | none => s
  | some x => (s.modZone z (applyReply s.params.staleLimit r)).alarmIfInvalid x.state z

/-- Every zone entry is brought up to date by the poll's six replies (R136). -/
def State.applyReplies (rs : Vector SensorReply 6) (s : State) : State :=
  (((((s.applyReplyAt rs[0] 0).applyReplyAt rs[1] 1).applyReplyAt rs[2] 2).applyReplyAt rs[3] 3).applyReplyAt
    rs[4] 4).applyReplyAt rs[5] 5

/-- A new stale limit acts on a zone: the count is cut to it and the state derived again (R137). -/
def relimit (limit : Nat) (z : Zone) : Zone :=
  let n := min z.stale limit
  if n = 0 then { z with stale := n } else { z with stale := n, state := staleState limit n }

/-- A new stale limit acts on one zone of the table (R137). -/
def State.relimitAt (z : Nat) (s : State) : State :=
  match s.zones[z]? with
  | none => s
  | some x => (s.modZone z (relimit s.params.staleLimit)).alarmIfInvalid x.state z

/-! ### Fans (R138, R139) -/

/-- The stall time in 10 us units (R139). -/
def stallTime : Nat := 50000

/-- The airflow class of a period (R138). -/
def airflowClass (c : ClassLimits) (period : Nat) : Nat :=
  if period < c.class5 then 5
  else if period < c.class4 then 4
  else if period < c.class3 then 3
  else if period < c.class2 then 2
  else if period < c.class1 then 1
  else 0

/-- The period an edge at sample `t` stores: none for the first edge; the stall time across a stall (R138, R139). -/
def fanPeriod (z : Zone) (t : Nat) : Option Nat :=
  match z.lastEdge with
  | none => none
  | some e => some (if z.running then min stallTime (t - e) else stallTime)

/-- A tachometer edge at sample `t`: period, class, RUNNING, and the stall watch restarted (R138, R139). -/
def fanEdge (c : ClassLimits) (t : Nat) (z : Zone) : Zone :=
  match fanPeriod z t with
  | none => { z with running := true, lastEdge := some t }
  | some d => { z with period := some d, airflow := airflowClass c d, running := true, lastEdge := some t }

/-- One sample of a tachometer input at sample `t`: its level is kept, and a rising edge acts (R138, R186). -/
def tachSample (c : ClassLimits) (t : Nat) (level : Bool) (z : Zone) : Zone :=
  let kept := { z with level := some level, readAt := some t }
  if risingEdge z.level level then fanEdge c t kept else kept

/-- The sample clock moves on to a sample. -/
def State.atSample (t : Nat) (s : State) : State := { s with samples := t }

/-- The input has not been read yet at sample `t`: each input is read once at each sample (R186). -/
def unreadAt (t : Nat) (z : Zone) : Bool :=
  match z.readAt with
  | none => true
  | some r => r < t

/-- One reading of a zone's tachometer at sample `t`; none when it has been read at that sample (R138, R186). -/
def State.readTach (zone : Nat) (level : Bool) (t : Nat) (s : State) : State :=
  match s.zones[zone]? with
  | none => s
  | some z => if unreadAt t z then (s.atSample t).modZone zone (tachSample s.params.limits t level) else s

/-- TACH_EDGE (R138). -/
def execTachEdge (zone : Fin 6) (level : Bool) (sample : Nat) (s : State) : Result :=
  whenRunning (fun s => s.readTach zone level (s.sampleAt sample)) s

/-- The stall watch of a RUNNING fan has expired: 50,000 samples since its last edge (R139). -/
def stallDue (t : Nat) (z : Zone) : Bool :=
  match z.lastEdge with
  | none => false
  | some e => z.running && stallTime ≤ t - e

/-- The stall watch expires: class 0, STALLED, ZONE_ALARM (R139). -/
def State.stallAt (zone t : Nat) (s : State) : State :=
  match s.zones[zone]? with
  | none => s
  | some z =>
    if stallDue t z then
      (s.modZone zone fun z => { z with airflow := 0, running := false }).raiseFlag .zoneAlarm
    else s

/-- STALL_WATCH_EXPIRY (R139). -/
def execStallWatchExpiry (zone : Fin 6) (sample : Nat) (s : State) : Result :=
  whenRunning (fun s => (s.atSample (s.sampleAt sample)).stallAt zone (s.sampleAt sample)) s

/-! ### The panel update (R143 to R149) -/

/-- The place of a zone's end among the offsets: ZONE_END1 to ZONE_END6. -/
def zoneEnd (p : Params) (z : Nat) : Nat := (p.offsets[7 + z]?).getD 0

/-- The zone (less 1) that covers an oven position: the first whose end lies beyond it (R45, R143). -/
def zoneOf (p : Params) (pos : Nat) : Option Nat := [0, 1, 2, 3, 4, 5].find? fun z => pos < zoneEnd p z

/-- A gain table entry (R145). -/
def Params.gainAt (p : Params) (mass airflow : Nat) : Nat := (p.gain[mass * 6 + airflow]?).getD 0

/-- g = min(65535, floor(G × Δt / 1000)) (R145). -/
def gainStep (g dt : Nat) : Nat := min 65535 (g * dt / 1000)

/-- A product divided by 65536, rounded to nearest with halves away from zero (R146). -/
def roundQ16 (x : Int) : Int :=
  if 0 ≤ x then (x + 32768) / 65536 else -((-x + 32768) / 65536)

/-- The panel temperature after the step (R146). -/
def tempStep (air temp : Int) (g : Nat) : Int := temp + roundQ16 ((air - temp) * g)

/-- q = floor((Tp − T_ref) × 16 / (10 × D)), clamped to −128..+128 (R147). -/
def doseExponent (temp tRef : Int) (doubling : Nat) : Int :=
  clampInt (-128) 128 (Int.fdiv ((temp - tRef) * 16) (10 * (doubling : Int)))

/-- The table POW of R148. -/
def powTable : List Nat :=
  [65536, 68438, 71468, 74632, 77936, 81386, 84990, 88752, 92682, 96785, 101070, 105545, 110218, 115098, 120194,
   125515]

/-- The increment I of R148 for an exponent q: n = floor(q / 16), f = q − 16 × n (R147). -/
def doseIncrement (dt : Nat) (q : Int) : Nat :=
  let n := Int.fdiv q 16
  let f := (q - 16 * n).toNat
  let pow := powTable.getD f 0
  if 0 ≤ n then dt * pow * 2 ^ n.toNat / 65536 else dt * pow / (65536 * 2 ^ (-n).toNat)

/-- The update of the cure fields of one record at a poll completion (R145 to R148). -/
def cureUpdate (gain : Nat) (air : Int) (prof : CureProfile) (now : Tick) (c : Cure) : Cure :=
  let dt := (now - c.last).toNat
  let temp := tempStep air c.temp (gainStep gain dt)
  let dose :=
    if prof.tFloor ≤ temp then
      min 4294967295 (c.dose + doseIncrement dt (doseExponent temp prof.tRef prof.doubling))
    else c.dose
  { c with
    temp := temp
    dose := dose
    peak := max c.peak temp
    ovenTime := min 4294967295 (c.ovenTime + dt)
    last := now }

/-- The three oven hold checks, in their order (R149). -/
def ovenHolds (prof : CureProfile) (zone : ZoneState) (c : Cure) : List HoldReason :=
  (if prof.peakLimit < c.temp then [.overtemp] else []) ++
  (if prof.ceiling < c.dose then [.overcure] else []) ++
  (if zone = .invalid then [.cureUnverified] else [])

/-- Raise reasons on one record, in their order. -/
def State.raiseEach (h : Nat) (rs : List HoldReason) (s : State) : State := rs.foldl (fun s r => s.raise r h) s

/-- What the panel update of a CURING record reads: its zone's entry, its recipe's parts and its cure fields. A
record that lies in no zone or lacks one of them is not updated; the manual says this does not arise (log 17). -/
def State.curingInputs (s : State) (p : Panel) : Option (Zone × Body × CureProfile × Cure) :=
  match p.stage, p.place, p.cure, s.bodyOf p, s.cureProfileOf p with
  | .curing, some pl, some c, some b, some prof =>
    match (zoneOf s.params pl.pos).bind fun z => s.zones[z]? with
    | some z => some (z, b, prof, c)
    | none => none
  | _, _, _, _, _ => none

/-- The update of one record at a poll completion: cure fields, then the hold checks (R143, R149). -/
def State.updateCuring (h : Nat) (s : State) : State :=
  match s.panel h with
  | none => s
  | some p =>
    match s.curingInputs p with
    | none => s
    | some (z, b, prof, c) =>
      let c' := cureUpdate (s.params.gainAt b.massClass z.airflow) z.air prof s.tick c
      (s.modPanel h fun p => { p with cure := some c' }).raiseEach h (ovenHolds prof z.state c')

/-- Every record on either oven queue is updated if it is CURING (R143). -/
def State.updateOven (s : State) : State :=
  (s.ltk.zero.oven ++ s.ltk.one.oven).foldl (fun s h => s.updateCuring h) s

/-! ### Polls (R134 to R136) -/

/-- A poll begins in the last millisecond before its boundary (R134: its transfers take less than 1 ms). -/
def State.pollMayStart (s : State) : Bool := !s.poll.inFlight && due (s.tick + 1) s.poll.boundary

/-- POLL_START: the six transfers begin (R134, R135). -/
def execPollStart (s : State) : Result :=
  whenRunning (fun s => if s.pollMayStart then { s with poll := { s.poll with inFlight := true } } else s) s

/-- A poll completes at its boundary; the next boundary lies the sample period later (R134). -/
def State.completePoll (rs : Vector SensorReply 6) (s : State) : State :=
  if s.poll.inFlight && due s.tick s.poll.boundary then
    let s := { s with poll :=
      { boundary := s.poll.boundary + BitVec.ofNat 32 s.params.samplePeriod, inFlight := false } }
    (s.applyReplies rs).updateOven
  else s

/-- POLL_COMPLETION (R136, R143). -/
def execPollCompletion (rs : Vector SensorReply 6) (s : State) : Result := whenRunning (State.completePoll rs) s

/-! ### The transfer's cure fields and the exit decision -/

/-- The cure fields at a transfer: created, or kept with temperature and last update renewed (R10, R144). -/
def cureAtTransfer (ambient : Int) (now : Tick) : Option Cure → Cure
  | none => { temp := ambient, dose := 0, peak := 0, ovenTime := 0, last := now, verdict := none }
  | some c => { c with temp := ambient, last := now }

/-- Dose at or above the target and peak at or above the minimum peak (R151). -/
def curePasses (prof : CureProfile) (c : Cure) : Bool := prof.target ≤ c.dose && prof.minPeak ≤ c.peak

/-- The exit decision: PASS with CURED, or UNDERCURE with its hold (R151). -/
def State.exitDecision (h : Nat) (s : State) : State :=
  match s.panel h with
  | none => s
  | some p =>
    match p.cure, s.cureProfileOf p with
    | some c, some prof =>
      if curePasses prof c then
        s.setSlot h (some ({ p with cure := some { c with verdict := some .pass } }.notify .cured))
      else
        (s.setSlot h (some { p with cure := some { c with verdict := some .undercure } })).raise .undercure h
    | _, _ => s

/-! ### READ_ZONES -/

/-- The code of a zone state (R193). -/
def zoneStateCode : ZoneState → Byte
  | .valid => 0
  | .stale => 1
  | .invalid => 2

/-- A zone entry as READ_ZONES returns it (R192). -/
def zoneBytes (z : Zone) : List Byte :=
  be16 z.air ++ [zoneStateCode z.state, be8 z.stale, be8 z.airflow, if z.running then 0 else 1] ++
  be16 (z.period.getD 0)

/-- READ_ZONES: the six entries as they stand (R141). -/
def serveReadZones (s : State) : State × Response :=
  s.answer (s.zones.toList.flatMap zoneBytes)

end Sys2Proof.Machine
end

