-- ==== Sys2Proof/Machine/Lane.lean ====
section
/-! DEFINITION. The lane tracker (Chapter 3): lane faults (R67), diverts (R56, R57), entry (R49, R51), identification
(R53, R54), arrivals and counts (R43, R44), claims (R60), transfer (R62), unload (R65), CLEAR_LANE (R68), and the
meanings of its commands. -/

namespace Sys2Proof.Machine

/-! ### Lane faults (R67) -/

/-- Every record on the lane's two queues, front queue first, from the head. -/
def LaneTrack.queued (t : LaneTrack) : List Nat := t.front ++ t.oven

/-- A fault cause: the lane's flag is set, and a lane in TRACKING goes to FAULT with TRACK_LOST raised on every
record of its queues (R48, R67). -/
def State.faultCause (l : LaneNo) (s : State) : State :=
  let s := s.raiseFlag (laneFaultFlag l)
  if (s.ltk.get l).state = .tracking then
    (s.modLtk l fun t => { t with state := .fault }).raiseAll .trackLost (s.ltk.get l).queued
  else s

/-! ### Diverts (R56 to R58) -/

/-- Start (or restart) the pulse of a divert output, to end at a tick (R58). -/
def LaneTrack.pulse (t : LaneTrack) (g : DivertGate) (until_ : Tick) : LaneTrack :=
  match g with
  | .a => { t with divertA := some until_ }
  | .b => { t with divertB := some until_ }
  | .u => { t with divertU := some until_ }

/-- Take a record out of a lane's queues. -/
def LaneTrack.without (t : LaneTrack) (h : Nat) : LaneTrack :=
  { t with front := t.front.filter (· != h), oven := t.oven.filter (· != h) }

/-- The record of a divert or of CLEAR_LANE: PARKED, off-lane, its flash end time and resume point removed, notice
DIVERTED (R56, R68). -/
def parked (p : Panel) : Panel :=
  { p with stage := .parked, place := none, flashEnd := none, resume := none }.notify .diverted

/-- A divert at a gate (R56). -/
def State.divert (l : LaneNo) (g : DivertGate) (h : Nat) (s : State) : State :=
  (s.modLtk l fun t => (t.without h).pulse g (s.later s.params.divertPulse)).modPanel h parked

/-! ### Entry (R49 to R51) -/

/-- A record created under R2 (R3). -/
def newPanel (l : LaneNo) : Panel :=
  { id := none, lane := l, recipe := none, stage := .entered, place := some { sect := .front, pos := 0 },
    inspectTag := none, flashEnd := none, mask := none, coatsApplied := 0, coats := [], cure := none, holds := [],
    truncated := false, resume := none, rework := 0, notices := noNotices }

/-- The position of a record on a queue. -/
def State.posOf (s : State) (h : Nat) : Option Nat := (s.panel h).bind fun p => p.place.map Place.pos

/-- The previous tail stands closer than the minimum gap (R51). -/
def State.closeBehind (s : State) (tail : Option Nat) : Bool :=
  match tail.bind s.posOf with
  | some pos => pos < s.params.minimumGap
  | none => false

/-- The checks at a placement on the front queue: SPACING behind a close tail, TRACK_LOST on a lane in FAULT
(R51, log 16). -/
def State.checkPlacement (l : LaneNo) (h : Nat) (tail : Option Nat) (s : State) : State :=
  let s := if s.closeBehind tail then s.raise .spacing h else s
  if (s.ltk.get l).state = .fault then s.raise .trackLost h else s

/-- A record joins the front queue at the tail, position 0, in ENTERED, and is checked (R49, R51). -/
def State.placeFront (l : LaneNo) (h : Nat) (s : State) : State :=
  let tail := (s.ltk.get l).front.getLast?
  let s := s.modLtk l fun t => { t with front := t.front ++ [h] }
  let s := s.modPanel h fun p => { p with stage := .entered, place := some { sect := .front, pos := 0 } }
  s.checkPlacement l h tail

/-- A record is created in the slot taken from the free list (R2). -/
def State.createRecord (l : LaneNo) (h : Nat) (rest : List Nat) (s : State) : State :=
  { s with freeList := rest }.setSlot h (some (newPanel l))

/-- An EYE_ENTRY edge: the first case of R49 that applies. -/
def State.entryEdge (l : LaneNo) (s : State) : State :=
  let t := s.ltk.get l
  if t.state = .idle then s
  else if 24 ≤ t.front.length then s.faultCause l
  else
    match t.reentry with
    | h :: rest => (s.modLtk l fun t => { t with reentry := rest }).placeFront l h
    | [] =>
      match s.freeList with
      | h :: rest => if t.state = .tracking then (s.createRecord l h rest).placeFront l h else s.faultCause l
      | [] => s.faultCause l

/-- EYE_ENTRY (R49, R186). -/
def execEyeEntry (l : LaneNo) (level : Bool) (s : State) : Result :=
  whenRunning (State.onEdge l .eyeEntry level (State.entryEdge l)) s

/-! ### Identification (R53, R54) -/

/-- The stage an identified record takes: PASS_THROUGH for a FROM_OVEN re-entry, ADMITTED otherwise (R53, R54). -/
def admittedStage (p : Panel) : Stage := if p.resume = some .fromOven then .passThrough else .admitted

/-- The record leaves ENTERED (R53, R54). -/
def State.leaveEntered (h : Nat) (s : State) : State := s.modPanel h fun p => { p with stage := admittedStage p }

/-- The ENTERED record nearest the head of a lane's front queue (R53). -/
def State.oldestEntered (s : State) (l : LaneNo) : Option Nat :=
  (s.ltk.get l).front.find? fun h =>
    match s.panel h with
    | some p => p.stage == .entered
    | none => false

/-- Store an ID in a record and map it to the handle (R4, R14). -/
def State.storeId (h : Nat) (id : PanelId) (s : State) : State :=
  { (s.modPanel h fun p => { p with id := some id }) with idMap := s.idMap ++ [(id, h)] }

/-- What a read does to the record it is bound to, by whether it has an ID (R53). -/
def State.bindRead (h : Nat) (p : Panel) (id : PanelId) (s : State) : State :=
  match p.id with
  | some own => if own = id then s else s.raise .idMismatch h
  | none =>
    if (s.findId id).isSome then s.raise .duplicateId h
    else (s.storeId h id).modPanel h (Panel.notify .identified)

/-- An ID read bound to the oldest ENTERED record, or STRAY_ID (R53). -/
def State.acceptRead (l : LaneNo) (id : PanelId) (s : State) : State :=
  match s.oldestEntered l with
  | none => s.raiseFlag .strayId
  | some h =>
    match s.panel h with
    | none => s
    | some p => (s.bindRead h p id).leaveEntered h

/-- The lane tracker accepts the ID read offered to it (R53, R81). -/
def State.takeRead (s : State) : State :=
  match s.slr.asm.state with
  | .offering (.idRead l id) => s.resumeAssembler.acceptRead l id
  | _ => s

/-- ID_READ (R53). -/
def execIdRead (s : State) : Result := whenRunning State.takeRead s

/-- Arrival at ID_WINDOW: a record still ENTERED is admitted, with NO_ID when it has no ID (R54). -/
def State.closeIdWindow (h : Nat) (s : State) : State :=
  match s.panel h with
  | none => s
  | some p =>
    if p.stage = .entered then
      let s := s.leaveEntered h
      if p.id.isNone then s.raise .noId h else s
    else s

/-! ### Arrivals on the front section -/

/-- The lane's default recipe, if set and DEFINED now (R36). -/
def State.usableDefault (s : State) (l : LaneNo) : Option Nat :=
  match s.params.defaultRecipe.get l with
  | none => none
  | some r => if s.definedRecipe r then some r else none

/-- Arrival at MASK: the default recipe or NO_RECIPE, then the mask verifier (R55). -/
def State.arriveMask (l : LaneNo) (h : Nat) (s : State) : State :=
  match s.panel h with
  | none => s
  | some p =>
    if p.stage = .admitted then
      match p.recipe with
      | some _ => s.maskStation l h
      | none =>
        match s.usableDefault l with
        | some r => ((s.modPanel h fun p => { p with recipe := some r }).addRef r).maskStation l h
        | none => s.raise .noRecipe h
    else s

/-- The inspection window of a record still INSPECTING ends at DIVERT_A (R90). -/
def State.endOpenWindow (h : Nat) (s : State) : State :=
  match s.panel h with
  | none => s
  | some p => if p.stage = .inspecting then s.endWindow h else s

/-- Arrival at DIVERT_A: the window's end, then the divert check (R56, R90). -/
def State.arriveDivertA (l : LaneNo) (h : Nat) (s : State) : State :=
  let s := s.endOpenWindow h
  if (s.governing h).isSome then s.divert l .a h else s

/-- Arrival at DIVERT_B: a served record is a fault cause; any other is diverted on a governing hold or in VERIFIED
or SPRAYING (R57). -/
def State.arriveDivertB (l : LaneNo) (h : Nat) (s : State) : State :=
  match s.panel h with
  | none => s
  | some p =>
    if s.served l = some h then s.faultCause l
    else if (s.governing h).isSome || p.stage == .verified || p.stage == .spraying then s.divert l .b h
    else s

/-- The FLASH claim of a FLASHING record: added, or kept with the later expiry (R60). -/
def claimExpiry (old : Option Tick) (e : Tick) : Tick :=
  match old with
  | none => e
  | some o => if tickAfter o e then o else e

/-- Arrival at FLASH_APPROACH (R60). -/
def State.arriveFlash (l : LaneNo) (h : Nat) (s : State) : State :=
  match s.panel h with
  | none => s
  | some p =>
    match p.flashEnd with
    | none => s
    | some e =>
      if p.stage = .flashing && tickAfter e s.tick then
        s.modLtk l fun t => { t with flashClaim := some (claimExpiry t.flashClaim e) }
      else s

/-- The missed transfer eye: a fault cause for the record then at the front head (R63). -/
def State.missTransfer (l : LaneNo) (h : Nat) (s : State) : State :=
  if (s.ltk.get l).front.head? = some h then s.faultCause l else s

/-! ### Arrivals on the oven section -/

/-- Arrival at OVEN_OUT: the exit decision, then EXITED (R64). -/
def State.arriveOvenOut (h : Nat) (s : State) : State :=
  match s.panel h with
  | none => s
  | some p =>
    if p.stage = .curing then (s.exitDecision h).modPanel h fun p => { p with stage := .exited } else s

/-- The missed unload eye: a fault cause for the record then at the oven head (R66). -/
def State.missUnload (l : LaneNo) (h : Nat) (s : State) : State :=
  if (s.ltk.get l).oven.head? = some h then s.faultCause l else s

/-! ### Counts (R43, R44) -/

/-- A station at which a count's arrival acts (R44, R63, R66). -/
inductive StationNo where
  | idWindow | mask | divertA | booth | divertB | flashApproach | missedTransfer | ovenOut | missedUnload
deriving DecidableEq, Repr

/-- A number for each station, the argument of the free rank (log 7). -/
def StationNo.num : StationNo → Nat
  | .idWindow => 0
  | .mask => 1
  | .divertA => 2
  | .booth => 3
  | .divertB => 4
  | .flashApproach => 5
  | .missedTransfer => 6
  | .ovenOut => 7
  | .missedUnload => 8

/-- The stations of a section with the positions at which they act (R44, R63, R66). -/
def stationTable (p : Params) : LineSection → List (StationNo × Nat)
  | .front =>
    [(.idWindow, p.offset .idWindow), (.mask, p.offset .mask), (.divertA, p.offset .divertA),
     (.booth, p.offset .booth), (.divertB, p.offset .divertB), (.flashApproach, p.offset .flashApproach),
     (.missedTransfer, p.offset .transfer + p.eyeTolerance + 1)]
  | .oven =>
    [(.ovenOut, p.offset .zoneEnd6), (.missedUnload, p.offset .unload + p.eyeTolerance + 1)]

/-- The stations a position equals. -/
def stationsAt (p : Params) (sec : LineSection) (pos : Nat) : List StationNo :=
  ((stationTable p sec).filter fun e => e.2 == pos).map Prod.fst

/-- The queue of a section. -/
def LaneTrack.queue (t : LaneTrack) : LineSection → List Nat
  | .front => t.front
  | .oven => t.oven

/-- A place one millimetre on; 32767 is kept (R43). -/
def Place.advanced (pl : Place) : Place := if pl.pos < 32767 then { pl with pos := pl.pos + 1 } else pl

/-- Advance a record by one count (R43). -/
def State.advance (h : Nat) (s : State) : State :=
  s.modPanel h fun p => { p with place := p.place.map Place.advanced }

/-- The arrivals a count raises for one record, from its position before the count: at 32767 it raises none
(R43, R44). -/
def State.arrivalsOf (s : State) (sec : LineSection) (h : Nat) : List (StationNo × Nat) :=
  match s.posOf h with
  | none => []
  | some pos => if pos < 32767 then (stationsAt s.params sec (pos + 1)).map fun st => (st, h) else []

/-- The free rank of an arrival at the `n`-th count acted on (log 7). -/
def arrivalRank (n : Nat) (a : StationNo × Nat) : Nat := Config.arrivalRank n a.1.num

/-- Insert an arrival before the first of no smaller rank, so that one station's arrivals keep queue order (R44). -/
def insertArrival (n : Nat) (a : StationNo × Nat) : List (StationNo × Nat) → List (StationNo × Nat)
  | [] => [a]
  | b :: bs => if arrivalRank n a ≤ arrivalRank n b then a :: b :: bs else b :: insertArrival n a bs

/-- A count's arrivals in the free order of their stations, head first at each station (R44, log 7). -/
def orderArrivals (n : Nat) (as : List (StationNo × Nat)) : List (StationNo × Nat) := as.foldr (insertArrival n) []

/-- One arrival handed to its station (R44). -/
def State.arrive (l : LaneNo) (a : StationNo × Nat) (s : State) : State :=
  match a.1 with
  | .idWindow => s.closeIdWindow a.2
  | .mask => s.arriveMask l a.2
  | .divertA => s.arriveDivertA l a.2
  | .booth => s.arriveBooth l a.2
  | .divertB => s.arriveDivertB l a.2
  | .flashApproach => s.arriveFlash l a.2
  | .missedTransfer => s.missTransfer l a.2
  | .ovenOut => s.arriveOvenOut a.2
  | .missedUnload => s.missUnload l a.2

/-- A count on a front section restarts its quiet timer at the settle time (R43, R61). -/
def State.restartQuiet (l : LaneNo) (sec : LineSection) (s : State) : State :=
  match sec with
  | .front => s.modLtk l fun t => { t with quiet := some (s.later s.params.settleTime) }
  | .oven => s

/-- A count: every record of the section's queue advances, then the arrivals are handed to their stations
(R43, R44). A count on a lane in IDLE is ignored. -/
def State.count (l : LaneNo) (sec : LineSection) (s : State) : State :=
  if (s.ltk.get l).state = .idle then s
  else
    let q := (s.ltk.get l).queue sec
    let arrivals := orderArrivals s.free (q.flatMap (s.arrivalsOf sec))
    let s := { s.restartQuiet l sec with free := s.free + 1 }
    let s := q.foldl (fun s h => s.advance h) s
    arrivals.foldl (fun s a => s.arrive l a) s

/-- The encoder input of a section. -/
def encoderInput : LineSection → LaneInput
  | .front => .encFront
  | .oven => .encOven

/-- ENCODER_COUNT (R43, R186). -/
def execEncoderCount (l : LaneNo) (sec : LineSection) (level : Bool) (s : State) : Result :=
  whenRunning (State.onEdge l (encoderInput sec) level (State.count l sec)) s

/-! ### Settled event, claim expiry and divert pulses -/

/-- The quiet timer of a front section expires on a lane in TRACKING or FAULT: the settled event (R61). -/
def State.quietEnd (l : LaneNo) (s : State) : State :=
  if (s.ltk.get l).state != .idle && s.expired (s.ltk.get l).quiet then
    (s.modLtk l fun t => { t with quiet := none }).settled l
  else s

/-- SETTLED_EVENT (R61, R118). -/
def execSettledEvent (l : LaneNo) (s : State) : Result := whenRunning (State.quietEnd l) s

/-- The FLASH claim is removed at its expiry (R60). -/
def State.claimEnd (l : LaneNo) (s : State) : State :=
  if s.expired (s.ltk.get l).flashClaim then s.modLtk l fun t => { t with flashClaim := none } else s

/-- FLASH_CLAIM_EXPIRY (R60). -/
def execFlashClaimExpiry (l : LaneNo) (s : State) : Result := whenRunning (State.claimEnd l) s

/-- The tick at which a divert output's pulse ends. -/
def LaneTrack.pulseOf (t : LaneTrack) : DivertGate → Option Tick
  | .a => t.divertA
  | .b => t.divertB
  | .u => t.divertU

/-- Negate a divert output. -/
def LaneTrack.negate (t : LaneTrack) : DivertGate → LaneTrack
  | .a => { t with divertA := none }
  | .b => { t with divertB := none }
  | .u => { t with divertU := none }

/-- A divert output is negated when its pulse has run out (R58). -/
def State.pulseEnd (l : LaneNo) (g : DivertGate) (s : State) : State :=
  if s.expired ((s.ltk.get l).pulseOf g) then s.modLtk l fun t => t.negate g else s

/-- DIVERT_PULSE_END (R58). -/
def execDivertPulseEnd (l : LaneNo) (g : DivertGate) (s : State) : Result := whenRunning (State.pulseEnd l g) s

/-! ### Transfer (R62) -/

/-- A position lies within tolerance of an eye's offset, both ends included (R62, R65). -/
def withinEye (offset tol pos : Nat) : Bool := offset ≤ pos + tol && pos ≤ offset + tol

/-- A record becomes CURING at the tail of the oven queue (R62, R144). -/
def transferred (ambient : Int) (now : Tick) (p : Panel) : Panel :=
  { p with
    stage := .curing
    place := some { sect := .oven, pos := 0 }
    flashEnd := none
    resume := none
    cure := some (cureAtTransfer ambient now p.cure) }

/-- The front head is transferred (R62, R51). -/
def State.transfer (l : LaneNo) (h : Nat) (rest : List Nat) (s : State) : State :=
  let s := s.modLtk l fun t => { t with front := rest, oven := t.oven ++ [h] }
  let s := s.modPanel h (transferred s.params.ambient s.tick)
  if (s.ltk.get l).state = .fault then s.raise .trackLost h else s

/-- The conditions of a transfer that follow the first (R62). -/
def State.transferable (s : State) (l : LaneNo) (h : Nat) : Bool :=
  (match s.posOf h with
    | some pos => withinEye (s.params.offset .transfer) s.params.eyeTolerance pos
    | none => false) &&
  s.served l != some h && (s.ltk.get l).oven.length < 24

/-- An EYE_OVEN edge: the front head is transferred, or the edge is a fault cause (R62). -/
def State.ovenEdge (l : LaneNo) (s : State) : State :=
  if (s.ltk.get l).state = .idle then s
  else
    match (s.ltk.get l).front with
    | [] => s.faultCause l
    | h :: rest => if s.transferable l h then s.transfer l h rest else s.faultCause l

/-- EYE_OVEN (R62, R186). -/
def execEyeOven (l : LaneNo) (level : Bool) (s : State) : Result :=
  whenRunning (State.onEdge l .eyeOven level (State.ovenEdge l)) s

/-! ### Unload (R65) -/

/-- The record is EXITED with cure verdict PASS and no governing hold (R65). -/
def State.mayFinish (s : State) (p : Panel) : Bool :=
  p.stage == .exited && (p.cure.bind Cure.verdict) == some .pass && (s.governingPanel p).isNone

/-- The oven head becomes DONE (R65). -/
def State.finish (l : LaneNo) (h : Nat) (s : State) : State :=
  (s.modLtk l fun t => { t with oven := t.oven.filter (· != h) }).modPanel h fun p =>
    { p with stage := .done, place := none }.notify .unloaded

/-- An EYE_UNLOAD edge: DONE, divert at DIVERT_U, or a fault cause (R65). -/
def State.unloadEdge (l : LaneNo) (s : State) : State :=
  if (s.ltk.get l).state = .idle then s
  else
    match (s.ltk.get l).oven with
    | [] => s.faultCause l
    | h :: _ =>
      match s.panel h, s.posOf h with
      | some p, some pos =>
        if withinEye (s.params.offset .unload) s.params.eyeTolerance pos then
          if s.mayFinish p then s.finish l h else s.divert l .u h
        else s.faultCause l
      | _, _ => s.faultCause l

/-- EYE_UNLOAD (R65, R186). -/
def execEyeUnload (l : LaneNo) (level : Bool) (s : State) : Result :=
  whenRunning (State.onEdge l .eyeUnload level (State.unloadEdge l)) s

/-! ### CLEAR_LANE (R68, R96, R132) -/

/-- The tags of the lane's inspecting list are removed and the list is emptied (R96). -/
def State.clearInspecting (l : LaneNo) (s : State) : State :=
  ((s.mvf.get l).inspecting.foldl
    (fun s w => s.modPanel w.handle fun p => { p with inspectTag := none }) s).modMvf l
    fun m => { m with inspecting := [] }

/-- Every record of the lane's queues is parked, front queue first, and the queues are emptied (R68). -/
def State.parkQueued (l : LaneNo) (s : State) : State :=
  ((s.ltk.get l).queued.foldl (fun s h => s.modPanel h parked) s).modLtk l
    fun t => { t with front := [], oven := [] }

/-- CLEAR_LANE's checks and effect (R68). -/
def serveClearLane (lane : Nat) (s : State) : State × Response :=
  match laneOfNat lane with
  | none => s.refuse .range
  | some l =>
    if (s.ltk.get l).state = .fault then
      ((((s.parkQueued l).clearInspecting l).clearBooth l).modLtk l
        fun t => { t with flashClaim := none, state := .tracking }).answer []
    else s.refuse .badState

end Sys2Proof.Machine
end

