-- ==== Sys2Proof/Machine/Formats.lean ====
section
/-! DEFINITION. Byte formats of the line link (Chapter 12): request lengths (R190) and parameters (R191), the codes
of R193, and the response data of R192. -/

namespace Sys2Proof.Machine

/-! ### Codes (R193) -/

/-- The code of a status (R193). -/
def statusCode : Status → Byte
  | .ok => 0x00
  | .badRequest => 0x01
  | .badHandle => 0x02
  | .badState => 0x03
  | .inUse => 0x04
  | .range => 0x05
  | .full => 0x06
  | .notFound => 0x07
  | .fixedHold => 0x08
  | .notGoverning => 0x09
  | .held => 0x0A
  | .coatLimit => 0x0B
  | .reworkLimit => 0x0C
  | .mode => 0x0D

/-- The code of a stage (R193). -/
def stageCode : Stage → Byte
  | .entered => 0
  | .admitted => 1
  | .inspecting => 2
  | .verified => 3
  | .spraying => 4
  | .flashing => 5
  | .passThrough => 6
  | .curing => 7
  | .exited => 8
  | .done => 9
  | .parked => 10
  | .reentering => 11

/-- The code of a lane state (R193). -/
def laneStateCode : LaneState → Byte
  | .idle => 0
  | .tracking => 1
  | .fault => 2

/-- The code of a channel state (R193). -/
def channelStateCode : ChannelState → Byte
  | .idle => 0
  | .settling => 1
  | .coating => 2
  | .recoatWait => 3
  | .aborting => 4
  | .parking => 5
  | .fault => 6

/-- The code of a mask verdict (R193). -/
def maskVerdictCode : MaskVerdict → Byte
  | .pass => 0
  | .passGuarded => 1
  | .waived => 2
  | .failed => 3

/-- The code of a zone status (R193, and R80 for PRESENT). -/
def zoneStatusCode : ZoneStatus → Byte
  | .present => 0
  | .absent => 1
  | .displaced => 2

/-- The code of a resume point, 0xFF when absent (R189, R193). -/
def resumeCode : Option ResumePoint → Byte
  | some .fromMask => 0
  | some .fromSpray => 1
  | some .fromOven => 2
  | none => 0xFF

/-- The code of a cure verdict, 0xFF when absent (R193). -/
def cureVerdictCode : Option CureVerdict → Byte
  | some .pass => 0
  | some .undercure => 1
  | none => 0xFF

/-- An optional one-byte field, 0xFF when absent (R189). -/
def optByte : Option Nat → Byte
  | some n => be8 n
  | none => 0xFF

/-- The number of a lane as a byte. -/
def laneByte (l : LaneNo) : Byte := be8 (laneNum l)

/-- Bits given least significant first, as a byte. -/
def bitsByte (bs : List Bool) : Byte := be8 (bs.foldr (fun b n => 2 * n + b.toNat) 0)

/-- A notice set as its byte (R193). -/
def noticeByte (n : Notices) : Byte :=
  bitsByte [n.identified, n.holdRaised, n.diverted, n.cured, n.unloaded, n.reentered]

/-- The sticky flags as their byte (R193). -/
def flagByte (f : Flags) : Byte :=
  bitsByte [f.strayId, f.strayReport, f.linkError, f.zoneAlarm, f.laneFault0, f.laneFault1]

/-- A hold mask as its byte (R191). -/
def holdMaskByte (m : HoldMask) : Byte := bitsByte [m.maskExcess, m.coatVolume, m.spacing, m.noId]

/-- The hold mask of a byte below 16 (R191). -/
def holdMaskOfNat (n : Nat) : HoldMask :=
  { maskExcess := n.testBit 0, coatVolume := n.testBit 1, spacing := n.testBit 2, noId := n.testBit 3 }

/-! ### Response data (R192) -/

/-- The body fields in DEFINE_RECIPE order without the recipe number (R192). -/
def bodyBytes (b : Body) : List Byte :=
  [be8 b.coats, be8 b.massClass] ++ be16 b.recoat ++ be16 b.flashMin ++ be16 b.flowRate ++
  [be8 b.flowTol, be8 b.minorTol, holdMaskByte b.holdMask] ++ be16 b.base ++ [be8 b.segs, be8 b.rows] ++
  be16 b.dy ++ [boolByte b.serpentine, be8 b.rotation, boolByte b.reversal]

/-- The cure fields in SET_CURE_PROFILE order without the recipe number (R192). -/
def cureProfileBytes (c : CureProfile) : List Byte :=
  be16 c.tRef ++ [be8 c.doubling] ++ be16 c.tFloor ++ be32 c.target ++ be32 c.ceiling ++ be16 c.minPeak ++
  be16 c.peakLimit

/-- An optional part behind its presence byte (R189). -/
def presence {α : Type} (f : α → List Byte) : Option α → List Byte
  | none => [0]
  | some a => 1 :: f a

/-- READ_RECIPE part 0 (R34, R192). -/
def recipePart0 (r : Recipe) : List Byte :=
  [boolByte (recipeDefined r), be8 r.refs] ++ presence bodyBytes r.body ++ presence cureProfileBytes r.cure

/-- A mask map entry in READ_RECIPE part 1 (R192): criticality 0 is CRITICAL. -/
def maskZoneBytes (z : MaskZone) : List Byte :=
  [be8 z.zone, if z.critical then 0 else 1] ++ be16 z.x0 ++ be16 z.y0 ++ be16 z.x1 ++ be16 z.y1

/-- READ_RECIPE part 1 (R34, R192). -/
def recipePart1 (r : Recipe) : List Byte := be8 r.map.length :: r.map.flatMap maskZoneBytes

/-- READ_SEGMENT's data (R41, R192). -/
def segmentBytes : Option Segment → List Byte
  | none => [0]
  | some g => 1 :: be16 g.x0 ++ be16 g.y0 ++ be16 g.x1 ++ be16 g.y1 ++ be16 g.speed ++ [boolByte g.valveOpen]

/-- The section of a record, 0xFF when absent (R189, R193). -/
def sectionCode : Option Place → Byte
  | none => 0xFF
  | some pl => match pl.sect with
    | .front => 0
    | .oven => 1

/-- The guard set: a 24-bit field, zone 0 in the least significant bit of the last byte (R192). -/
def guardBytes (gs : List Nat) : List Byte :=
  let w : BitVec 24 := gs.foldl (fun w z => w ||| BitVec.ofNat 24 (2 ^ z)) 0
  [w.extractLsb' 16 8, w.extractLsb' 8 8, w.extractLsb' 0 8]

/-- READ_PANEL part 0, the summary (R17, R192), with the governing hold as computed now. -/
def panelSummary (h : Nat) (gov : Option HoldEntry) (p : Panel) : List Byte :=
  [be8 h, laneByte p.lane, stageCode p.stage, optByte p.recipe, sectionCode p.place] ++
  be16 ((p.place.map fun pl => (pl.pos : Int)).getD 0) ++
  [optByte (p.inspectTag.map BitVec.toNat)] ++ presence (fun t : Tick => be32 t.toNat) p.flashEnd ++
  [be8 p.coatsApplied, be8 p.rework, resumeCode p.resume, boolByte p.truncated, be8 p.holds.length,
   be8 ((gov.map fun e => e.reason.code).getD 0), noticeByte p.notices, be8 ((p.id.getD []).length)] ++ p.id.getD []

/-- READ_PANEL part 1, the mask result (R192). -/
def maskPart (m : MaskResult) : List Byte :=
  [maskVerdictCode m.verdict, be8 m.defects.length] ++
  m.defects.flatMap (fun d => [be8 d.1, zoneStatusCode d.2]) ++ guardBytes m.guards

/-- A coat entry in READ_PANEL part 2 (R192). -/
def coatBytes (e : CoatEntry) : List Byte :=
  be32 e.expected ++ be32 e.counted ++ be16 e.run ++ be16 e.suppressed ++ [boolByte e.completed]

/-- READ_PANEL part 3, the cure fields (R192). -/
def curePart (c : Cure) : List Byte :=
  be16 c.temp ++ be32 c.dose ++ be16 c.peak ++ be32 c.ovenTime ++ be32 c.last.toNat ++ [cureVerdictCode c.verdict]

/-- The place of a reason in the service chain, 0 at the bottom; 0xFF for a PENDING entry (R192). -/
def chainPlace (holds : List HoldEntry) (e : HoldEntry) : Byte :=
  if e.isPending then 0xFF else be8 ((serviceChain holds).findIdx fun x => x.reason == e.reason)

/-- An entry in READ_PANEL part 4 (R192). -/
def holdBytes (m : HoldMask) (holds : List HoldEntry) (e : HoldEntry) : List Byte :=
  [be8 e.reason.code, if e.isPending then 0 else 1, be8 e.count, boolByte (m.covers e.reason), chainPlace holds e]

/-- READ_PANEL part 4, the holds in live rank order (R157, R192). -/
def holdsPart (prm : Params) (m : HoldMask) (p : Panel) : List Byte :=
  be8 p.holds.length :: (inRankOrder prm m p.holds).flatMap (holdBytes m p.holds) ++ [boolByte p.truncated]

/-- The data of READ_PANEL for part numbers 0..4 (R17). -/
def State.panelPart (s : State) (h part : Nat) (p : Panel) : Option (List Byte) :=
  match part with
  | 0 => some (panelSummary h (s.governingPanel p) p)
  | 1 => some (presence maskPart p.mask)
  | 2 => some (be8 p.coats.length :: p.coats.flatMap coatBytes)
  | 3 => some (presence curePart p.cure)
  | 4 => some (holdsPart s.params (s.holdMaskOf p) p)
  | _ => none

/-- A response as a FETCH frame sends it: length byte, status byte, data (R177, R192). -/
def responseBytes (r : Response) : List Byte := be8 (r.data.length + 1) :: statusCode r.status :: r.data

/-! ### Requests (R190, R191) -/

/-- The request length of a command code, where it takes one length (R190). -/
def fixedLength : Nat → Option Nat
  | 0x01 => some 1
  | 0x02 => some 24
  | 0x03 => some 1
  | 0x04 => some 1
  | 0x05 => some 2
  | 0x06 => some 2
  | 0x07 => some 2
  | 0x08 => some 1
  | 0x10 => some 22
  | 0x11 => some 12
  | 0x12 => some 3
  | 0x13 => some 19
  | 0x14 => some 2
  | 0x15 => some 3
  | 0x16 => some 14
  | 0x17 => some 3
  | 0x21 => some 3
  | 0x22 => some 3
  | 0x24 => some 1
  | 0x25 => some 3
  | 0x30 => some 3
  | 0x31 => some 3
  | 0x32 => some 2
  | 0x33 => some 2
  | 0x34 => some 4
  | 0x35 => some 2
  | _ => none

/-- The length fits the command; for FIND and BIND_ID the ID length byte must agree with it too (R190). -/
def lengthFits (b : RequestBuffer) : Bool :=
  let len := b.params.length + 1
  match b.code.toNat with
  | 0x20 => 2 ≤ len && len ≤ 250 && u8At b.params 0 + 2 == len
  | 0x23 => 3 ≤ len && len ≤ 250 && u8At b.params 1 + 3 == len
  | c => fixedLength c == some len

/-- What the port finds in the request buffer (R176, R181). -/
inductive Decoded where
  /-- Unknown command code, or a length that does not fit: BAD_REQUEST (R176). -/
  | badRequest
  /-- SET_PARAM with an identifier that names no parameter: RANGE (R181 check 1). -/
  | badParameter
  /-- The request of a table row, its parameters decoded (R191). -/
  | request (i : Instr)
deriving DecidableEq, Repr

/-- The station offset of an identifier 0x01..0x0E (R191). -/
def offsetOfId : Nat → Option StationOffset
  | 0x01 => some .idWindow
  | 0x02 => some .mask
  | 0x03 => some .divertA
  | 0x04 => some .booth
  | 0x05 => some .divertB
  | 0x06 => some .flashApproach
  | 0x07 => some .transfer
  | 0x08 => some .zoneEnd1
  | 0x09 => some .zoneEnd2
  | 0x0A => some .zoneEnd3
  | 0x0B => some .zoneEnd4
  | 0x0C => some .zoneEnd5
  | 0x0D => some .zoneEnd6
  | 0x0E => some .unload
  | _ => none

/-- SET_PARAM's identifier, sub-indices and value words; unused ones are ignored (R189, R191). -/
def decodeParam (ps : List Byte) : Decoded :=
  let a := u8At ps 1
  let b := u8At ps 2
  let v1 := s32At ps 3
  match offsetOfId (u8At ps 0) with
  | some o => .request (.setParamStationOffset o v1)
  | none =>
    match u8At ps 0 with
    | 0x0F => .request (.setParamEyeTolerance v1)
    | 0x10 => .request (.setParamDivertPulse v1)
    | 0x11 => .request (.setParamMinimumGap v1)
    | 0x12 => .request (.setParamSettleTime v1)
    | 0x13 => .request (.setParamEntryReserve v1)
    | 0x14 => .request (.setParamDefaultRecipe a v1)
    | 0x15 => .request (.setParamBaudRate v1)
    | 0x16 => .request (.setParamInspectTimeout v1)
    | 0x17 => .request (.setParamTraverseSpeed v1)
    | 0x18 => .request (.setParamAbortLevel v1)
    | 0x19 => .request (.setParamSamplePeriod v1)
    | 0x1A => .request (.setParamStaleLimit v1)
    | 0x1B => .request (.setParamAmbient v1)
    | 0x1C => .request (.setParamClassLimits v1 (s32At ps 7) (s32At ps 11) (s32At ps 15) (s32At ps 19))
    | 0x1D => .request (.setParamGainEntry a b v1)
    | 0x1E => .request (.setParamReasonLevel a v1)
    | _ => .badParameter

/-- The fields of DEFINE_RECIPE behind its recipe byte (R191). -/
def decodeFields (ps : List Byte) : RecipeFields :=
  { coats := u8At ps 1, massClass := u8At ps 2, recoat := s16At ps 3, flashMin := s16At ps 5, flowRate := u16At ps 7,
    flowTol := u8At ps 9, minorTol := u8At ps 10, holdMask := u8At ps 11, base := u16At ps 12, segs := u8At ps 14,
    rows := u8At ps 15, dy := s16At ps 16, mode := u8At ps 18, rotation := u8At ps 19, reversal := u8At ps 20 }

/-- The fields of SET_CURE_PROFILE behind its recipe byte (R191). -/
def decodeCure (ps : List Byte) : CureFields :=
  { tRef := s16At ps 1, doubling := u8At ps 3, tFloor := s16At ps 4, target := u32At ps 6, ceiling := u32At ps 10,
    minPeak := s16At ps 14, peakLimit := s16At ps 16 }

/-- The request in a buffer whose length fits its command (R190, R191). -/
def decodeBody (code : Nat) (ps : List Byte) : Decoded :=
  match code with
  | 0x01 => .request .lineStatus
  | 0x02 => decodeParam ps
  | 0x03 => .request .startLine
  | 0x04 => .request .stopLine
  | 0x05 => .request (.clearLane (u8At ps 0))
  | 0x06 => .request (.resetBooth (u8At ps 0))
  | 0x07 => .request (.resyncTag (u8At ps 0))
  | 0x08 => .request .readZones
  | 0x10 => .request (.defineRecipe (u8At ps 0) (decodeFields ps))
  | 0x11 => .request (.setMaskZone (u8At ps 0) (u8At ps 1) (u8At ps 2) (u16At ps 3) (u16At ps 5) (u16At ps 7)
      (u16At ps 9))
  | 0x12 => .request (.clearMaskZone (u8At ps 0) (u8At ps 1))
  | 0x13 => .request (.setCureProfile (u8At ps 0) (decodeCure ps))
  | 0x14 => .request (.eraseRecipe (u8At ps 0))
  | 0x15 => .request (.readRecipe (u8At ps 0) (u8At ps 1))
  | 0x16 => .request (.writeSegment (u16At ps 0) (u16At ps 2) (u16At ps 4) (u16At ps 6) (u16At ps 8) (u16At ps 10)
      (u8At ps 12))
  | 0x17 => .request (.readSegment (u16At ps 0))
  | 0x20 => .request (.find (ps.drop 1))
  | 0x21 => .request (.readPanel (u8At ps 0) (u8At ps 1))
  | 0x22 => .request (.assignRecipe (u8At ps 0) (u8At ps 1))
  | 0x23 => .request (.bindId (u8At ps 0) (ps.drop 2))
  | 0x24 => .request .nextNotice
  | 0x25 => .request (.retire (u8At ps 0) (u8At ps 1))
  | 0x30 => .request (.hold (u8At ps 0) (u8At ps 1))
  | 0x31 => .request (.service (u8At ps 0) (u8At ps 1))
  | 0x32 => .request (.release (u8At ps 0))
  | 0x33 => .request (.waiveMask (u8At ps 0))
  | 0x34 => .request (.reenter (u8At ps 0) (u8At ps 1) (u8At ps 2))
  | 0x35 => .request (.withdraw (u8At ps 0))
  | _ => .badRequest

/-- The request in the request buffer (R176, R190, R191). -/
def decodeRequest (b : RequestBuffer) : Decoded :=
  if lengthFits b then decodeBody b.code.toNat b.params else .badRequest

/-- The identifier of a station offset (R191). -/
def offsetId (o : StationOffset) : Nat := offsetIndex o + 1

/-- A SET_PARAM request with its unused sub-indices and value words 0 (R191). -/
def paramRequest (ident subA subB : Nat) (v1 : Int) (v2 : Int := 0) (v3 : Int := 0) (v4 : Int := 0) (v5 : Int := 0) :
    Option RequestBuffer :=
  some { code := 0x02,
         params := [be8 ident, be8 subA, be8 subB] ++ be32 v1 ++ be32 v2 ++ be32 v3 ++ be32 v4 ++ be32 v5 }

/-- The request buffer that carries a request row (R191); none for a row that is no request. -/
def encodeRequest : Instr → Option RequestBuffer
  | .lineStatus => some { code := 0x01, params := [] }
  | .startLine => some { code := 0x03, params := [] }
  | .stopLine => some { code := 0x04, params := [] }
  | .clearLane l => some { code := 0x05, params := [be8 l] }
  | .resetBooth l => some { code := 0x06, params := [be8 l] }
  | .resyncTag l => some { code := 0x07, params := [be8 l] }
  | .readZones => some { code := 0x08, params := [] }
  | .defineRecipe r f => some
      { code := 0x10,
        params := [be8 r, be8 f.coats, be8 f.massClass] ++ be16 f.recoat ++ be16 f.flashMin ++ be16 f.flowRate ++
          [be8 f.flowTol, be8 f.minorTol, be8 f.holdMask] ++ be16 f.base ++ [be8 f.segs, be8 f.rows] ++ be16 f.dy ++
          [be8 f.mode, be8 f.rotation, be8 f.reversal] }
  | .setMaskZone r z c x0 y0 x1 y1 => some
      { code := 0x11, params := [be8 r, be8 z, be8 c] ++ be16 x0 ++ be16 y0 ++ be16 x1 ++ be16 y1 }
  | .clearMaskZone r z => some { code := 0x12, params := [be8 r, be8 z] }
  | .setCureProfile r f => some
      { code := 0x13,
        params := [be8 r] ++ be16 f.tRef ++ [be8 f.doubling] ++ be16 f.tFloor ++ be32 f.target ++ be32 f.ceiling ++
          be16 f.minPeak ++ be16 f.peakLimit }
  | .eraseRecipe r => some { code := 0x14, params := [be8 r] }
  | .readRecipe r p => some { code := 0x15, params := [be8 r, be8 p] }
  | .writeSegment i x0 y0 x1 y1 v o => some
      { code := 0x16, params := be16 i ++ be16 x0 ++ be16 y0 ++ be16 x1 ++ be16 y1 ++ be16 v ++ [be8 o] }
  | .readSegment i => some { code := 0x17, params := be16 i }
  | .find id => some { code := 0x20, params := be8 id.length :: id }
  | .readPanel h p => some { code := 0x21, params := [be8 h, be8 p] }
  | .assignRecipe h r => some { code := 0x22, params := [be8 h, be8 r] }
  | .bindId h id => some { code := 0x23, params := be8 h :: be8 id.length :: id }
  | .nextNotice => some { code := 0x24, params := [] }
  | .retire h d => some { code := 0x25, params := [be8 h, be8 d] }
  | .hold h r => some { code := 0x30, params := [be8 h, be8 r] }
  | .service h r => some { code := 0x31, params := [be8 h, be8 r] }
  | .release h => some { code := 0x32, params := [be8 h] }
  | .waiveMask h => some { code := 0x33, params := [be8 h] }
  | .reenter h l p => some { code := 0x34, params := [be8 h, be8 l, be8 p] }
  | .withdraw h => some { code := 0x35, params := [be8 h] }
  | .setParamStationOffset o v => paramRequest (offsetId o) 0 0 v
  | .setParamEyeTolerance v => paramRequest 0x0F 0 0 v
  | .setParamDivertPulse v => paramRequest 0x10 0 0 v
  | .setParamMinimumGap v => paramRequest 0x11 0 0 v
  | .setParamSettleTime v => paramRequest 0x12 0 0 v
  | .setParamEntryReserve v => paramRequest 0x13 0 0 v
  | .setParamDefaultRecipe l v => paramRequest 0x14 l 0 v
  | .setParamBaudRate v => paramRequest 0x15 0 0 v
  | .setParamInspectTimeout v => paramRequest 0x16 0 0 v
  | .setParamTraverseSpeed v => paramRequest 0x17 0 0 v
  | .setParamAbortLevel v => paramRequest 0x18 0 0 v
  | .setParamSamplePeriod v => paramRequest 0x19 0 0 v
  | .setParamStaleLimit v => paramRequest 0x1A 0 0 v
  | .setParamAmbient v => paramRequest 0x1B 0 0 v
  | .setParamClassLimits a b c d e => paramRequest 0x1C 0 0 a b c d e
  | .setParamGainEntry m a v => paramRequest 0x1D m a v
  | .setParamReasonLevel r v => paramRequest 0x1E r 0 v
  | _ => none

end Sys2Proof.Machine
end

