-- ==== Sys2Proof/Machine/Station.lean ====
section
/-! DEFINITION. The station link receiver (Chapter 4): characters and BREAK (R70, R74), the FIFO (R72, R73), quiet
and gaps (R75, R77), the frame assembler and its checks (R76, R78 to R81), and the meanings of its commands. -/

namespace Sys2Proof.Machine

/-! ### Characters, FIFO and quiet -/

/-- Change the receiver. -/
def State.modSlr (f : StationLink → StationLink) (s : State) : State := { s with slr := f s.slr }

/-- A byte offered at the end of a character: it joins below 64 entries with its marks, and is discarded with a
pending loss mark otherwise (R72, R73). -/
def offerByte (b : Byte) (error gap : Bool) (r : StationLink) : StationLink :=
  if r.fifo.length < 64 then
    { r with
      fifo := r.fifo ++ [{ byte := b, error := error, loss := r.lossPending, gap := gap }]
      lossPending := false }
  else { r with lossPending := true }

/-- The byte of a character's data bits, which come least significant first (R70). -/
def dataByte (d : DataSamples) : Byte :=
  BitVec.ofBoolListLE [d.bit0, d.bit1, d.bit2, d.bit3, d.bit4, d.bit5, d.bit6, d.bit7]

/-- The end of a character in reception, by the samples of its start bit, data bits and stop bit (R70, R75). A start
bit that samples high was noise. -/
def endCharacter (start : Bool) (data : DataSamples) (stop : Bool) (r : StationLink) : StationLink :=
  match r.rx with
  | .receiving gap =>
    if start then { r with rx := .waiting, rxd := true }
    else { offerByte (dataByte data) (!stop) gap r with rx := .waiting, rxd := stop, quiet := false }
  | _ => r

/-- CHARACTER_RECEIVED (R70). -/
def execCharacterReceived (start : Bool) (data : DataSamples) (stop : Bool) (s : State) : Result :=
  whenRunning (State.modSlr (endCharacter start data stop)) s

/-- An edge on RXD: a fall while waiting begins a character and fixes its gap mark from the quiet state (R70, R75).
In BREAK the level alone is kept: the count to BREAK end runs while RXD is high (R74). -/
def rxdChange (level : Bool) (r : StationLink) : StationLink :=
  if r.rxd = level then r
  else
    match r.rx with
    | .waiting => if level then { r with rxd := level } else { r with rxd := level, rx := .receiving r.quiet }
    | _ => { r with rxd := level }

/-- RXD_EDGE (R70, R74). In reset the pin's level follows and no event is taken (R187). -/
def execRxdEdge (level : Bool) (s : State) : Result :=
  if s.inReset then .next (s.modSlr fun r => { r with rxd := level })
  else .next (s.modSlr (rxdChange level))

/-- The assembler is in the middle of a frame: LENGTH, BODY or CHECKSUM (R77). -/
def AsmState.midFrame : AsmState → Bool
  | .length | .body | .checksum => true
  | _ => false

/-- The frame in assembly is dropped (R71, R74, R77). -/
def dropFrame (r : StationLink) : StationLink :=
  if r.asm.state.midFrame then { r with asm := Assembler.reset } else r

/-- RXD low for 2 character times after a character began, or from reset: the line is low and no character is in
reception (R74). A line that is still low when a baud change ends BREAK or abandons a character may enter BREAK again:
R71 does not say whether it can, and R74 measures from the fall of a character that ended (DESIGN CHOICE, log 29). -/
def breakMayBegin (r : StationLink) : Bool :=
  !r.rxd && match r.rx with
    | .waiting => true
    | _ => false

/-- Entry to BREAK (R74). -/
def State.enterBreak (s : State) : State :=
  if breakMayBegin s.slr then
    (s.modSlr fun r => { dropFrame r with rx := .inBreak, fifo := [], lossPending := false }).raiseFlag .linkError
  else s

/-- BREAK_ENTRY (R74). -/
def execBreakEntry (s : State) : Result := whenRunning State.enterBreak s

/-- The end of BREAK, RXD high: the line counts as QUIET and the receiver waits (R74, R75). -/
def endBreak (r : StationLink) : StationLink :=
  match r.rx with
  | .inBreak => if r.rxd then { r with rx := .waiting, quiet := true } else r
  | _ => r

/-- BREAK_END (R74). -/
def execBreakEnd (s : State) : Result := whenRunning (State.modSlr endBreak) s

/-- On a QUIET line with an empty FIFO a frame in assembly is abandoned with LINK_ERROR (R77). -/
def State.abandonIfQuiet (s : State) : State :=
  if s.slr.quiet && s.slr.fifo.isEmpty && s.slr.asm.state.midFrame then
    (s.modSlr dropFrame).raiseFlag .linkError
  else s

/-- A character is in reception. -/
def Receiver.busy : Receiver → Bool
  | .receiving _ => true
  | _ => false

/-- The quiet timer expires with no new character begun (R75, R77). -/
def State.lineQuiet (s : State) : State :=
  if !s.slr.quiet && !s.slr.rx.busy then (s.modSlr fun r => { r with quiet := true }).abandonIfQuiet else s

/-- LINE_QUIET (R75). -/
def execLineQuiet (s : State) : Result := whenRunning State.lineQuiet s

/-! ### Frame checks (R78 to R80) -/

/-- The pairs of a mask report's payload. -/
def pairsOf : List Byte → List (Nat × Nat)
  | z :: st :: rest => (z.toNat, st.toNat) :: pairsOf rest
  | _ => []

/-- The status of a report's pair (R80). -/
def zoneStatusOf : Nat → Option ZoneStatus
  | 0 => some .present
  | 1 => some .absent
  | 2 => some .displaced
  | _ => none

/-- A pair whose zone is 0..23 and whose status is known (R80). -/
def goodPair (p : Nat × Nat) : Option (Nat × ZoneStatus) :=
  if p.1 ≤ 23 then (zoneStatusOf p.2).map fun st => (p.1, st) else none

/-- Checks 4 and 5 for ID_READ (R79): lane, ID length, characters. -/
def checkIdRead (len : Nat) (payload : List Byte) : Option StationMessage :=
  match payload with
  | lane :: n :: id =>
    if 1 ≤ n.toNat && n.toNat ≤ 16 && len == 3 + n.toNat && idCharsOk id then
      (laneOfNat lane.toNat).map fun l => .idRead l id
    else none
  | _ => none

/-- Checks 4 and 5 for MASK_REPORT (R80): lane, tag, N, pairs. -/
def checkMaskReport (len : Nat) (payload : List Byte) : Option StationMessage :=
  match payload with
  | lane :: tag :: n :: rest =>
    if n.toNat ≤ 24 && len == 4 + 2 * n.toNat && tag.toNat ≤ 15 then
      match laneOfNat lane.toNat, (pairsOf rest).mapM goodPair with
      | some l, some ps => some (.maskReport l (BitVec.ofNat 4 tag.toNat) ps)
      | _, _ => none
    else none
  | _ => none

/-- The checks of a complete frame, in the order of R78: its message when every check passes. -/
def checkFrame (a : Assembler) : Option StationMessage :=
  if a.corrupt || a.sum != 0 then none
  else
    match a.bytes with
    | [] => none
    | ty :: payload =>
      if ty = 0x10 then checkIdRead a.len payload
      else if ty = 0x20 then checkMaskReport a.len payload
      else none

/-! ### The assembler (R76) -/

/-- A byte examined in HUNTING: 0xA5 without the error mark starts a frame (R76). -/
def huntByte (e : FifoEntry) : Assembler :=
  if e.byte = 0xA5 && !e.error then { Assembler.reset with state := .length } else Assembler.reset

/-- What a byte handled by the table does: the assembler after it and whether LINK_ERROR is set. -/
def lengthByte (e : FifoEntry) (a : Assembler) : Assembler × Bool :=
  if e.error then (Assembler.reset, true)
  else if e.byte.toNat < 3 || 62 < e.byte.toNat then (huntByte e, true)
  else ({ a with state := .body, len := e.byte.toNat, sum := a.sum + e.byte }, false)

/-- A byte taken in BODY (R76). -/
def bodyByte (e : FifoEntry) (a : Assembler) : Assembler :=
  { a with
    bytes := a.bytes ++ [e.byte]
    sum := a.sum + e.byte
    corrupt := a.corrupt || e.error
    state := if a.bytes.length + 1 = a.len then .checksum else .body }

/-- A byte taken in CHECKSUM: the frame is complete and is checked (R76, R78); a good frame is offered in RUN and
discarded in CONFIG (R81). -/
def checksumByte (mode : LineMode) (e : FifoEntry) (a : Assembler) : Assembler × Bool :=
  match checkFrame { a with sum := a.sum + e.byte, corrupt := a.corrupt || e.error } with
  | none => (Assembler.reset, true)
  | some msg =>
    match mode with
    | .config => (Assembler.reset, false)
    | .run => ({ Assembler.reset with state := .offering msg }, false)

/-- A byte taken from the FIFO: its gap and loss marks first (R73, R77), then the table of R76. -/
def takeByte (mode : LineMode) (e : FifoEntry) (a : Assembler) : Assembler × Bool :=
  match a.state with
  | .hunting => (huntByte e, e.loss)
  | .length =>
    if e.gap then (huntByte e, true) else lengthByte e { a with corrupt := a.corrupt || e.loss }
  | .body =>
    if e.gap then (huntByte e, true) else (bodyByte e { a with corrupt := a.corrupt || e.loss }, false)
  | .checksum =>
    if e.gap then (huntByte e, true) else checksumByte mode e { a with corrupt := a.corrupt || e.loss }
  | .offering _ => (a, false)

/-- The assembler takes bytes: it is not OFFERING (R76, R81). -/
def AsmState.takes : AsmState → Bool
  | .offering _ => false
  | _ => true

/-- The assembler takes the head byte of the FIFO (R76), then a QUIET line with an emptied FIFO is dealt with
(R77). -/
def State.assemble (s : State) : State :=
  match s.slr.fifo with
  | [] => s
  | e :: rest =>
    if s.slr.asm.state.takes then
      let r := takeByte s.mode e s.slr.asm
      let s' := s.modSlr fun x => { x with fifo := rest, asm := r.1 }
      (if r.2 then s'.raiseFlag .linkError else s').abandonIfQuiet
    else s

/-- ASSEMBLER_BYTE_TAKE (R76). -/
def execAssemblerByteTake (s : State) : Result := whenRunning State.assemble s

/-! ### Baud rate (R71) -/

/-- A change of the baud rate restarts the receiver; an offered frame stays offered (R71). -/
def restartReceiver (r : StationLink) : StationLink :=
  { dropFrame r with rx := .waiting, fifo := [], lossPending := false, quiet := true }

end Sys2Proof.Machine
end

