-- ==== Sys2Proof/Machine/Params.lean ====
section
/-! DEFINITION. SET_PARAM (R181): its checks in their order and what an accepted value does, one definition for each
of its rows. Check 1, the identifier, is made where the request is decoded (`Decoded.badParameter`). -/

namespace Sys2Proof.Machine

/-- The line modes a parameter is accepted in (R181). -/
inductive ParamModes where
  | configOnly | both
deriving DecidableEq, Repr

/-- The parameter is refused in a line mode (R181 check 2). -/
def ParamModes.refuses : ParamModes → LineMode → Bool
  | .configOnly, .run => true
  | _, _ => false

/-- Checks 2 and 3 of SET_PARAM and, when both pass, its effect (R181). -/
def State.setParam (modes : ParamModes) (valid : Bool) (write : State → State) (s : State) : State × Response :=
  if modes.refuses s.mode then s.refuse .mode
  else if valid then (write s).answer []
  else s.refuse .range

/-- A value lies in a range, both ends included. -/
def inRange (a b v : Int) : Bool := a ≤ v && v ≤ b

/-- Write a parameter. -/
def State.writeParams (f : Params → Params) (s : State) : State := { s with params := f s.params }

/-- SET_PARAM of a station offset (R45, R181). -/
def serveSetParamStationOffset (o : StationOffset) (v : Int) (s : State) : State × Response :=
  s.setParam .configOnly (inRange 0 32767 v)
    (State.writeParams fun p => { p with offsets := p.offsets.setIfInBounds (offsetIndex o) v.toNat })

/-- SET_PARAM of the eye tolerance (R45, R181). -/
def serveSetParamEyeTolerance (v : Int) (s : State) : State × Response :=
  s.setParam .configOnly (inRange 1 200 v) (State.writeParams fun p => { p with eyeTolerance := v.toNat })

/-- SET_PARAM of the divert pulse (R58, R181); a pulse in progress keeps its time. -/
def serveSetParamDivertPulse (v : Int) (s : State) : State × Response :=
  s.setParam .configOnly (inRange 50 1000 v) (State.writeParams fun p => { p with divertPulse := v.toNat })

/-- SET_PARAM of the minimum gap (R45, R181). -/
def serveSetParamMinimumGap (v : Int) (s : State) : State × Response :=
  s.setParam .both (inRange 0 2000 v) (State.writeParams fun p => { p with minimumGap := v.toNat })

/-- SET_PARAM of the settle time (R45, R61, R181); a quiet timer already running keeps its time. -/
def serveSetParamSettleTime (v : Int) (s : State) : State × Response :=
  s.setParam .both (inRange 50 1000 v) (State.writeParams fun p => { p with settleTime := v.toNat })

/-- SET_PARAM of the entry reserve (R45, R181): ENTRY_INHIBIT is computed from it (R52). -/
def serveSetParamEntryReserve (v : Int) (s : State) : State × Response :=
  s.setParam .both (inRange 0 8 v) (State.writeParams fun p => { p with entryReserve := v.toNat })

/-- The default recipe that V1 names: −1 alone means absent (R189). -/
def defaultRecipeOf (v : Int) : Option Nat := if v = -1 then none else some v.toNat

/-- The default recipe's lane and value are in range (R181, R189). -/
def defaultRecipeOk (lane : Nat) (v : Int) : Bool := (laneOfNat lane).isSome && inRange (-1) 15 v

/-- Write the default recipe of a lane. -/
def Params.withDefault (lane : Nat) (r : Option Nat) (p : Params) : Params :=
  match laneOfNat lane with
  | none => p
  | some l => { p with defaultRecipe := p.defaultRecipe.set l r }

/-- SET_PARAM of a lane's default recipe (R36, R181, R189). -/
def serveSetParamDefaultRecipe (lane : Nat) (v : Int) (s : State) : State × Response :=
  s.setParam .both (defaultRecipeOk lane v) (State.writeParams fun p => p.withDefault lane (defaultRecipeOf v))

/-- The baud rate is written; a change restarts the receiver (R71). -/
def State.writeBaud (rate : Nat) (s : State) : State :=
  if s.params.baud = rate then s
  else (s.writeParams fun p => { p with baud := rate }).modSlr restartReceiver

/-- SET_PARAM of the baud rate (R71, R181). -/
def serveSetParamBaudRate (v : Int) (s : State) : State × Response :=
  s.setParam .configOnly (v == 57600 || v == 115200) (State.writeBaud v.toNat)

/-- SET_PARAM of the inspect timeout (R88, R181); a window timer already running keeps its expiry. -/
def serveSetParamInspectTimeout (v : Int) (s : State) : State × Response :=
  s.setParam .both (inRange 500 10000 v) (State.writeParams fun p => { p with inspectTimeout := v.toNat })

/-- SET_PARAM of the traverse speed (R112, R181). -/
def serveSetParamTraverseSpeed (v : Int) (s : State) : State × Response :=
  s.setParam .configOnly (inRange 50 400 v) (State.writeParams fun p => { p with traverseSpeed := v.toNat })

/-- SET_PARAM of the abort level: a channel in COATING compares its governing hold with it at once (R127, R181). -/
def serveSetParamAbortLevel (v : Int) (s : State) : State × Response :=
  s.setParam .both (inRange 0 7 v)
    fun s => ((s.writeParams fun p => { p with abortLevel := v.toNat }).askAbort .zero).askAbort .one

/-- SET_PARAM of the sample period, a multiple of 250 (R134, R181): used from the next completion. -/
def serveSetParamSamplePeriod (v : Int) (s : State) : State × Response :=
  s.setParam .configOnly (inRange 250 2000 v && v.toNat % 250 == 0)
    (State.writeParams fun p => { p with samplePeriod := v.toNat })

/-- Every zone is brought to a new stale limit (R137). -/
def State.relimitAll (s : State) : State :=
  (((((s.relimitAt 0).relimitAt 1).relimitAt 2).relimitAt 3).relimitAt 4).relimitAt 5

/-- SET_PARAM of the stale limit (R137, R181). -/
def serveSetParamStaleLimit (v : Int) (s : State) : State × Response :=
  s.setParam .configOnly (inRange 1 5 v)
    fun s => (s.writeParams fun p => { p with staleLimit := v.toNat }).relimitAll

/-- SET_PARAM of the ambient (R144, R181). -/
def serveSetParamAmbient (v : Int) (s : State) : State × Response :=
  s.setParam .both (inRange (-400) 1000 v) (State.writeParams fun p => { p with ambient := v })

/-- Five class limits, each 1..49,999, strictly increasing from class 5 to class 1 (R140). -/
def classLimitsOk (c5 c4 c3 c2 c1 : Int) : Bool :=
  inRange 1 49999 c5 && inRange 1 49999 c4 && inRange 1 49999 c3 && inRange 1 49999 c2 && inRange 1 49999 c1 &&
  c5 < c4 && c4 < c3 && c3 < c2 && c2 < c1

/-- SET_PARAM of the airflow class limits, all five together (R140, R181): a class already stored stands. -/
def serveSetParamClassLimits (c5 c4 c3 c2 c1 : Int) (s : State) : State × Response :=
  s.setParam .configOnly (classLimitsOk c5 c4 c3 c2 c1)
    (State.writeParams fun p => { p with limits :=
      { class5 := c5.toNat, class4 := c4.toNat, class3 := c3.toNat, class2 := c2.toNat, class1 := c1.toNat } })

/-- SET_PARAM of a gain table entry (R145, R181). -/
def serveSetParamGainEntry (mass airflow : Nat) (v : Int) (s : State) : State × Response :=
  s.setParam .configOnly (mass ≤ 3 && airflow ≤ 5 && inRange 0 65535 v)
    (State.writeParams fun p => { p with gain := p.gain.setIfInBounds (mass * 6 + airflow) v.toNat })

/-- SET_PARAM of a reason level (R154, R181): codes 1 and 2 are FIXED. -/
def serveSetParamReasonLevel (reason : Nat) (v : Int) (s : State) : State × Response :=
  s.setParam .configOnly (3 ≤ reason && reason ≤ 17 && inRange 0 7 v)
    (State.writeParams fun p => { p with levels := p.levels.setIfInBounds (reason - 3) v.toNat })

end Sys2Proof.Machine
end

