-- ==== Sys2Proof/Machine/Recipes.lean ====
section
/-! DEFINITION. The recipe table's and the path pool's requests (Chapter 2). -/

namespace Sys2Proof.Machine

/-- The checks that the requests changing a recipe share: the number names a recipe, and no live record names it
(R26). -/
def State.withFreeRecipe (s : State) (r : Nat) (f : Recipe → State × Response) : State × Response :=
  match s.recipe r with
  | none => s.refuse .range
  | some x => if 0 < x.refs then s.refuse .inUse else f x

/-- The process fields lie in their ranges (R27); a hold mask names no other reason (R29, R189). -/
def processFieldsOk (f : RecipeFields) : Bool :=
  1 ≤ f.coats && f.coats ≤ 3 && f.massClass ≤ 3 && 0 ≤ f.recoat && f.recoat ≤ 300 && 0 ≤ f.flashMin &&
  f.flashMin ≤ 900 && 10 ≤ f.flowRate && f.flowRate ≤ 5000 && 1 ≤ f.flowTol && f.flowTol ≤ 50 && f.minorTol ≤ 7 &&
  f.holdMask ≤ 15

/-- The path program fields lie in their ranges and the range in the pool (R28). -/
def pathFieldsOk (f : RecipeFields) : Bool :=
  f.base ≤ 383 && 1 ≤ f.segs && f.segs ≤ 32 && 1 ≤ f.rows && f.rows ≤ 64 && -200 ≤ f.dy && f.dy ≤ 200 &&
  f.mode ≤ 1 && f.rotation ≤ f.segs - 1 && f.reversal ≤ 1 && f.base + f.segs - 1 ≤ 383

/-- A y coordinate stays within 0..600 at the last row (R28, R40). -/
def rowFits (rows : Nat) (dy : Int) (y : Nat) : Bool :=
  0 ≤ (y : Int) + ((rows : Int) - 1) * dy && (y : Int) + ((rows : Int) - 1) * dy ≤ 600

/-- Both ends of a segment stay within 0..600 at the last row (R28, R40). -/
def segmentRowsFit (rows : Nat) (dy : Int) (g : Segment) : Bool := rowFits rows dy g.y0 && rowFits rows dy g.y1

/-- Every entry of the range is DEFINED and its rows fit (R28). -/
def poolRangeOk (pool : Vector (Option Segment) 384) (f : RecipeFields) : Bool :=
  (List.range f.segs).all fun k =>
    match (pool[f.base + k]?).join with
    | none => false
    | some g => segmentRowsFit f.rows f.dy g

/-- The body that checked fields give (R27, R28). -/
def bodyOfFields (f : RecipeFields) : Body :=
  { coats := f.coats, massClass := f.massClass, recoat := f.recoat.toNat, flashMin := f.flashMin.toNat,
    flowRate := f.flowRate, flowTol := f.flowTol, minorTol := f.minorTol, holdMask := holdMaskOfNat f.holdMask,
    base := f.base, segs := f.segs, rows := f.rows, dy := f.dy, serpentine := f.mode == 1, rotation := f.rotation,
    reversal := f.reversal == 1 }

/-- DEFINE_RECIPE (R26 to R28). -/
def serveDefineRecipe (r : Nat) (f : RecipeFields) (s : State) : State × Response :=
  s.withFreeRecipe r fun _ =>
    if processFieldsOk f && pathFieldsOk f && poolRangeOk s.pool f then
      (s.modRecipe r fun x => { x with body := some (bodyOfFields f) }).answer []
    else s.refuse .range

/-- Put a zone entry in its place in zone order, replacing an entry of the same zone (R30). -/
def putZone (z : MaskZone) : List MaskZone → List MaskZone
  | [] => [z]
  | x :: xs => if z.zone < x.zone then z :: x :: xs else if z.zone = x.zone then z :: xs else x :: putZone z xs

/-- SET_MASK_ZONE's own checks (R30). -/
def maskZoneOk (zone crit x0 y0 x1 y1 : Nat) : Bool :=
  zone ≤ 23 && crit ≤ 1 && x0 ≤ 600 && y0 ≤ 600 && x1 ≤ 600 && y1 ≤ 600 && x0 ≤ x1 && y0 ≤ y1

/-- SET_MASK_ZONE (R30): criticality 0 is CRITICAL (R193). -/
def serveSetMaskZone (r zone crit x0 y0 x1 y1 : Nat) (s : State) : State × Response :=
  s.withFreeRecipe r fun _ =>
    if maskZoneOk zone crit x0 y0 x1 y1 then
      (s.modRecipe r fun x =>
        { x with map := putZone { zone := zone, critical := crit == 0, x0 := x0, y0 := y0, x1 := x1, y1 := y1 } x.map
        }).answer []
    else s.refuse .range

/-- CLEAR_MASK_ZONE (R31). -/
def serveClearMaskZone (r zone : Nat) (s : State) : State × Response :=
  s.withFreeRecipe r fun x =>
    if 23 < zone then s.refuse .range
    else if x.map.any fun z => z.zone == zone then
      (s.modRecipe r fun x => { x with map := x.map.filter fun z => z.zone != zone }).answer []
    else s.refuse .notFound

/-- SET_CURE_PROFILE's own checks (R32). -/
def cureFieldsOk (f : CureFields) : Bool :=
  500 ≤ f.tRef && f.tRef ≤ 2500 && 4 ≤ f.doubling && f.doubling ≤ 20 &&
  f.tRef - 80 * (f.doubling : Int) ≤ f.tFloor && f.tFloor ≤ f.tRef &&
  1 ≤ f.target && f.target ≤ 2000000000 && f.target < f.ceiling && f.ceiling ≤ 4294967295 &&
  -400 ≤ f.minPeak && f.minPeak ≤ 3500 && -400 ≤ f.peakLimit && f.peakLimit ≤ 3500 && f.minPeak ≤ f.peakLimit

/-- The cure profile that checked fields give (R32). -/
def profileOfFields (f : CureFields) : CureProfile :=
  { tRef := f.tRef, doubling := f.doubling, tFloor := f.tFloor, target := f.target, ceiling := f.ceiling,
    minPeak := f.minPeak, peakLimit := f.peakLimit }

/-- SET_CURE_PROFILE (R32). -/
def serveSetCureProfile (r : Nat) (f : CureFields) (s : State) : State × Response :=
  s.withFreeRecipe r fun _ =>
    if cureFieldsOk f then (s.modRecipe r fun x => { x with cure := some (profileOfFields f) }).answer []
    else s.refuse .range

/-- ERASE_RECIPE (R33). -/
def serveEraseRecipe (r : Nat) (s : State) : State × Response :=
  s.withFreeRecipe r fun _ => (s.modRecipe r fun x => { x with body := none, map := [], cure := none }).answer []

/-- READ_RECIPE (R34). -/
def serveReadRecipe (r part : Nat) (s : State) : State × Response :=
  match s.recipe r with
  | none => s.refuse .range
  | some x =>
    match part with
    | 0 => s.answer (recipePart0 x)
    | 1 => s.answer (recipePart1 x)
    | _ => s.refuse .range

/-- The recipe's body is present and its range B..B+S−1 includes the index (R39, R40). -/
def rangeIncludes (i : Nat) (x : Recipe) : Bool :=
  match x.body with
  | none => false
  | some b => b.base ≤ i && i ≤ b.base + b.segs - 1

/-- A segment's coordinates, speed and valve lie in their ranges (R39 check 2). -/
def segmentFieldsOk (x0 y0 x1 y1 speed valve : Nat) : Bool :=
  x0 ≤ 600 && y0 ≤ 600 && x1 ≤ 600 && y1 ≤ 600 && 5 ≤ speed && speed ≤ 400 && valve ≤ 1

/-- The segment is horizontal or vertical, with its start different from its end (R38). -/
def axisAligned (x0 y0 x1 y1 : Nat) : Bool := (y0 == y1 && x0 != x1) || (x0 == x1 && y0 != y1)

/-- Check 5: the new segment keeps a recipe whose body names it within 0..600 (R40). -/
def keepsRows (i : Nat) (g : Segment) (x : Recipe) : Bool :=
  match x.body with
  | none => true
  | some b => !rangeIncludes i x || segmentRowsFit b.rows b.dy g

/-- WRITE_SEGMENT (R39, R40). -/
def serveWriteSegment (i x0 y0 x1 y1 speed valve : Nat) (s : State) : State × Response :=
  let g : Segment := { x0 := x0, y0 := y0, x1 := x1, y1 := y1, speed := speed, valveOpen := valve == 1 }
  if 383 < i then s.refuse .range
  else if !segmentFieldsOk x0 y0 x1 y1 speed valve then s.refuse .range
  else if !axisAligned x0 y0 x1 y1 then s.refuse .range
  else if s.recipes.toList.any fun x => 0 < x.refs && rangeIncludes i x then s.refuse .inUse
  else if !s.recipes.toList.all (keepsRows i g) then s.refuse .range
  else { s with pool := s.pool.setIfInBounds i (some g) }.answer []

/-- READ_SEGMENT (R41). -/
def serveReadSegment (i : Nat) (s : State) : State × Response :=
  match s.pool[i]? with
  | none => s.refuse .range
  | some g => s.answer (segmentBytes g)

end Sys2Proof.Machine
end

