-- ==== Sys2Proof/Machine/Records.lean ====
section
/-! DEFINITION. The record store's requests (Chapter 1): FIND, READ_PANEL, ASSIGN_RECIPE, BIND_ID, NEXT_NOTICE and
RETIRE. Each answers the state after the request and its response. -/

namespace Sys2Proof.Machine

/-- FIND (R16). -/
def serveFind (id : PanelId) (s : State) : State × Response :=
  if idOk id then
    match s.findId id with
    | some h => s.answer [be8 h]
    | none => s.refuse .notFound
  else s.refuse .range

/-- READ_PANEL (R17). -/
def serveReadPanel (h part : Nat) (s : State) : State × Response :=
  match s.panel h with
  | none => s.refuse .badHandle
  | some p =>
    match s.panelPart h part p with
    | some data => s.answer data
    | none => s.refuse .range

/-- The stages in which ASSIGN_RECIPE and BIND_ID are accepted (R18, R20). -/
def Stage.assignable : Stage → Bool
  | .entered | .admitted | .parked => true
  | _ => false

/-- ASSIGN_RECIPE's check 3: coats applied plus the new recipe's coats above 3 for a record on the front section
that is no FROM_OVEN re-entry (R18). -/
def overCoatLimit (p : Panel) (coats : Nat) : Bool :=
  (p.stage == .entered || p.stage == .admitted) && p.resume != some .fromOven && 3 < p.coatsApplied + coats

/-- The record given a recipe: a different one makes the mask result absent (R8, R18). -/
def withRecipe (r : Nat) (p : Panel) : Panel :=
  if p.recipe = some r then p else { p with recipe := some r, mask := none }

/-- The reference counts at an assignment: the new one up, the old one down, and unchanged when they are the same
(R5). -/
def State.moveRefs (old : Option Nat) (new : Nat) (s : State) : State :=
  match old with
  | none => s.addRef new
  | some o => if o = new then s else (s.addRef new).dropRef o

/-- ASSIGN_RECIPE (R18). -/
def serveAssignRecipe (h r : Nat) (s : State) : State × Response :=
  match s.panel h with
  | none => s.refuse .badHandle
  | some p =>
    if !p.stage.assignable then s.refuse .badState
    else if !s.definedRecipe r then s.refuse .range
    else if overCoatLimit p ((((s.recipe r).bind Recipe.body).map Body.coats).getD 0) then s.refuse .coatLimit
    else ((s.modPanel h (withRecipe r)).moveRefs p.recipe r).answer []

/-- BIND_ID (R20). -/
def serveBindId (h : Nat) (id : PanelId) (s : State) : State × Response :=
  match s.panel h with
  | none => s.refuse .badHandle
  | some p =>
    if !idOk id then s.refuse .range
    else if !p.stage.assignable || p.id.isSome then s.refuse .badState
    else if (s.findId id).isSome then s.refuse .inUse
    else { s.modPanel h fun p => { p with id := some id } with idMap := s.idMap ++ [(id, h)] }.answer []

/-- The lowest handle with a non-empty notice set (R21). -/
def State.firstNotice (s : State) : Option Nat :=
  (List.range 48).find? fun h =>
    match s.panel h with
    | some p => p.notices.any
    | none => false

/-- NEXT_NOTICE (R21). -/
def serveNextNotice (s : State) : State × Response :=
  match s.firstNotice with
  | none => s.refuse .notFound
  | some h =>
    match s.panel h with
    | none => s.refuse .notFound
    | some p => (s.modPanel h fun p => { p with notices := noNotices }).answer [be8 h, noticeByte p.notices]

/-- The stage allows the disposition, 0 OK or 1 SCRAP (R22). -/
def retireAllowed (st : Stage) (disposition : Nat) : Bool :=
  (st == .done && disposition == 0) || st == .parked

/-- The slot of a retired record becomes FREE and its handle joins the free list; its map entry and its recipe's
reference go (R23). -/
def State.retireRecord (h : Nat) (p : Panel) (s : State) : State :=
  let s := match p.recipe with
    | some r => s.dropRef r
    | none => s
  { s.setSlot h none with
    freeList := insertHandle h s.freeList
    idMap := s.idMap.filter fun e => e.2 != h }

/-- RETIRE (R22, R23). -/
def serveRetire (h disposition : Nat) (s : State) : State × Response :=
  match s.panel h with
  | none => s.refuse .badHandle
  | some p =>
    if 1 < disposition then s.refuse .range
    else if !retireAllowed p.stage disposition then s.refuse .badState
    else if p.stage == .parked && disposition == 0 && !p.holds.isEmpty then s.refuse .held
    else (s.retireRecord h p).answer []

end Sys2Proof.Machine
end

