-- ==== Sys2Proof/Machine/Rework.lean ====
section
/-! DEFINITION. The hold arbiter's requests (Chapter 9): HOLD, SERVICE, RELEASE, REENTER and WITHDRAW. -/

namespace Sys2Proof.Machine

/-- The data of HOLD's response: outcome code and evicted reason, 0 unless EVICTED (R162, R192, R193). -/
def outcomeBytes : RaiseOutcome → List Byte
  | .added => [0, 0]
  | .coalesced => [1, 0]
  | .evicted r => [2, be8 r.code]
  | .dropped => [3, 0]

/-- HOLD (R162): HOST_QA raised, the outcome reported, and the serving channel told. -/
def serveHold (h reason : Nat) (s : State) : State × Response :=
  match s.panel h with
  | none => s.refuse .badHandle
  | some p =>
    if reason = 17 then
      (s.raise .hostQa h).answer (outcomeBytes (p.raise s.params (s.holdMaskOf p) .hostQa).2)
    else s.refuse .range

/-- The service rank of an entry in service. -/
def serviceRank (e : HoldEntry) : Option Rank :=
  match e.state with
  | .pending => none
  | .inService r => some r

/-- The top of the service chain (R164). -/
def chainTop (holds : List HoldEntry) : Option HoldEntry := (serviceChain holds).getLast?

/-- A live rank outranks the service rank of the chain's top, if there is one (R165 check 4). -/
def outranksTop (holds : List HoldEntry) (r : Rank) : Bool :=
  match (chainTop holds).bind serviceRank with
  | none => true
  | some top => r.outranks top

/-- SERVICE's check 4: the reason's entry is the highest-ranked PENDING entry and outranks the chain's top (R165). -/
def serviceable (prm : Params) (m : HoldMask) (holds : List HoldEntry) (r : HoldReason) : Bool :=
  (highestPending prm m holds).map HoldEntry.reason == some r && outranksTop holds (rankOf prm m r)

/-- The entry becomes IN_SERVICE with its live rank recorded and stands on top of the chain: it moves to the end of
the list (R164, R165, log 14). -/
def takeInService (rank : Rank) (r : HoldReason) (holds : List HoldEntry) : List HoldEntry :=
  (holds.filter fun e => e.reason != r) ++
  (holds.filter fun e => e.reason == r).map fun e => { e with state := .inService rank }

/-- SERVICE (R165). -/
def serveService (h reason : Nat) (s : State) : State × Response :=
  match s.panel h with
  | none => s.refuse .badHandle
  | some p =>
    match reasonOfCode reason with
    | none => s.refuse .range
    | some r =>
      if p.stage ≠ .parked then s.refuse .badState
      else if !p.holds.any fun e => e.reason == r then s.refuse .notFound
      else if !serviceable s.params (s.holdMaskOf p) p.holds r then s.refuse .notGoverning
      else
        (s.modPanel h fun p =>
          { p with holds := takeInService (rankOf s.params (s.holdMaskOf p) r) r p.holds }).answer []

/-- RELEASE (R166). -/
def serveRelease (h : Nat) (s : State) : State × Response :=
  match s.panel h with
  | none => s.refuse .badHandle
  | some p =>
    if p.stage ≠ .parked then s.refuse .badState
    else
      match chainTop p.holds with
      | none => s.refuse .badState
      | some top =>
        if top.reason.fixed then s.refuse .fixedHold
        else
          (s.modPanel h fun p => { p with holds := p.holds.filter fun e => e.reason != top.reason }).answer
            [be8 top.reason.code]

/-- The resume point of a code (R193). -/
def resumeOfCode : Nat → Option ResumePoint
  | 0 => some .fromMask
  | 1 => some .fromSpray
  | 2 => some .fromOven
  | _ => none

/-- REENTER's check 3: an unmasked entry or an IN_SERVICE entry (R168). -/
def heldBack (m : HoldMask) (holds : List HoldEntry) : Bool :=
  holds.any fun e => !m.covers e.reason || !e.isPending

/-- REENTER's check 6 is met (R168). -/
def resumeReady (point : ResumePoint) (p : Panel) : Bool :=
  match point with
  | .fromMask => true
  | .fromSpray =>
    match p.mask with
    | none => false
    | some m => m.verdict != .failed
  | .fromOven => 1 ≤ p.coatsApplied

/-- REENTER's check 7 fails (R168). -/
def reentryOverCoats (point : ResumePoint) (coats : Nat) (p : Panel) : Bool :=
  point != .fromOven && 3 < p.coatsApplied + coats

/-- The process fields that REENTER resets, by resume point (R169). -/
def resetForResume (point : ResumePoint) (p : Panel) : Panel :=
  match point with
  | .fromMask => { p with mask := none, coats := [], cure := none }
  | .fromSpray => { p with coats := [], cure := none }
  | .fromOven => { p with cure := p.cure.map fun c => { c with verdict := none } }

/-- The record of an accepted REENTER (R169). -/
def reentered (l : LaneNo) (point : ResumePoint) (p : Panel) : Panel :=
  { resetForResume point p with
    rework := p.rework + 1
    truncated := false
    lane := l
    resume := some point
    stage := .reentering }.notify .reentered

/-- REENTER's checks 2 to 8 and effect (R168, R169). -/
def State.reenterChecked (h : Nat) (l : LaneNo) (point : ResumePoint) (p : Panel) (s : State) : State × Response :=
  if p.stage ≠ .parked then s.refuse .badState
  else if heldBack (s.holdMaskOf p) p.holds then s.refuse .held
  else if 3 ≤ p.rework then s.refuse .reworkLimit
  else if p.recipe.isNone then s.refuse .badState
  else if !resumeReady point p then s.refuse .badState
  else if reentryOverCoats point (((s.bodyOf p).map Body.coats).getD 0) p then s.refuse .coatLimit
  else if 4 ≤ (s.ltk.get l).reentry.length then s.refuse .full
  else
    ((s.modPanel h (reentered l point)).modLtk l fun t => { t with reentry := t.reentry ++ [h] }).answer []

/-- REENTER (R168, R169). -/
def serveReenter (h lane point : Nat) (s : State) : State × Response :=
  match s.panel h with
  | none => s.refuse .badHandle
  | some p =>
    match laneOfNat lane, resumeOfCode point with
    | some l, some r => s.reenterChecked h l r p
    | _, _ => s.refuse .range

/-- WITHDRAW (R171). -/
def serveWithdraw (h : Nat) (s : State) : State × Response :=
  match s.panel h with
  | none => s.refuse .badHandle
  | some p =>
    if p.stage = .reentering then
      ((s.modLtk p.lane fun t => { t with reentry := t.reentry.filter (· != h) }).modPanel h fun p =>
        { p with resume := none, stage := .parked }).answer []
    else s.refuse .badState

end Sys2Proof.Machine
end

