-- ==== Sys2Proof/Machine/LineLink.lean ====
section
/-! DEFINITION. The line link port (Chapter 10): LINE_STATUS (R182), START_LINE (R46, R88, R179), STOP_LINE (R180),
the port's frames (R173, R175, R177), and the processing of a request (R176). -/

namespace Sys2Proof.Machine

/-! ### LINE_STATUS, START_LINE and STOP_LINE -/

/-- The code of a line mode (R193). -/
def lineModeCode : LineMode → Byte
  | .config => 0
  | .run => 1

/-- The data of LINE_STATUS (R182, R192). -/
def State.statusBytes (s : State) : List Byte :=
  [lineModeCode s.mode, laneStateCode s.ltk.zero.state, laneStateCode s.ltk.one.state,
   channelStateCode s.bch.zero.state, channelStateCode s.bch.one.state, be8 s.freeCount, flagByte s.flags]

/-- LINE_STATUS: the values as read, and every flag read as set cleared (R182). -/
def serveLineStatus (s : State) : State × Response := State.answer s.statusBytes { s with flags := Flags.reset }

/-- The geometry checks of R46 and then the tag-spacing check of R88, in their order, each with the SET_PARAM
identifier (R191) of the parameter it names. -/
def startChecks (p : Params) : List (Bool × Nat) :=
  [(1 ≤ p.offset .idWindow, 0x01),
   (p.offset .idWindow < p.offset .mask, 0x02),
   (p.offset .mask < p.offset .divertA, 0x03),
   (p.offset .divertA < p.offset .booth, 0x04),
   (p.offset .booth < p.offset .divertB, 0x05),
   (p.offset .divertB < p.offset .flashApproach, 0x06),
   (p.offset .flashApproach + p.eyeTolerance < p.offset .transfer, 0x07),
   (p.offset .transfer + p.eyeTolerance ≤ 32766, 0x07),
   (1 ≤ p.offset .zoneEnd1, 0x08),
   (p.offset .zoneEnd1 < p.offset .zoneEnd2, 0x09),
   (p.offset .zoneEnd2 < p.offset .zoneEnd3, 0x0A),
   (p.offset .zoneEnd3 < p.offset .zoneEnd4, 0x0B),
   (p.offset .zoneEnd4 < p.offset .zoneEnd5, 0x0C),
   (p.offset .zoneEnd5 < p.offset .zoneEnd6, 0x0D),
   (p.offset .zoneEnd6 + p.eyeTolerance < p.offset .unload, 0x0E),
   (p.offset .unload + p.eyeTolerance ≤ 32766, 0x0E),
   (p.offset .divertA - p.offset .mask < 16 * max 1 p.minimumGap, 0x11)]

/-- The identifier that the first failing check of START_LINE names. -/
def startFailure (p : Params) : Option Nat := ((startChecks p).find? fun c => !c.1).map Prod.snd

/-- START_LINE (R179). -/
def serveStartLine (s : State) : State × Response :=
  match s.mode with
  | .run => s.refuse .mode
  | .config =>
    match startFailure s.params with
    | some ident => (s, { status := .range, data := [be8 ident] })
    | none =>
      State.answer [] (({ s with mode := .run }.modLtk .zero fun t => { t with state := .tracking }).modLtk .one
        fun t => { t with state := .tracking })

/-- The lane's section queues are empty and its channel is IDLE (R180). -/
def State.laneAtRest (s : State) (l : LaneNo) : Bool :=
  (s.ltk.get l).front.isEmpty && (s.ltk.get l).oven.isEmpty && (s.bch.get l).state == .idle

/-- A lane at an accepted STOP_LINE: IDLE, FLASH claim removed, quiet timer stopped (R180). -/
def LaneTrack.stopped (t : LaneTrack) : LaneTrack := { t with state := .idle, flashClaim := none, quiet := none }

/-- STOP_LINE (R180). -/
def serveStopLine (s : State) : State × Response :=
  match s.mode with
  | .config => s.refuse .mode
  | .run =>
    if s.laneAtRest .zero && s.laneAtRest .one then
      State.answer [] (({ s with mode := .config }.modLtk .zero LaneTrack.stopped).modLtk .one LaneTrack.stopped)
    else s.refuse .badState

/-! ### Carrying out a request (R176) -/

/-- A request carried out by its block: the state after it and its response (R176). A row that is no request is
never decoded from the request buffer. -/
def serve : Instr → State → State × Response
  | .lineStatus => serveLineStatus
  | .startLine => serveStartLine
  | .stopLine => serveStopLine
  | .clearLane l => serveClearLane l
  | .resetBooth l => serveResetBooth l
  | .resyncTag l => serveResyncTag l
  | .readZones => serveReadZones
  | .defineRecipe r f => serveDefineRecipe r f
  | .setMaskZone r z c x0 y0 x1 y1 => serveSetMaskZone r z c x0 y0 x1 y1
  | .clearMaskZone r z => serveClearMaskZone r z
  | .setCureProfile r f => serveSetCureProfile r f
  | .eraseRecipe r => serveEraseRecipe r
  | .readRecipe r p => serveReadRecipe r p
  | .writeSegment i x0 y0 x1 y1 v o => serveWriteSegment i x0 y0 x1 y1 v o
  | .readSegment i => serveReadSegment i
  | .find id => serveFind id
  | .readPanel h p => serveReadPanel h p
  | .assignRecipe h r => serveAssignRecipe h r
  | .bindId h id => serveBindId h id
  | .nextNotice => serveNextNotice
  | .retire h d => serveRetire h d
  | .hold h r => serveHold h r
  | .service h r => serveService h r
  | .release h => serveRelease h
  | .waiveMask h => serveWaiveMask h
  | .reenter h l p => serveReenter h l p
  | .withdraw h => serveWithdraw h
  | .setParamStationOffset o v => serveSetParamStationOffset o v
  | .setParamEyeTolerance v => serveSetParamEyeTolerance v
  | .setParamDivertPulse v => serveSetParamDivertPulse v
  | .setParamMinimumGap v => serveSetParamMinimumGap v
  | .setParamSettleTime v => serveSetParamSettleTime v
  | .setParamEntryReserve v => serveSetParamEntryReserve v
  | .setParamDefaultRecipe l v => serveSetParamDefaultRecipe l v
  | .setParamBaudRate v => serveSetParamBaudRate v
  | .setParamInspectTimeout v => serveSetParamInspectTimeout v
  | .setParamTraverseSpeed v => serveSetParamTraverseSpeed v
  | .setParamAbortLevel v => serveSetParamAbortLevel v
  | .setParamSamplePeriod v => serveSetParamSamplePeriod v
  | .setParamStaleLimit v => serveSetParamStaleLimit v
  | .setParamAmbient v => serveSetParamAmbient v
  | .setParamClassLimits a b c d e => serveSetParamClassLimits a b c d e
  | .setParamGainEntry m a v => serveSetParamGainEntry m a v
  | .setParamReasonLevel r v => serveSetParamReasonLevel r v
  | .requestFrame _ => State.refuse .badRequest
  | .fetchFrame _ => State.refuse .badRequest
  | .ignoredFrame _ => State.refuse .badRequest
  | .processingComplete => State.refuse .badRequest
  | .encoderCount _ _ _ => State.refuse .badRequest
  | .eyeEntry _ _ => State.refuse .badRequest
  | .eyeOven _ _ => State.refuse .badRequest
  | .eyeUnload _ _ => State.refuse .badRequest
  | .settledEvent _ => State.refuse .badRequest
  | .flashClaimExpiry _ => State.refuse .badRequest
  | .divertPulseEnd _ _ => State.refuse .badRequest
  | .inspectTrigPulseEnd _ => State.refuse .badRequest
  | .inspectTrigRecoveryEnd _ => State.refuse .badRequest
  | .inspectWindowExpiry _ => State.refuse .badRequest
  | .characterReceived _ _ _ => State.refuse .badRequest
  | .breakEntry => State.refuse .badRequest
  | .breakEnd => State.refuse .badRequest
  | .lineQuiet => State.refuse .badRequest
  | .assemblerByteTake => State.refuse .badRequest
  | .idRead => State.refuse .badRequest
  | .maskReport => State.refuse .badRequest
  | .gantryTransferEnd => State.refuse .badRequest
  | .moveDone _ _ => State.refuse .badRequest
  | .durationExpiry _ => State.refuse .badRequest
  | .moveTimeout _ => State.refuse .badRequest
  | .gantryErr _ _ => State.refuse .badRequest
  | .flowPulse _ _ => State.refuse .badRequest
  | .recoatExpiry _ => State.refuse .badRequest
  | .pollStart => State.refuse .badRequest
  | .pollCompletion _ => State.refuse .badRequest
  | .tachEdge _ _ _ => State.refuse .badRequest
  | .stallWatchExpiry _ _ => State.refuse .badRequest
  | .deviceReset _ => State.refuse .badRequest
  | .resetEnd => State.refuse .badRequest
  | .tick => State.refuse .badRequest
  | .csnFallingEdge => State.refuse .badRequest
  | .rxdEdge _ => State.refuse .badRequest

/-- The request is in process and has not taken effect (R176): the part is not in reset, the link is BUSY, and the
request buffer decodes to it. -/
def State.inProcess (s : State) (i : Instr) : Bool :=
  !s.inReset && s.link.state == .busy && s.link.effect.isNone &&
  (match s.link.request with
    | some b => decodeRequest b == .request i
    | none => false)

/-- The request in process takes effect at one point (R176); its response waits for completion. A request that is
not in process has no effect (log 3). -/
def takeEffect (i : Instr) (f : State → State × Response) (s : State) : Result :=
  if s.inProcess i then .next { (f s).1 with link := { (f s).1.link with effect := some (f s).2 } }
  else .next s

/-! ### Frames (R173 to R177) -/

/-- What the part sends while `n` bits are clocked: the bits of a message, then 0 bits (R173, R177). -/
def sentBits (msg : List Byte) (n : Nat) : List Bool := (bitsOf msg ++ List.replicate n false).take n

/-- The frame in progress ends at the rise of CS_N. -/
def LineLink.endFrame (sent : List Bool) (k : LineLink) : LineLink := { k with frame := none, csn := true, miso := sent }

/-- The end of a frame: with a frame in progress its effect by the link state at its start; otherwise, and in reset,
CS_N is high again and nothing else happens (R173, R187). -/
def State.onFrame (f : LinkState → LineLink → LineLink) (s : State) : State :=
  match s.inReset, s.link.frame with
  | false, some st => { s with link := f st s.link }
  | _, _ => { s with link := { s.link with csn := true } }

/-- The command code and parameters of a REQUEST frame's bytes behind the type byte, when the length is 1..250 and
all the declared bytes arrived (R175). -/
def frameRequest : List Byte → Option RequestBuffer
  | len :: code :: params =>
    if 1 ≤ len.toNat && len.toNat ≤ 250 && len.toNat - 1 ≤ params.length then
      some { code := code, params := params.take (len.toNat - 1) }
    else none
  | _ => none

/-- A REQUEST frame accepted into the request buffer, or discarded (R175). -/
def LineLink.takeRequest (bits : List Bool) (st : LinkState) (k : LineLink) : LineLink :=
  let k' := k.endFrame (sentBits [linkStateByte st] bits.length)
  match st, frameRequest (wholeBytes bits).tail with
  | .idle, some b => { k' with state := .busy, request := some b, effect := none }
  | _, _ => k'

/-- A FETCH frame of `n` bits (R177): the response is consumed when every byte of it was clocked whole. -/
def LineLink.fetch (n : Nat) (st : LinkState) (k : LineLink) : LineLink :=
  match st, k.response with
  | .response, some r =>
    let msg := linkStateByte st :: responseBytes r
    let k' := k.endFrame (sentBits msg n)
    if 8 * msg.length ≤ n then { k' with state := .idle, response := none } else k'
  | _, _ => k.endFrame (sentBits [linkStateByte st] n)

/-- What the part sends in a frame of another type of `n` bits: the link state in the first byte (R173). R173 and R177
give the later bytes for the other two types only, and here they are free (log 30): `c` is the counter of free
values. -/
def ignoredSent (c : Nat) (st : LinkState) (n : Nat) : List Bool :=
  (bitsOf (linkStateByte st :: (List.range (n / 8)).map (Config.misoIgnored c))).take n

/-- A frame of another type: the link state is sent and nothing changes (R173). -/
def LineLink.ignore (c n : Nat) (st : LinkState) (k : LineLink) : LineLink := k.endFrame (ignoredSent c st n)

/-- An ignored frame uses up a value of the counter of free values (log 30). -/
def State.ignoreFrame (n : Nat) (s : State) : State :=
  let t := s.onFrame (LineLink.ignore s.free n)
  if !s.inReset && s.link.frame.isSome then { t with free := s.free + 1 } else t

/-- The bits of a frame have been clocked and CS_N rises: what the part does goes by the type byte (R173). -/
def State.clockedFrame (bits : List Bool) (s : State) : State :=
  match frameType bits with
  | none => s.ignoreFrame bits.length
  | some ty =>
    if ty = 0x51 then s.onFrame (LineLink.takeRequest bits)
    else if ty = 0x52 then s.onFrame (LineLink.fetch bits.length)
    else s.ignoreFrame bits.length

/-- REQUEST_FRAME (R175). -/
def execRequestFrame (bits : List Bool) (s : State) : Result := .next (s.clockedFrame bits)

/-- FETCH_FRAME (R177). -/
def execFetchFrame (bits : List Bool) (s : State) : Result := .next (s.clockedFrame bits)

/-- IGNORED_FRAME (R173). -/
def execIgnoredFrame (bits : List Bool) (s : State) : Result := .next (s.clockedFrame bits)

/-- CS_N falls: a frame begins with the link state as it stands (R173). In reset only the pin's level follows
(R187). -/
def LineLink.fall (inReset : Bool) (k : LineLink) : LineLink :=
  if k.csn && !inReset then { k with csn := false, frame := some k.state } else { k with csn := false }

/-- CS_N_FALLING_EDGE (R173). -/
def execCsnFallingEdge (s : State) : Result := .next { s with link := s.link.fall s.inReset }

/-! ### Completion (R176) -/

/-- The response is placed in the response buffer and the link state becomes RESPONSE (R176). -/
def State.respond (r : Response) (s : State) : State :=
  { s with link := { s.link with state := .response, request := none, effect := none, response := some r } }

/-- The request buffer's outcome at completion when no request row has taken effect: the port's own checks, or the
request carried out now (R176; R181 check 1; log 4). -/
def State.completeUnserved (b : RequestBuffer) (s : State) : State :=
  match decodeRequest b with
  | .badRequest => s.respond { status := .badRequest, data := [] }
  | .badParameter => s.respond { status := .range, data := [] }
  | .request i => (serve i s).1.respond (serve i s).2

/-- Processing completes (R176). -/
def State.complete (s : State) : State :=
  if s.link.state = .busy then
    match s.link.effect, s.link.request with
    | some r, _ => s.respond r
    | none, some b => s.completeUnserved b
    | none, none => s
  else s

/-- PROCESSING_COMPLETE (R176). -/
def execProcessingComplete (s : State) : Result := whenRunning State.complete s

end Sys2Proof.Machine
end

