-- ==== Sys2Proof/Machine/Requests.lean ====
section
/-! DEFINITION. The meanings of the request rows: each request in process takes effect by its block's rule at one
point between acceptance and completion (R176). -/

namespace Sys2Proof.Machine

/-- LINE_STATUS (R182). -/
def execLineStatus (s : State) : Result := takeEffect .lineStatus serveLineStatus s

/-- START_LINE (R179). -/
def execStartLine (s : State) : Result := takeEffect .startLine serveStartLine s

/-- STOP_LINE (R180). -/
def execStopLine (s : State) : Result := takeEffect .stopLine serveStopLine s

/-- CLEAR_LANE (R68). -/
def execClearLane (lane : Nat) (s : State) : Result := takeEffect (.clearLane lane) (serveClearLane lane) s

/-- RESET_BOOTH (R131). -/
def execResetBooth (lane : Nat) (s : State) : Result := takeEffect (.resetBooth lane) (serveResetBooth lane) s

/-- RESYNC_TAG (R97). -/
def execResyncTag (lane : Nat) (s : State) : Result := takeEffect (.resyncTag lane) (serveResyncTag lane) s

/-- READ_ZONES (R141). -/
def execReadZones (s : State) : Result := takeEffect .readZones serveReadZones s

/-- DEFINE_RECIPE (R27, R28). -/
def execDefineRecipe (r : Nat) (f : RecipeFields) (s : State) : Result :=
  takeEffect (.defineRecipe r f) (serveDefineRecipe r f) s

/-- SET_MASK_ZONE (R30). -/
def execSetMaskZone (r zone crit x0 y0 x1 y1 : Nat) (s : State) : Result :=
  takeEffect (.setMaskZone r zone crit x0 y0 x1 y1) (serveSetMaskZone r zone crit x0 y0 x1 y1) s

/-- CLEAR_MASK_ZONE (R31). -/
def execClearMaskZone (r zone : Nat) (s : State) : Result :=
  takeEffect (.clearMaskZone r zone) (serveClearMaskZone r zone) s

/-- SET_CURE_PROFILE (R32). -/
def execSetCureProfile (r : Nat) (f : CureFields) (s : State) : Result :=
  takeEffect (.setCureProfile r f) (serveSetCureProfile r f) s

/-- ERASE_RECIPE (R33). -/
def execEraseRecipe (r : Nat) (s : State) : Result := takeEffect (.eraseRecipe r) (serveEraseRecipe r) s

/-- READ_RECIPE (R34). -/
def execReadRecipe (r part : Nat) (s : State) : Result := takeEffect (.readRecipe r part) (serveReadRecipe r part) s

/-- WRITE_SEGMENT (R39, R40). -/
def execWriteSegment (index x0 y0 x1 y1 speed valve : Nat) (s : State) : Result :=
  takeEffect (.writeSegment index x0 y0 x1 y1 speed valve) (serveWriteSegment index x0 y0 x1 y1 speed valve) s

/-- READ_SEGMENT (R41). -/
def execReadSegment (index : Nat) (s : State) : Result := takeEffect (.readSegment index) (serveReadSegment index) s

/-- FIND (R16). -/
def execFind (id : PanelId) (s : State) : Result := takeEffect (.find id) (serveFind id) s

/-- READ_PANEL (R17). -/
def execReadPanel (h part : Nat) (s : State) : Result := takeEffect (.readPanel h part) (serveReadPanel h part) s

/-- ASSIGN_RECIPE (R18). -/
def execAssignRecipe (h r : Nat) (s : State) : Result := takeEffect (.assignRecipe h r) (serveAssignRecipe h r) s

/-- BIND_ID (R20). -/
def execBindId (h : Nat) (id : PanelId) (s : State) : Result := takeEffect (.bindId h id) (serveBindId h id) s

/-- NEXT_NOTICE (R21). -/
def execNextNotice (s : State) : Result := takeEffect .nextNotice serveNextNotice s

/-- RETIRE (R22, R23). -/
def execRetire (h disposition : Nat) (s : State) : Result :=
  takeEffect (.retire h disposition) (serveRetire h disposition) s

/-- HOLD (R162). -/
def execHold (h reason : Nat) (s : State) : Result := takeEffect (.hold h reason) (serveHold h reason) s

/-- SERVICE (R165). -/
def execService (h reason : Nat) (s : State) : Result := takeEffect (.service h reason) (serveService h reason) s

/-- RELEASE (R166). -/
def execRelease (h : Nat) (s : State) : Result := takeEffect (.release h) (serveRelease h) s

/-- WAIVE_MASK (R98). -/
def execWaiveMask (h : Nat) (s : State) : Result := takeEffect (.waiveMask h) (serveWaiveMask h) s

/-- REENTER (R168, R169). -/
def execReenter (h lane point : Nat) (s : State) : Result :=
  takeEffect (.reenter h lane point) (serveReenter h lane point) s

/-- WITHDRAW (R171). -/
def execWithdraw (h : Nat) (s : State) : Result := takeEffect (.withdraw h) (serveWithdraw h) s

/-- SET_PARAM of a station offset (R45, R181). -/
def execSetParamStationOffset (o : StationOffset) (v : Int) (s : State) : Result :=
  takeEffect (.setParamStationOffset o v) (serveSetParamStationOffset o v) s

/-- SET_PARAM of the eye tolerance (R45, R181). -/
def execSetParamEyeTolerance (v : Int) (s : State) : Result :=
  takeEffect (.setParamEyeTolerance v) (serveSetParamEyeTolerance v) s

/-- SET_PARAM of the divert pulse (R58, R181). -/
def execSetParamDivertPulse (v : Int) (s : State) : Result :=
  takeEffect (.setParamDivertPulse v) (serveSetParamDivertPulse v) s

/-- SET_PARAM of the minimum gap (R45, R181). -/
def execSetParamMinimumGap (v : Int) (s : State) : Result :=
  takeEffect (.setParamMinimumGap v) (serveSetParamMinimumGap v) s

/-- SET_PARAM of the settle time (R61, R181). -/
def execSetParamSettleTime (v : Int) (s : State) : Result :=
  takeEffect (.setParamSettleTime v) (serveSetParamSettleTime v) s

/-- SET_PARAM of the entry reserve (R45, R181). -/
def execSetParamEntryReserve (v : Int) (s : State) : Result :=
  takeEffect (.setParamEntryReserve v) (serveSetParamEntryReserve v) s

/-- SET_PARAM of a lane's default recipe (R36, R181). -/
def execSetParamDefaultRecipe (lane : Nat) (v : Int) (s : State) : Result :=
  takeEffect (.setParamDefaultRecipe lane v) (serveSetParamDefaultRecipe lane v) s

/-- SET_PARAM of the baud rate (R71, R181). -/
def execSetParamBaudRate (v : Int) (s : State) : Result :=
  takeEffect (.setParamBaudRate v) (serveSetParamBaudRate v) s

/-- SET_PARAM of the inspect timeout (R88, R181). -/
def execSetParamInspectTimeout (v : Int) (s : State) : Result :=
  takeEffect (.setParamInspectTimeout v) (serveSetParamInspectTimeout v) s

/-- SET_PARAM of the traverse speed (R112, R181). -/
def execSetParamTraverseSpeed (v : Int) (s : State) : Result :=
  takeEffect (.setParamTraverseSpeed v) (serveSetParamTraverseSpeed v) s

/-- SET_PARAM of the abort level (R127, R181). -/
def execSetParamAbortLevel (v : Int) (s : State) : Result :=
  takeEffect (.setParamAbortLevel v) (serveSetParamAbortLevel v) s

/-- SET_PARAM of the sample period (R134, R181). -/
def execSetParamSamplePeriod (v : Int) (s : State) : Result :=
  takeEffect (.setParamSamplePeriod v) (serveSetParamSamplePeriod v) s

/-- SET_PARAM of the stale limit (R137, R181). -/
def execSetParamStaleLimit (v : Int) (s : State) : Result :=
  takeEffect (.setParamStaleLimit v) (serveSetParamStaleLimit v) s

/-- SET_PARAM of the ambient (R144, R181). -/
def execSetParamAmbient (v : Int) (s : State) : Result := takeEffect (.setParamAmbient v) (serveSetParamAmbient v) s

/-- SET_PARAM of the airflow class limits (R140, R181). -/
def execSetParamClassLimits (c5 c4 c3 c2 c1 : Int) (s : State) : Result :=
  takeEffect (.setParamClassLimits c5 c4 c3 c2 c1) (serveSetParamClassLimits c5 c4 c3 c2 c1) s

/-- SET_PARAM of a gain table entry (R145, R181). -/
def execSetParamGainEntry (mass airflow : Nat) (v : Int) (s : State) : Result :=
  takeEffect (.setParamGainEntry mass airflow v) (serveSetParamGainEntry mass airflow v) s

/-- SET_PARAM of a reason level (R154, R181). -/
def execSetParamReasonLevel (reason : Nat) (v : Int) (s : State) : Result :=
  takeEffect (.setParamReasonLevel reason v) (serveSetParamReasonLevel reason v) s

end Sys2Proof.Machine
end

