-- ==== Sys2Proof/Machine/Timebase.lean ====
section
/-! DEFINITION. The timebase (R185) and device reset (R187). -/

namespace Sys2Proof.Machine

/-- A tick boundary: the counter goes up by 1 modulo 2^32, and 100 samples lie behind the last boundary (R185,
R186; log 9). -/
def State.tickOn (s : State) : State :=
  { s with tick := s.tick + 1, tickSample := s.tickSample + 100, samples := max s.samples (s.tickSample + 100) }

/-- TICK (R185). -/
def execTick (s : State) : Result := whenRunning State.tickOn s

/-- The cause begins a device reset: RESET_N low for 1 us or more, or power-up (R187). -/
def causesReset : ResetCause → Bool
  | .resetN lowNs => 1000 ≤ lowNs
  | .powerUp => true

/-- A lane's timers and pulses at the start of reset: all abandoned (R187). -/
def LaneTrack.abandoned (t : LaneTrack) : LaneTrack :=
  { t with flashClaim := none, quiet := none, divertA := none, divertB := none, divertU := none }

/-- A mask verifier lane's pulse and windows at the start of reset: abandoned (R187). -/
def MaskLane.abandoned (m : MaskLane) : MaskLane := { m with inspecting := [], trig := .free }

/-- A channel's move and recoat wait at the start of reset: abandoned (R187). -/
def Channel.abandoned (c : Channel) : Channel := { c with order := none, inFlight := false, recoatExpiry := none }

/-- The start of device reset: every operation in flight is abandoned, a line link frame among them (R187). What stays besides is not read again:
RESET_END sets it (log 19). -/
def State.beginReset (s : State) : State :=
  { s with
    inReset := true
    ltk := { zero := s.ltk.zero.abandoned, one := s.ltk.one.abandoned }
    mvf := { zero := s.mvf.zero.abandoned, one := s.mvf.one.abandoned }
    bch := { zero := s.bch.zero.abandoned, one := s.bch.one.abandoned }
    port := none
    poll := { s.poll with inFlight := false }
    slr := { s.slr with rx := .waiting, asm := Assembler.reset }
    link := { s.link with state := .idle, request := none, effect := none, response := none, frame := none, miso := [] } }

/-- DEVICE_RESET (R187). -/
def execDeviceReset (cause : ResetCause) (s : State) : Result :=
  if causesReset cause then .next s.beginReset else .next s

/-- The end of reset: every block's state takes its reset value (R187). The waiting commands, the levels of the pins
RXD and CS_N and the free counter are not state of a block and stay. -/
def State.endReset (s : State) : State :=
  { State.reset with
    pending := s.pending
    free := s.free
    slr := { StationLink.reset with rxd := s.slr.rxd }
    link := { LineLink.reset with csn := s.link.csn } }

/-- RESET_END (R187). -/
def execResetEnd (s : State) : Result := if s.inReset then .next s.endReset else .next s

end Sys2Proof.Machine
end

