-- ==== Sys2Proof/Machine/Dispatch.lean ====
section
/-! DEFINITION. `exec`: one arm for each command. -/

namespace Sys2Proof.Machine

def exec (i : Instr) (s : State) : Host.Outcome State Fault Refusal :=
  match i with
  | .requestFrame bits => Sys2Proof.Machine.execRequestFrame bits s
  | .fetchFrame bits => Sys2Proof.Machine.execFetchFrame bits s
  | .ignoredFrame bits => Sys2Proof.Machine.execIgnoredFrame bits s
  | .processingComplete => Sys2Proof.Machine.execProcessingComplete s
  | .lineStatus => Sys2Proof.Machine.execLineStatus s
  | .startLine => Sys2Proof.Machine.execStartLine s
  | .stopLine => Sys2Proof.Machine.execStopLine s
  | .clearLane lane => Sys2Proof.Machine.execClearLane lane s
  | .resetBooth lane => Sys2Proof.Machine.execResetBooth lane s
  | .resyncTag lane => Sys2Proof.Machine.execResyncTag lane s
  | .readZones => Sys2Proof.Machine.execReadZones s
  | .defineRecipe recipe fields => Sys2Proof.Machine.execDefineRecipe recipe fields s
  | .setMaskZone recipe zone criticality x0 y0 x1 y1 => Sys2Proof.Machine.execSetMaskZone recipe zone criticality x0 y0 x1 y1 s
  | .clearMaskZone recipe zone => Sys2Proof.Machine.execClearMaskZone recipe zone s
  | .setCureProfile recipe fields => Sys2Proof.Machine.execSetCureProfile recipe fields s
  | .eraseRecipe recipe => Sys2Proof.Machine.execEraseRecipe recipe s
  | .readRecipe recipe part => Sys2Proof.Machine.execReadRecipe recipe part s
  | .writeSegment index x0 y0 x1 y1 speed valve => Sys2Proof.Machine.execWriteSegment index x0 y0 x1 y1 speed valve s
  | .readSegment index => Sys2Proof.Machine.execReadSegment index s
  | .find id => Sys2Proof.Machine.execFind id s
  | .readPanel handle part => Sys2Proof.Machine.execReadPanel handle part s
  | .assignRecipe handle recipe => Sys2Proof.Machine.execAssignRecipe handle recipe s
  | .bindId handle id => Sys2Proof.Machine.execBindId handle id s
  | .nextNotice => Sys2Proof.Machine.execNextNotice s
  | .retire handle disposition => Sys2Proof.Machine.execRetire handle disposition s
  | .hold handle reason => Sys2Proof.Machine.execHold handle reason s
  | .service handle reason => Sys2Proof.Machine.execService handle reason s
  | .release handle => Sys2Proof.Machine.execRelease handle s
  | .waiveMask handle => Sys2Proof.Machine.execWaiveMask handle s
  | .reenter handle lane point => Sys2Proof.Machine.execReenter handle lane point s
  | .withdraw handle => Sys2Proof.Machine.execWithdraw handle s
  | .setParamStationOffset offset value => Sys2Proof.Machine.execSetParamStationOffset offset value s
  | .setParamEyeTolerance value => Sys2Proof.Machine.execSetParamEyeTolerance value s
  | .setParamDivertPulse value => Sys2Proof.Machine.execSetParamDivertPulse value s
  | .setParamMinimumGap value => Sys2Proof.Machine.execSetParamMinimumGap value s
  | .setParamSettleTime value => Sys2Proof.Machine.execSetParamSettleTime value s
  | .setParamEntryReserve value => Sys2Proof.Machine.execSetParamEntryReserve value s
  | .setParamDefaultRecipe lane value => Sys2Proof.Machine.execSetParamDefaultRecipe lane value s
  | .setParamBaudRate value => Sys2Proof.Machine.execSetParamBaudRate value s
  | .setParamInspectTimeout value => Sys2Proof.Machine.execSetParamInspectTimeout value s
  | .setParamTraverseSpeed value => Sys2Proof.Machine.execSetParamTraverseSpeed value s
  | .setParamAbortLevel value => Sys2Proof.Machine.execSetParamAbortLevel value s
  | .setParamSamplePeriod value => Sys2Proof.Machine.execSetParamSamplePeriod value s
  | .setParamStaleLimit value => Sys2Proof.Machine.execSetParamStaleLimit value s
  | .setParamAmbient value => Sys2Proof.Machine.execSetParamAmbient value s
  | .setParamClassLimits class5 class4 class3 class2 class1 => Sys2Proof.Machine.execSetParamClassLimits class5 class4 class3 class2 class1 s
  | .setParamGainEntry mass airflow value => Sys2Proof.Machine.execSetParamGainEntry mass airflow value s
  | .setParamReasonLevel reason value => Sys2Proof.Machine.execSetParamReasonLevel reason value s
  | .encoderCount lane sect level => Sys2Proof.Machine.execEncoderCount lane sect level s
  | .eyeEntry lane level => Sys2Proof.Machine.execEyeEntry lane level s
  | .eyeOven lane level => Sys2Proof.Machine.execEyeOven lane level s
  | .eyeUnload lane level => Sys2Proof.Machine.execEyeUnload lane level s
  | .settledEvent lane => Sys2Proof.Machine.execSettledEvent lane s
  | .flashClaimExpiry lane => Sys2Proof.Machine.execFlashClaimExpiry lane s
  | .divertPulseEnd lane gate => Sys2Proof.Machine.execDivertPulseEnd lane gate s
  | .inspectTrigPulseEnd lane => Sys2Proof.Machine.execInspectTrigPulseEnd lane s
  | .inspectTrigRecoveryEnd lane => Sys2Proof.Machine.execInspectTrigRecoveryEnd lane s
  | .inspectWindowExpiry handle => Sys2Proof.Machine.execInspectWindowExpiry handle s
  | .characterReceived start data stop => Sys2Proof.Machine.execCharacterReceived start data stop s
  | .breakEntry => Sys2Proof.Machine.execBreakEntry s
  | .breakEnd => Sys2Proof.Machine.execBreakEnd s
  | .lineQuiet => Sys2Proof.Machine.execLineQuiet s
  | .assemblerByteTake => Sys2Proof.Machine.execAssemblerByteTake s
  | .idRead => Sys2Proof.Machine.execIdRead s
  | .maskReport => Sys2Proof.Machine.execMaskReport s
  | .gantryTransferEnd => Sys2Proof.Machine.execGantryTransferEnd s
  | .moveDone lane level => Sys2Proof.Machine.execMoveDone lane level s
  | .durationExpiry lane => Sys2Proof.Machine.execDurationExpiry lane s
  | .moveTimeout lane => Sys2Proof.Machine.execMoveTimeout lane s
  | .gantryErr lane level => Sys2Proof.Machine.execGantryErr lane level s
  | .flowPulse lane level => Sys2Proof.Machine.execFlowPulse lane level s
  | .recoatExpiry lane => Sys2Proof.Machine.execRecoatExpiry lane s
  | .pollStart => Sys2Proof.Machine.execPollStart s
  | .pollCompletion replies => Sys2Proof.Machine.execPollCompletion replies s
  | .tachEdge zone level sample => Sys2Proof.Machine.execTachEdge zone level sample s
  | .stallWatchExpiry zone sample => Sys2Proof.Machine.execStallWatchExpiry zone sample s
  | .deviceReset cause => Sys2Proof.Machine.execDeviceReset cause s
  | .resetEnd => Sys2Proof.Machine.execResetEnd s
  | .tick => Sys2Proof.Machine.execTick s
  | .csnFallingEdge => Sys2Proof.Machine.execCsnFallingEdge s
  | .rxdEdge level => Sys2Proof.Machine.execRxdEdge level s

end Sys2Proof.Machine
end

