-- ==== Sys2Proof/Safety.lean ====
section
/-! DEFINITION. What a sound state is: the invariants that claims are stated in, each a property of one state, and
the words in which claims speak of a request's outcome. -/

namespace Sys2Proof.Machine

/-! ### Words for outcomes -/

/-- The request's response stands, waiting for completion (R176). -/
def State.withEffect (r : Response) (s : State) : State := { s with link := { s.link with effect := some r } }

/-- The request takes effect with status OK, leaving the state `t` and answering `data` (R178). -/
def Accepts (c : Instr) (s t : State) (data : List Byte) : Prop :=
  exec c s = .next (t.withEffect { status := .ok, data := data })

/-- The request is refused with a status and no data, and changes nothing (R178, R192). -/
def Refuses (c : Instr) (s : State) (st : Status) : Prop :=
  exec c s = .next (s.withEffect { status := st, data := [] })

/-- The part runs and the sample is a rising edge on a lane's input (R186, R187). -/
def State.edgeAt (s : State) (l : LaneNo) (k : LaneInput) : Prop :=
  s.inReset = false ∧ s.inputLevel l k = some false

/-- The command is a request row: it has a request buffer (R191). -/
def isRequest (c : Instr) : Bool := (encodeRequest c).isSome

/-- A request's outcome by its own rule, when it is in process: refused with a status, or accepted (R176, R178). A
parameter taken in CONFIG only is refused MODE in RUN; a value that is not valid is refused RANGE; any other is
accepted with the state `t` (R181). -/
def ParamRule (c : Instr) (s : State) (configOnly : Bool) (valid : Prop) (t : State) : Prop :=
  s.inProcess c = true →
    (configOnly = true ∧ s.mode = .run → Refuses c s .mode) ∧
    (¬(configOnly = true ∧ s.mode = .run) → (valid → Accepts c s t []) ∧ (¬valid → Refuses c s .range))

/-- The state with one recipe replaced. -/
def State.putRecipe (r : Nat) (x : Recipe) (s : State) : State := { s with recipes := s.recipes.setIfInBounds r x }

/-- Every part of the state but the record slots is as it was. -/
def State.sameButSlots (s t : State) : Prop := t = { s with slots := t.slots }

/-- Every record but one is as it was. -/
def State.othersKept (s t : State) (h : Nat) : Prop := ∀ k, k ≠ h → t.panel k = s.panel k

/-! ### The record store (R1, R5, R14, R35) -/

/-- How many live records name a recipe (R5, R35). -/
def State.naming (s : State) (r : Nat) : Nat :=
  s.slots.toList.countP fun o => (o.bind Panel.recipe) == some r

/-- The free list holds the handles of the FREE slots in ascending order (R1). -/
def State.freeListOk (s : State) : Prop :=
  s.freeList = (List.range 48).filter fun h => (s.panel h).isNone

/-- Each recipe's reference count is the number of live records naming it (R35). -/
def State.refsOk (s : State) : Prop :=
  ∀ r x, s.recipe r = some x → x.refs = s.naming r

/-- The ID map pairs every stored ID with its record's handle and maps no ID twice (R14). -/
def State.idMapOk (s : State) : Prop :=
  (s.idMap.map Prod.fst).Nodup ∧
  ∀ id h, (id, h) ∈ s.idMap ↔ ∃ p, s.panel h = some p ∧ p.id = some id

/-- The record store is in order: free list, reference counts and ID map (R1, R14, R35). -/
def State.storeOk (s : State) : Prop := s.freeListOk ∧ s.refsOk ∧ s.idMapOk

/-! ### Hold lists (R155, R164) -/

/-- The rank an entry in service was serviced at outranks another's (R164). -/
def servedAbove (low high : HoldEntry) : Prop :=
  ∀ a b, serviceRank low = some a → serviceRank high = some b → b.outranks a = true

/-- A hold list: at most 4 entries, distinct reasons, counts 1..15, and a service chain that rises strictly in
service rank (R155, R164). -/
def holdsOk (holds : List HoldEntry) : Prop :=
  holds.length ≤ 4 ∧ (holds.map HoldEntry.reason).Nodup ∧ (∀ e ∈ holds, 1 ≤ e.count ∧ e.count ≤ 15) ∧
  (serviceChain holds).Pairwise servedAbove

/-- Every live record's hold list is in order (R155, R164). -/
def State.holdListsOk (s : State) : Prop := ∀ h p, s.panel h = some p → holdsOk p.holds

/-! ### Booth channels and line modes (R116, R43, R47, R48) -/

/-- A channel that may have an order in hand (R116). -/
def ChannelState.mayHoldOrder : ChannelState → Bool
  | .coating | .aborting | .parking => true
  | _ => false

/-- A lane's channel: the record served and the BOOTH claim stand exactly while the channel is not IDLE, an order in
hand only in COATING, ABORTING or PARKING, and an order in flight is in hand (R116). -/
def State.boothLaneOk (s : State) (l : LaneNo) : Prop :=
  ((s.bch.get l).served.isSome = true ↔ (s.bch.get l).state ≠ .idle) ∧
  ((s.ltk.get l).boothClaim = true ↔ (s.bch.get l).state ≠ .idle) ∧
  ((s.bch.get l).order.isSome = true → (s.bch.get l).state.mayHoldOrder = true) ∧
  ((s.bch.get l).inFlight = true → (s.bch.get l).order.isSome = true)

/-- Both channels are in order (R116). -/
def State.boothOk (s : State) : Prop := ∀ l, s.boothLaneOk l

/-- A lane at rest in CONFIG: IDLE, queues empty, FLASH claim absent, quiet timer stopped, channel IDLE
(R47, R48, R61, R133). -/
def State.laneIdleOk (s : State) (l : LaneNo) : Prop :=
  (s.ltk.get l).state = .idle ∧ (s.ltk.get l).front = [] ∧ (s.ltk.get l).oven = [] ∧
  (s.ltk.get l).flashClaim = none ∧ (s.ltk.get l).quiet = none ∧ (s.bch.get l).state = .idle

/-- In CONFIG both lanes are at rest, and in RUN no lane is IDLE (R43, R47, R48). -/
def State.modeOk (s : State) : Prop :=
  (s.mode = .config → ∀ l, s.laneIdleOk l) ∧ (s.mode = .run → ∀ l, (s.ltk.get l).state ≠ .idle)

/-! ### Records and the lists they stand in (R6, R7, R47, R50, R84) -/

/-- The stages of a record on its lane's front queue (R6). -/
def Stage.onFront : Stage → Bool
  | .entered | .admitted | .inspecting | .verified | .spraying | .flashing | .passThrough => true
  | _ => false

/-- The stages of a record on its lane's oven queue (R6). -/
def Stage.onOven : Stage → Bool
  | .curing | .exited => true
  | _ => false

/-- The stages of a record that is off-lane (R6). -/
def Stage.offLane : Stage → Bool
  | .done | .parked | .reentering => true
  | _ => false

/-- A record's stage and its placement fields agree: place (R6, R7), inspect tag and flash end time (R7). -/
def placedRight (p : Panel) : Prop :=
  (p.place = none → p.stage.offLane = true) ∧
  (∀ pl, p.place = some pl → pl.pos ≤ 32767 ∧ (pl.sect = .front → p.stage.onFront = true) ∧
    (pl.sect = .oven → p.stage.onOven = true)) ∧
  (p.inspectTag.isSome = true ↔ p.stage = .inspecting) ∧ (p.flashEnd.isSome = true ↔ p.stage = .flashing)

/-- The record stands on a section of a lane (R7). -/
def standsOn (sec : LineSection) (l : LaneNo) (p : Panel) : Prop := p.lane = l ∧ p.place.map Place.sect = some sec

/-- The record of a lane is in a stage. -/
def staged (st : Stage) (l : LaneNo) (p : Panel) : Prop := p.lane = l ∧ p.stage = st

/-- A list of handles for each lane holds, each once, exactly the live records of a kind. -/
def State.lists (s : State) (f : LaneNo → List Nat) (kind : LaneNo → Panel → Prop) : Prop :=
  ∀ l, (f l).Nodup ∧ ∀ h, h ∈ f l ↔ ∃ p, s.panel h = some p ∧ kind l p

/-- No two records that a lane inspects share a tag (R84). -/
def State.tagsDistinct (s : State) : Prop :=
  ∀ h k p q, s.panel h = some p → s.panel k = some q → p.stage = .inspecting → q.stage = .inspecting →
    p.lane = q.lane → p.inspectTag = q.inspectTag → h = k

/-- A record served by its lane's channel is VERIFIED or SPRAYING on the front section, at or past BOOTH (R117,
R118). -/
def State.servedInBooth (s : State) : Prop :=
  ∀ l h, (s.bch.get l).served = some h → ∃ p pl, s.panel h = some p ∧ p.lane = l ∧ p.place = some pl ∧
    pl.sect = .front ∧ s.params.offset .booth ≤ pl.pos ∧ (p.stage = .verified ∨ p.stage = .spraying)

/-- A record INSPECTING has not reached DIVERT_A, where its window ends (R90). -/
def State.inspectedBeforeDivert (s : State) : Prop :=
  ∀ h p pl, s.panel h = some p → p.stage = .inspecting → p.place = some pl → pl.pos < s.params.offset .divertA

/-- The front stations of a line in RUN stand in the order that START_LINE checked (R46). -/
def State.stationsInOrder (s : State) : Prop :=
  s.mode = .run → s.params.offset .mask < s.params.offset .divertA ∧
    s.params.offset .divertA < s.params.offset .booth ∧ s.params.offset .booth < s.params.offset .divertB ∧
    s.params.offset .divertB + s.params.eyeTolerance < s.params.offset .transfer

/-- Out of reset, every record's stage agrees with its placement fields, each queue, re-entry list and inspecting list
holds exactly its records, each once, and the stations that keep this so stand in order (R6, R7, R46, R47, R50,
R84). -/
def State.lineOk (s : State) : Prop :=
  s.inReset = false →
    (∀ h p, s.panel h = some p → placedRight p) ∧
    s.lists (fun l => (s.ltk.get l).front) (standsOn .front) ∧
    s.lists (fun l => (s.ltk.get l).oven) (standsOn .oven) ∧
    s.lists (fun l => (s.ltk.get l).reentry) (staged .reentering) ∧
    s.lists (fun l => (s.mvf.get l).inspecting.map Window.handle) (staged .inspecting) ∧
    s.tagsDistinct ∧ s.servedInBooth ∧ s.inspectedBeforeDivert ∧ s.stationsInOrder

/-! ### Recipes and the path pool (R28, R30, R38, R40) -/

/-- A DEFINED pool entry: coordinates 0..600, speed 5..400, horizontal or vertical with its ends apart (R38). -/
def segmentOk (g : Segment) : Prop :=
  g.x0 ≤ 600 ∧ g.y0 ≤ 600 ∧ g.x1 ≤ 600 ∧ g.y1 ≤ 600 ∧ 5 ≤ g.speed ∧ g.speed ≤ 400 ∧
  ((g.y0 = g.y1 ∧ g.x0 ≠ g.x1) ∨ (g.x0 = g.x1 ∧ g.y0 ≠ g.y1))

/-- Both ends of a segment stay within 0..600 in every row of a program (R28, R40). -/
def rowsWithin (b : Body) (g : Segment) : Prop :=
  ∀ row : Nat, row < b.rows →
    0 ≤ (g.y0 : Int) + row * b.dy ∧ (g.y0 : Int) + row * b.dy ≤ 600 ∧
    0 ≤ (g.y1 : Int) + row * b.dy ∧ (g.y1 : Int) + row * b.dy ≤ 600

/-- A body names a run of at least one entry of the pool, each DEFINED, and its rows lie on the panel (R28, R40). -/
def State.bodyOk (s : State) (b : Body) : Prop :=
  1 ≤ b.segs ∧ b.base + b.segs ≤ 384 ∧ b.rotation < b.segs ∧ 1 ≤ b.rows ∧
  ∀ k, k < b.segs → ∃ g, s.pool[b.base + k]? = some (some g) ∧ rowsWithin b g

/-- A mask map in zone order, each zone 0..23 at most once (R30). -/
def mapOk (m : List MaskZone) : Prop := (m.map MaskZone.zone).Pairwise (· < ·) ∧ ∀ z ∈ m, z.zone ≤ 23

/-- Pool entries, bodies and mask maps are in order (R28, R30, R38, R40). -/
def State.recipesOk (s : State) : Prop :=
  (∀ (i : Nat) (g : Segment), s.pool[i]? = some (some g) → segmentOk g) ∧
  (∀ r x, s.recipe r = some x → mapOk x.map ∧ ∀ b, x.body = some b → s.bodyOk b)

/-! ### Capacities (R47, R50, R72, R87) -/

/-- Each list keeps its capacity: queues 24, re-entry lists 4, pulse backlogs 24, the receive FIFO 64. -/
def State.capacityOk (s : State) : Prop :=
  (∀ l, (s.ltk.get l).front.length ≤ 24 ∧ (s.ltk.get l).oven.length ≤ 24 ∧ (s.ltk.get l).reentry.length ≤ 4 ∧
    (s.mvf.get l).backlog ≤ 24) ∧
  s.slr.fifo.length ≤ 64

/-! ### The oven (R10, R136, R138, R144) -/

/-- A temperature in the range of R10 and R136, in tenths of a degree. -/
def tempOk (t : Int) : Prop := -400 ≤ t ∧ t ≤ 4000

/-- A zone entry within the values of R136: the state follows from the stale count and the stale limit, and the last
fan period is absent or 10 us to the stall time. Its last tachometer edge is no later than its last reading (R186). -/
def zoneOk (limit : Nat) (z : Zone) : Prop :=
  tempOk z.air ∧ z.stale ≤ limit ∧ (z.state = .valid ↔ z.stale = 0) ∧ (z.state = .invalid ↔ z.stale = limit) ∧
  z.airflow ≤ 5 ∧ (∀ d, z.period = some d → 1 ≤ d ∧ d ≤ stallTime) ∧
  (∀ e, z.lastEdge = some e → ∃ r, z.readAt = some r ∧ e ≤ r)

/-- Cure fields within the ranges of R10. -/
def cureOk (c : Cure) : Prop :=
  tempOk c.temp ∧ tempOk c.peak ∧ c.dose ≤ 4294967295 ∧ c.ovenTime ≤ 4294967295

/-- The oven's parameters, the zone table and every record's cure fields lie in their ranges (R10, R136, R137,
R144). -/
def State.ovenOk (s : State) : Prop :=
  (1 ≤ s.params.staleLimit ∧ s.params.staleLimit ≤ 5) ∧ (-400 ≤ s.params.ambient ∧ s.params.ambient ≤ 1000) ∧
  (∀ (i : Nat) (z : Zone), s.zones[i]? = some z → zoneOk s.params.staleLimit z) ∧
  (∀ h p c, s.panel h = some p → p.cure = some c → cureOk c)

end Sys2Proof.Machine
end

