-- ==== Sys2Proof/WellFormed.lean ====
section
/-! DEFINITION. Which terms of `Instr` stand for a command of the part: each operand of a request fits the field
of R191 that carries it, a frame is of its row's type (R173), and a window names a record slot (R1). -/

namespace Sys2Proof

/-- The value of a field of `n` unsigned bytes (R189). -/
def fitsU (n : Nat) (v : Nat) : Bool := v < 2 ^ (8 * n)

/-- The value of a field of `n` bytes marked "s": signed two's complement (R189). -/
def fitsS (n : Nat) (v : Int) : Bool := -(2 ^ (8 * n - 1) : Int) ≤ v && v < (2 ^ (8 * n - 1) : Int)

/-- The fields of DEFINE_RECIPE fit their byte counts (R191). -/
def RecipeFields.fits (f : RecipeFields) : Bool :=
  fitsU 1 f.coats && fitsU 1 f.massClass && fitsS 2 f.recoat && fitsS 2 f.flashMin && fitsU 2 f.flowRate &&
  fitsU 1 f.flowTol && fitsU 1 f.minorTol && fitsU 1 f.holdMask && fitsU 2 f.base && fitsU 1 f.segs &&
  fitsU 1 f.rows && fitsS 2 f.dy && fitsU 1 f.mode && fitsU 1 f.rotation && fitsU 1 f.reversal

/-- The fields of SET_CURE_PROFILE fit their byte counts (R191). -/
def CureFields.fits (f : CureFields) : Bool :=
  fitsS 2 f.tRef && fitsU 1 f.doubling && fitsS 2 f.tFloor && fitsU 4 f.target && fitsU 4 f.ceiling &&
  fitsS 2 f.minPeak && fitsS 2 f.peakLimit

/-- The term stands for a command of the part. -/
def Instr.wellFormed : Instr → Bool
  | .requestFrame bits => Machine.frameType bits == some 0x51
  | .fetchFrame bits => Machine.frameType bits == some 0x52
  | .ignoredFrame bits => Machine.frameType bits != some 0x51 && Machine.frameType bits != some 0x52
  | .processingComplete => true
  | .lineStatus => true
  | .startLine => true
  | .stopLine => true
  | .clearLane l => fitsU 1 l
  | .resetBooth l => fitsU 1 l
  | .resyncTag l => fitsU 1 l
  | .readZones => true
  | .defineRecipe r f => fitsU 1 r && f.fits
  | .setMaskZone r z c x0 y0 x1 y1 =>
      fitsU 1 r && fitsU 1 z && fitsU 1 c && fitsU 2 x0 && fitsU 2 y0 && fitsU 2 x1 && fitsU 2 y1
  | .clearMaskZone r z => fitsU 1 r && fitsU 1 z
  | .setCureProfile r f => fitsU 1 r && f.fits
  | .eraseRecipe r => fitsU 1 r
  | .readRecipe r p => fitsU 1 r && fitsU 1 p
  | .writeSegment i x0 y0 x1 y1 v valve =>
      fitsU 2 i && fitsU 2 x0 && fitsU 2 y0 && fitsU 2 x1 && fitsU 2 y1 && fitsU 2 v && fitsU 1 valve
  | .readSegment i => fitsU 2 i
  | .find id => id.length ≤ 248
  | .readPanel h p => fitsU 1 h && fitsU 1 p
  | .assignRecipe h r => fitsU 1 h && fitsU 1 r
  | .bindId h id => fitsU 1 h && id.length ≤ 247
  | .nextNotice => true
  | .retire h d => fitsU 1 h && fitsU 1 d
  | .hold h r => fitsU 1 h && fitsU 1 r
  | .service h r => fitsU 1 h && fitsU 1 r
  | .release h => fitsU 1 h
  | .waiveMask h => fitsU 1 h
  | .reenter h l p => fitsU 1 h && fitsU 1 l && fitsU 1 p
  | .withdraw h => fitsU 1 h
  | .setParamStationOffset _ v => fitsS 4 v
  | .setParamEyeTolerance v => fitsS 4 v
  | .setParamDivertPulse v => fitsS 4 v
  | .setParamMinimumGap v => fitsS 4 v
  | .setParamSettleTime v => fitsS 4 v
  | .setParamEntryReserve v => fitsS 4 v
  | .setParamDefaultRecipe l v => fitsU 1 l && fitsS 4 v
  | .setParamBaudRate v => fitsS 4 v
  | .setParamInspectTimeout v => fitsS 4 v
  | .setParamTraverseSpeed v => fitsS 4 v
  | .setParamAbortLevel v => fitsS 4 v
  | .setParamSamplePeriod v => fitsS 4 v
  | .setParamStaleLimit v => fitsS 4 v
  | .setParamAmbient v => fitsS 4 v
  | .setParamClassLimits a b c d e => fitsS 4 a && fitsS 4 b && fitsS 4 c && fitsS 4 d && fitsS 4 e
  | .setParamGainEntry m a v => fitsU 1 m && fitsU 1 a && fitsS 4 v
  | .setParamReasonLevel r v => fitsU 1 r && fitsS 4 v
  | .encoderCount _ _ _ => true
  | .eyeEntry _ _ => true
  | .eyeOven _ _ => true
  | .eyeUnload _ _ => true
  | .settledEvent _ => true
  | .flashClaimExpiry _ => true
  | .divertPulseEnd _ _ => true
  | .inspectTrigPulseEnd _ => true
  | .inspectTrigRecoveryEnd _ => true
  | .inspectWindowExpiry h => h < 48
  | .characterReceived _ _ _ => true
  | .breakEntry => true
  | .breakEnd => true
  | .lineQuiet => true
  | .assemblerByteTake => true
  | .idRead => true
  | .maskReport => true
  | .gantryTransferEnd => true
  | .moveDone _ _ => true
  | .durationExpiry _ => true
  | .moveTimeout _ => true
  | .gantryErr _ _ => true
  | .flowPulse _ _ => true
  | .recoatExpiry _ => true
  | .pollStart => true
  | .pollCompletion _ => true
  | .tachEdge _ _ _ => true
  | .stallWatchExpiry _ _ => true
  | .deviceReset _ => true
  | .resetEnd => true
  | .tick => true
  | .csnFallingEdge => true
  | .rxdEdge _ => true

end Sys2Proof
end

