-- ==== Sys2Proof/Certificates/Slice0/Obligations.lean ====
section
/-! DEFINITION. The statements for the provers. OBLIGATIONS.json lists them with their rules. -/

open Sys2Proof Sys2Proof.Machine

/-! ### The machine as a whole -/

/-- A step executes the command at the front of the queue on the state with the queue's rest; on an empty queue the
part idles. The model's own convention (log 1). -/
def Obligations.StepRunsFrontCommand : Prop :=
  (∀ (c : Instr) (rest : List Instr) (s : State),
    step { s with pending := c :: rest } = exec c { s with pending := rest }) ∧
  (∀ s : State, s.pending = [] → step s = .next s)

/-- No command stops the part, and no command changes the queue of the commands that wait behind it. The queue is
the model's own (log 1). -/
def Obligations.NothingStopsQueueKept : Prop :=
  ∀ (c : Instr) (s : State), ∃ t, exec c s = .next t ∧ t.pending = s.pending

/-- Every well-formed request is read back from the request buffer that carries it (R190, R191). -/
def Obligations.RequestRoundTrip : Prop :=
  ∀ (c : Instr) (b : RequestBuffer), c.wellFormed = true → encodeRequest c = some b → decodeRequest b = .request c

/-- While the part is in reset, no command but RESET_END and DEVICE_RESET changes anything except the levels of the
pins RXD and CS_N (R187; the pins are log 12's). -/
def Obligations.InResetNothingHappens : Prop :=
  ∀ (c : Instr) (s : State), s.inReset = true → c ≠ .resetEnd → (∀ cause, c ≠ .deviceReset cause) →
    ∃ (a b : Bool), exec c s = .next { s with slr := { s.slr with rxd := a }, link := { s.link with csn := b } }

/-! ### Invariants that every step keeps -/

/-- Every step keeps the record store in order: the free list, the reference counts and the ID map (R1, R14, R35). -/
def Obligations.StoreOrderKept : Prop := ∀ s t : State, s.storeOk → step s = .next t → t.storeOk

/-- Every step keeps every hold list in order, its service chain rising strictly in service rank (R155, R164). -/
def Obligations.HoldListsKept : Prop := ∀ s t : State, s.holdListsOk → step s = .next t → t.holdListsOk

/-- Every step keeps both booth channels in order: record served and BOOTH claim exactly outside IDLE (R116). -/
def Claims.BoothOrderKept : Prop := ∀ s t : State, s.boothOk → step s = .next t → t.boothOk

/-- Every step keeps the line mode and the lanes together: in CONFIG the lanes are IDLE with empty queues, in RUN no
lane is IDLE (R43, R47, R48). -/
def Claims.LineModeKept : Prop := ∀ s t : State, s.boothOk → s.modeOk → step s = .next t → t.modeOk

/-- Booth channels, line mode and lanes stay in order together (R43, R47, R48, R116). -/
def Obligations.BoothAndLineModeKept : Prop := Claims.BoothOrderKept ∧ Claims.LineModeKept

/-- Every step keeps four kinds of list within their capacities: section queues 24, re-entry lists 4, pulse backlogs
24, the receive FIFO 64 (R47, R50, R72, R87). -/
def Claims.ListCapacitiesKept : Prop := ∀ s t : State, s.capacityOk → step s = .next t → t.capacityOk

/-- Every step keeps the records and the lists they stand in agreed: each stage goes with its placement, inspect tag
and flash end time, and each section queue, re-entry list and inspecting list holds exactly its records, each once,
with distinct tags in an inspecting list (R6, R7, R47, R50, R84). -/
def Claims.LineKept : Prop :=
  ∀ s t : State, s.storeOk → s.boothOk → s.modeOk → s.lineOk → step s = .next t → t.lineOk

/-- With distinct tags an inspecting list holds at most 16 records (R84). -/
def Claims.InspectingAtMost16 : Prop :=
  ∀ (s : State) (l : LaneNo), s.lineOk → s.inReset = false → (s.mvf.get l).inspecting.length ≤ 16

/-- Section queues, re-entry lists, inspecting lists, pulse backlogs and the receive FIFO keep their capacities, and
the lists of records hold the records their stages name. Coat lists (R9) are not among them. -/
def Obligations.CapacitiesKept : Prop := Claims.ListCapacitiesKept ∧ Claims.LineKept ∧ Claims.InspectingAtMost16

/-- Every step keeps the zone table and all cure fields in their ranges (R10, R136, R146). -/
def Obligations.OvenRangesKept : Prop := ∀ s t : State, s.ovenOk → step s = .next t → t.ovenOk

/-- Every step keeps recipes and pool in order: every body names only DEFINED entries, and every row of its program
lies within 0..600 (R28, R30, R38, R40). -/
def Obligations.RecipesKept : Prop := ∀ s t : State, s.recipesOk → step s = .next t → t.recipesOk

/-- The state right after reset meets every invariant above. -/
def Obligations.ResetMeetsInvariants : Prop :=
  State.reset.storeOk ∧ State.reset.holdListsOk ∧ State.reset.boothOk ∧ State.reset.modeOk ∧
  State.reset.capacityOk ∧ State.reset.lineOk ∧ State.reset.ovenOk ∧ State.reset.recipesOk

/-- While a live record names a recipe, no command but RESET_END changes the recipe's parts or a pool segment in its
range (R35). -/
def Obligations.ReferencedRecipeUnchanged : Prop :=
  ∀ (c : Instr) (s t : State) (r : Nat) (x : Recipe), c ≠ .resetEnd → exec c s = .next t →
    s.recipe r = some x → 0 < x.refs →
    (∃ y, t.recipe r = some y ∧ y.body = x.body ∧ y.map = x.map ∧ y.cure = x.cure) ∧
    ∀ b, x.body = some b → ∀ i, b.base ≤ i → i < b.base + b.segs → t.pool[i]? = s.pool[i]?

/-- A record carrying a FIXED hold, and not DONE, leaves the store only by RETIRE with SCRAP or at device reset, and
until then it goes on carrying a FIXED hold and does not become DONE (R22, R167). RETIRE acts at its own command or at PROCESSING_COMPLETE
(log 4). -/
def Obligations.FixedHoldStays : Prop :=
  ∀ (c : Instr) (s t : State) (h : Nat) (p : Panel), s.storeOk → exec c s = .next t → c ≠ .resetEnd →
    s.panel h = some p → p.stage ≠ .done → (∃ e ∈ p.holds, e.reason.fixed = true) →
    (∃ q, t.panel h = some q ∧ q.stage ≠ .done ∧ ∃ e ∈ q.holds, e.reason.fixed = true) ∨
    c = .retire h 1 ∨
    (c = .processingComplete ∧ ∃ b, s.link.request = some b ∧ decodeRequest b = .request (.retire h 1))

/-- A live record's dose never decreases except at REENTER FROM_MASK or FROM_SPRAY (R148, R169). REENTER acts at its
own command or at PROCESSING_COMPLETE (log 4). -/
def Obligations.DoseNeverFalls : Prop :=
  ∀ (c : Instr) (s t : State) (h : Nat) (p q : Panel) (a : Cure), s.storeOk → s.ovenOk → exec c s = .next t →
    s.panel h = some p → t.panel h = some q → p.cure = some a →
    (∃ b, q.cure = some b ∧ a.dose ≤ b.dose) ∨
    ∃ lane point, point ≤ 1 ∧ (c = .reenter h lane point ∨
      (c = .processingComplete ∧ ∃ b, s.link.request = some b ∧ decodeRequest b = .request (.reenter h lane point)))

/-! ### Frames of the line link -/

/-- REQUEST_FRAME (R175) of the whole bytes 0x51 and `bytes`: accepted when the link was IDLE at the frame's start, the
length is 1..250 and all its bytes came; discarded otherwise. The bits sent are those of R173, and log 27's in a byte that is cut short. -/
def Obligations.RequestFrameTaken : Prop :=
  ∀ (s : State) (bits : List Bool) (bytes : List Byte), s.inReset = false → wholeBytes bits = 0x51 :: bytes →
    (∀ len code params, bytes = len :: code :: params → s.link.frame = some .idle → 1 ≤ len.toNat →
      len.toNat ≤ 250 → len.toNat - 1 ≤ params.length →
      exec (.requestFrame bits) s = .next { s with link := { s.link with
        state := .busy, request := some { code := code, params := params.take (len.toNat - 1) }, effect := none,
        frame := none, csn := true, miso := List.replicate bits.length false } }) ∧
    (∀ st, s.link.frame = some st → st ≠ .idle →
      exec (.requestFrame bits) s = .next { s with link := { s.link with
        frame := none, csn := true
        miso := bitsOf [linkStateByte st] ++ List.replicate (bits.length - 8) false } }) ∧
    (s.link.frame = some .idle →
      (bytes = [] ∨ ∃ len rest, bytes = len :: rest ∧
        (len.toNat = 0 ∨ 250 < len.toNat ∨ rest.length < len.toNat)) →
      exec (.requestFrame bits) s = .next { s with link := { s.link with
        frame := none, csn := true, miso := List.replicate bits.length false } })

/-- FETCH_FRAME (R177): in RESPONSE the state byte 0x02, the length byte, status and data go out, then 0x00; the
response is consumed exactly when every byte of it was clocked whole. In IDLE or BUSY only the state byte goes out. The bits sent in a byte
that is cut short are log 27's. -/
def Obligations.FetchFrameAnswers : Prop :=
  ∀ (s : State) (bits : List Bool) (rest : List Byte), s.inReset = false → wholeBytes bits = 0x52 :: rest →
    let n := bits.length
    let answer := fun r : Response => bitsOf (0x02 :: be8 (r.data.length + 1) :: statusCode r.status :: r.data)
    (∀ r, s.link.frame = some .response → s.link.response = some r → r.data.length + 2 ≤ rest.length →
      exec (.fetchFrame bits) s = .next { s with link := { s.link with
        state := .idle, response := none, frame := none, csn := true,
        miso := answer r ++ List.replicate (n - 8 * (r.data.length + 3)) false } }) ∧
    (∀ r, s.link.frame = some .response → s.link.response = some r → rest.length < r.data.length + 2 →
      exec (.fetchFrame bits) s = .next { s with link := { s.link with
        frame := none, csn := true, miso := (answer r).take n } }) ∧
    (∀ st, s.link.frame = some st → st ≠ .response →
      exec (.fetchFrame bits) s = .next { s with link := { s.link with
        frame := none, csn := true, miso := bitsOf [linkStateByte st] ++ List.replicate (n - 8) false } })

/-- The bytes of a frame (R173): eight bits make a byte, the first its most significant bit; bits after the last whole
byte are ignored; the bytes whose bits are sent are read back, whatever part of a byte follows. -/
def Claims.FrameBits : Prop :=
  (∀ (b7 b6 b5 b4 b3 b2 b1 b0 : Bool) (rest : List Bool), ∃ b : Byte,
    wholeBytes (b7 :: b6 :: b5 :: b4 :: b3 :: b2 :: b1 :: b0 :: rest) = b :: wholeBytes rest ∧
    b[7] = b7 ∧ b[6] = b6 ∧ b[5] = b5 ∧ b[4] = b4 ∧ b[3] = b3 ∧ b[2] = b2 ∧ b[1] = b1 ∧ b[0] = b0) ∧
  (∀ (b : Byte) (bytes : List Byte),
    bitsOf (b :: bytes) = b[7] :: b[6] :: b[5] :: b[4] :: b[3] :: b[2] :: b[1] :: b[0] :: bitsOf bytes) ∧
  (∀ (bytes : List Byte) (part : List Bool), part.length < 8 → wholeBytes (bitsOf bytes ++ part) = bytes)

/-- A fall of CS_N begins a frame with the link state as it stands; a frame of another type sends that state in its
first byte and changes nothing else (R173). The bytes it sends behind the first are log 30's free values, and their
counter, the model's own, goes on; a byte cut short by CS_N sends its first bits, log 27's. That bits without a frame
in progress only raise CS_N is log 22's. -/
def Claims.FrameBounds : Prop :=
  (∀ s : State, s.inReset = false → s.link.csn = true →
    exec .csnFallingEdge s = .next { s with link := { s.link with csn := false, frame := some s.link.state } }) ∧
  (∀ (s : State) (st : LinkState) (bits : List Bool), s.inReset = false → s.link.frame = some st →
    (wholeBytes bits = [] ∨ ∃ ty rest, wholeBytes bits = ty :: rest ∧ ty ≠ 0x51 ∧ ty ≠ 0x52) →
    exec (.ignoredFrame bits) s = .next { s with
      free := s.free + 1
      link := { s.link with
        frame := none, csn := true
        miso := (bitsOf (linkStateByte st ::
          (List.range (bits.length / 8)).map (Config.misoIgnored s.free))).take bits.length } }) ∧
  (∀ (s : State) (bits : List Bool), s.link.frame = none →
    ∀ c ∈ [Instr.requestFrame bits, .fetchFrame bits, .ignoredFrame bits],
      exec c s = .next { s with link := { s.link with csn := true } })

/-- Frames of the line link (R173): their bits, their bounds, and the frames of unknown type. -/
def Obligations.FrameStartsAndIgnored : Prop := Claims.FrameBits ∧ Claims.FrameBounds

/-- PROCESSING_COMPLETE (R176): the response goes to the response buffer and the link to RESPONSE; an unknown code or
a wrong length gives BAD_REQUEST, an unknown parameter RANGE (R181). A request that has not taken effect does so now
(log 4). That the request buffer is then empty is log 5's. -/
def Obligations.ProcessingCompletes : Prop :=
  ∀ s : State, s.inReset = false → s.link.state = .busy →
    (∀ r, s.link.effect = some r →
      exec .processingComplete s = .next { s with link := { s.link with
        state := .response, request := none, effect := none, response := some r } }) ∧
    (∀ b, s.link.effect = none → s.link.request = some b → decodeRequest b = .badRequest →
      exec .processingComplete s = .next { s with link := { s.link with
        state := .response, request := none, effect := none,
        response := some { status := .badRequest, data := [] } } }) ∧
    (∀ b, s.link.effect = none → s.link.request = some b → decodeRequest b = .badParameter →
      exec .processingComplete s = .next { s with link := { s.link with
        state := .response, request := none, effect := none,
        response := some { status := .range, data := [] } } }) ∧
    (∀ c u, s.inProcess c = true → exec c s = .next u →
      exec .processingComplete s = exec .processingComplete u)

/-! ### Requests -/

/-- A handle outside 0..47 or of a FREE slot is refused BAD_HANDLE by every request that carries one (R15). -/
def Claims.BadHandleRefused : Prop :=
  ∀ (s : State) (h a b : Nat) (id : PanelId) (c : Instr), s.panel h = none →
    c ∈ [.readPanel h a, .assignRecipe h a, .bindId h id, .retire h a, .hold h a, .service h a, .release h,
      .waiveMask h, .reenter h a b, .withdraw h] → s.inProcess c = true → Refuses c s .badHandle

/-- FIND (R16): RANGE for an ill-formed ID, the handle of the record that holds it, or NOT_FOUND; nothing changes. -/
def Claims.FindAnswers : Prop :=
  ∀ (s : State) (id : PanelId), s.idMapOk → s.inProcess (.find id) = true →
    (¬(1 ≤ id.length ∧ id.length ≤ 16 ∧ ∀ ch ∈ id, 0x21 ≤ ch.toNat ∧ ch.toNat ≤ 0x7E) →
      Refuses (.find id) s .range) ∧
    ((1 ≤ id.length ∧ id.length ≤ 16 ∧ ∀ ch ∈ id, 0x21 ≤ ch.toNat ∧ ch.toNat ≤ 0x7E) →
      (∀ h p, s.panel h = some p → p.id = some id → Accepts (.find id) s s [be8 h]) ∧
      ((∀ h p, s.panel h = some p → p.id ≠ some id) → Refuses (.find id) s .notFound))

/-- READ_SEGMENT, READ_RECIPE, READ_PANEL and READ_ZONES answer from the state as it stands and change nothing
(R17, R34, R41, R141); a number outside its range is refused RANGE. -/
def Claims.ReadsChangeNothing : Prop :=
  (∀ (s : State) (i : Nat), s.inProcess (.readSegment i) = true →
    (∀ o, s.pool[i]? = some o → Accepts (.readSegment i) s s (segmentBytes o)) ∧
    (384 ≤ i → Refuses (.readSegment i) s .range)) ∧
  (∀ (s : State) (r part : Nat), s.inProcess (.readRecipe r part) = true →
    (∀ x, s.recipe r = some x → part = 0 → Accepts (.readRecipe r part) s s (recipePart0 x)) ∧
    (∀ x, s.recipe r = some x → part = 1 → Accepts (.readRecipe r part) s s (recipePart1 x)) ∧
    (16 ≤ r ∨ 2 ≤ part → Refuses (.readRecipe r part) s .range)) ∧
  (∀ (s : State) (h part : Nat) (p : Panel), s.inProcess (.readPanel h part) = true → s.panel h = some p →
    (part ≤ 4 → ∃ data, s.panelPart h part p = some data ∧ Accepts (.readPanel h part) s s data) ∧
    (5 ≤ part → Refuses (.readPanel h part) s .range)) ∧
  (∀ s : State, s.inProcess .readZones = true →
    Accepts .readZones s s (s.zones.toList.flatMap fun z =>
      be16 z.air ++ [zoneStateCode z.state, be8 z.stale, be8 z.airflow, if z.running then 0 else 1] ++
      be16 (z.period.getD 0)))

/-- The requests that only read (R16, R17, R34, R41, R141). -/
def Obligations.ReadRequests : Prop := Claims.FindAnswers ∧ Claims.ReadsChangeNothing

/-- LINE_STATUS (R182): the line mode, lane states, channel states, free count and flags as read; the flags are
cleared and nothing else changes. -/
def Claims.LineStatusReadsAndClears : Prop :=
  ∀ s : State, s.inProcess .lineStatus = true →
    Accepts .lineStatus s
      { s with flags := { strayId := false, strayReport := false, linkError := false, zoneAlarm := false,
                          laneFault0 := false, laneFault1 := false } }
      [lineModeCode s.mode, laneStateCode s.ltk.zero.state, laneStateCode s.ltk.one.state,
       channelStateCode s.bch.zero.state, channelStateCode s.bch.one.state, be8 s.freeList.length,
       flagByte s.flags]

/-- The geometry of R46 and the tag spacing of R88. -/
def Claims.StartLineChecks : Prop :=
  ∀ s : State, s.inProcess .startLine = true →
    (s.mode = .run → Refuses .startLine s .mode) ∧
    (s.mode = .config →
      (startFailure s.params = none ↔
        (1 ≤ s.params.offset .idWindow ∧ s.params.offset .idWindow < s.params.offset .mask ∧
         s.params.offset .mask < s.params.offset .divertA ∧ s.params.offset .divertA < s.params.offset .booth ∧
         s.params.offset .booth < s.params.offset .divertB ∧
         s.params.offset .divertB < s.params.offset .flashApproach ∧
         s.params.offset .flashApproach + s.params.eyeTolerance < s.params.offset .transfer ∧
         s.params.offset .transfer + s.params.eyeTolerance ≤ 32766 ∧ 1 ≤ s.params.offset .zoneEnd1 ∧
         s.params.offset .zoneEnd1 < s.params.offset .zoneEnd2 ∧
         s.params.offset .zoneEnd2 < s.params.offset .zoneEnd3 ∧
         s.params.offset .zoneEnd3 < s.params.offset .zoneEnd4 ∧
         s.params.offset .zoneEnd4 < s.params.offset .zoneEnd5 ∧
         s.params.offset .zoneEnd5 < s.params.offset .zoneEnd6 ∧
         s.params.offset .zoneEnd6 + s.params.eyeTolerance < s.params.offset .unload ∧
         s.params.offset .unload + s.params.eyeTolerance ≤ 32766 ∧
         (s.params.offset .divertA - s.params.offset .mask) / max 1 s.params.minimumGap < 16)) ∧
      (startFailure s.params = none →
        Accepts .startLine s
          { s with mode := .run, ltk := { zero := { s.ltk.zero with state := .tracking },
                                          one := { s.ltk.one with state := .tracking } } } []) ∧
      (∀ ident, startFailure s.params = some ident →
        exec .startLine s = .next (s.withEffect { status := .range, data := [be8 ident] })))

/-- STOP_LINE (R180). -/
def Claims.StopLineRule : Prop :=
  ∀ s : State, s.inProcess .stopLine = true →
    (s.mode = .config → Refuses .stopLine s .mode) ∧
    (s.mode = .run →
      (∀ l, (s.ltk.get l).front = [] ∧ (s.ltk.get l).oven = [] ∧ (s.bch.get l).state = .idle) →
      Accepts .stopLine s
        { s with
          mode := .config
          ltk := { zero := { s.ltk.zero with state := .idle, flashClaim := none, quiet := none },
                   one := { s.ltk.one with state := .idle, flashClaim := none, quiet := none } } } []) ∧
    (s.mode = .run →
      (∃ l, (s.ltk.get l).front ≠ [] ∨ (s.ltk.get l).oven ≠ [] ∨ (s.bch.get l).state ≠ .idle) →
      Refuses .stopLine s .badState)

/-- START_LINE (R46, R88, R179) and STOP_LINE (R180). -/
def Obligations.StartAndStop : Prop := Claims.StartLineChecks ∧ Claims.StopLineRule

/-- CLEAR_LANE (R68): every queued record is PARKED off-lane with notice DIVERTED, the inspecting list is emptied,
the channel is IDLE with the gantry at (0,0), claims go, the lane is TRACKING; every other record is kept. -/
def Obligations.ClearLaneRule : Prop :=
  ∀ (s : State) (lane : Nat), s.inProcess (.clearLane lane) = true →
    (2 ≤ lane → Refuses (.clearLane lane) s .range) ∧
    (∀ l, laneOfNat lane = some l → (s.ltk.get l).state ≠ .fault → Refuses (.clearLane lane) s .badState) ∧
    (∀ l, laneOfNat lane = some l → (s.ltk.get l).state = .fault → s.boothLaneOk l →
      ∃ t, Accepts (.clearLane lane) s t [] ∧
        t = { s with slots := t.slots, ltk := t.ltk, mvf := t.mvf, pgn := t.pgn, bch := t.bch } ∧
        t.ltk.get l = { s.ltk.get l with
          state := .tracking, front := [], oven := [], boothClaim := false, flashClaim := none } ∧
        t.mvf.get l = { s.mvf.get l with inspecting := [] } ∧
        (t.bch.get l).state = .idle ∧ (t.bch.get l).served = none ∧ (t.bch.get l).order = none ∧
        (t.pgn.get l).state = .idle ∧ (t.pgn.get l).record = none ∧ (t.pgn.get l).pos = { x := 0, y := 0 } ∧
        (t.ltk.get (otherLane l) = s.ltk.get (otherLane l) ∧ t.mvf.get (otherLane l) = s.mvf.get (otherLane l) ∧
         t.bch.get (otherLane l) = s.bch.get (otherLane l) ∧ t.pgn.get (otherLane l) = s.pgn.get (otherLane l)) ∧
        (∀ h p, s.panel h = some p → h ∈ (s.ltk.get l).front ++ (s.ltk.get l).oven →
          ∃ tag, t.panel h = some { p with
            stage := .parked, place := none, flashEnd := none, resume := none, inspectTag := tag,
            notices := { p.notices with diverted := true } } ∧
          tag = (if h ∈ ((s.mvf.get l).inspecting.map Window.handle) then none else p.inspectTag)) ∧
        (∀ h, h ∉ (s.ltk.get l).front ++ (s.ltk.get l).oven →
          h ∉ (s.mvf.get l).inspecting.map Window.handle → t.panel h = s.panel h))

/-- RESET_BOOTH (R131): RANGE, BAD_STATE outside FAULT, or the channel to IDLE with claim and record gone and the
tracked position at (0,0). -/
def Claims.ResetBoothRule : Prop :=
  ∀ (s : State) (lane : Nat), s.inProcess (.resetBooth lane) = true →
    (2 ≤ lane → Refuses (.resetBooth lane) s .range) ∧
    (∀ l, laneOfNat lane = some l → (s.bch.get l).state ≠ .fault → Refuses (.resetBooth lane) s .badState) ∧
    (∀ l, laneOfNat lane = some l → (s.bch.get l).state = .fault →
      ∃ t, Accepts (.resetBooth lane) s t [] ∧ t = { s with ltk := t.ltk, bch := t.bch, pgn := t.pgn } ∧
        t.ltk.get l = { s.ltk.get l with boothClaim := false } ∧
        (t.bch.get l).state = .idle ∧ (t.bch.get l).served = none ∧
        t.pgn.get l = { s.pgn.get l with pos := { x := 0, y := 0 } } ∧
        t.ltk.get (otherLane l) = s.ltk.get (otherLane l) ∧ t.bch.get (otherLane l) = s.bch.get (otherLane l) ∧
        t.pgn.get (otherLane l) = s.pgn.get (otherLane l))

/-- RESYNC_TAG (R97): RANGE, BAD_STATE with records in the inspecting list, or the lane's tag counter to 0. -/
def Claims.ResyncTagRule : Prop :=
  ∀ (s : State) (lane : Nat), s.inProcess (.resyncTag lane) = true →
    (2 ≤ lane → Refuses (.resyncTag lane) s .range) ∧
    (∀ l, laneOfNat lane = some l → (s.mvf.get l).inspecting ≠ [] → Refuses (.resyncTag lane) s .badState) ∧
    (∀ l, laneOfNat lane = some l → (s.mvf.get l).inspecting = [] →
      Accepts (.resyncTag lane) s (s.modMvf l fun m => { m with tag := 0 }) [])

/-- RESET_BOOTH (R131) and RESYNC_TAG (R97). -/
def Obligations.ResetBoothAndResync : Prop := Claims.ResetBoothRule ∧ Claims.ResyncTagRule

/-- The five requests that change a recipe make the checks of R26 first: RANGE for a number above 15, IN_USE while a
live record names the recipe. -/
def Claims.RecipeGuards : Prop :=
  ∀ (s : State) (r zone crit x0 y0 x1 y1 : Nat) (f : RecipeFields) (g : CureFields) (c : Instr),
    c ∈ [.defineRecipe r f, .setMaskZone r zone crit x0 y0 x1 y1, .clearMaskZone r zone, .setCureProfile r g,
      .eraseRecipe r] → s.inProcess c = true →
    (16 ≤ r → Refuses c s .range) ∧ (∀ x, s.recipe r = some x → 0 < x.refs → Refuses c s .inUse)

/-- The checks that requests share: the handle of R15, and recipe number and reference count of R26. -/
def Obligations.SharedRefusals : Prop := Claims.BadHandleRefused ∧ Claims.RecipeGuards

/-- DEFINE_RECIPE of a free recipe (R27, R28): with every field in its range, every pool entry of the run DEFINED and
every row on the panel, the whole body is replaced; otherwise RANGE. -/
def Obligations.DefineRecipeRule : Prop :=
  ∀ (s : State) (r : Nat) (f : RecipeFields) (x : Recipe), s.inProcess (.defineRecipe r f) = true →
    s.recipe r = some x → x.refs = 0 →
    let ok :=
      (1 ≤ f.coats ∧ f.coats ≤ 3 ∧ f.massClass ≤ 3 ∧ 0 ≤ f.recoat ∧ f.recoat ≤ 300 ∧ 0 ≤ f.flashMin ∧
        f.flashMin ≤ 900 ∧ 10 ≤ f.flowRate ∧ f.flowRate ≤ 5000 ∧ 1 ≤ f.flowTol ∧ f.flowTol ≤ 50 ∧
        f.minorTol ≤ 7 ∧ f.holdMask ≤ 15) ∧
      (f.base ≤ 383 ∧ 1 ≤ f.segs ∧ f.segs ≤ 32 ∧ 1 ≤ f.rows ∧ f.rows ≤ 64 ∧ -200 ≤ f.dy ∧ f.dy ≤ 200 ∧
        f.mode ≤ 1 ∧ f.rotation ≤ f.segs - 1 ∧ f.reversal ≤ 1 ∧ f.base + f.segs - 1 ≤ 383) ∧
      (∀ k, k < f.segs → ∃ g : Segment, s.pool[f.base + k]? = some (some g) ∧
        0 ≤ (g.y0 : Int) + ((f.rows : Int) - 1) * f.dy ∧ (g.y0 : Int) + ((f.rows : Int) - 1) * f.dy ≤ 600 ∧
        0 ≤ (g.y1 : Int) + ((f.rows : Int) - 1) * f.dy ∧ (g.y1 : Int) + ((f.rows : Int) - 1) * f.dy ≤ 600)
    let body : Body :=
      { coats := f.coats, massClass := f.massClass, recoat := f.recoat.toNat, flashMin := f.flashMin.toNat,
        flowRate := f.flowRate, flowTol := f.flowTol, minorTol := f.minorTol,
        holdMask := { maskExcess := f.holdMask.testBit 0, coatVolume := f.holdMask.testBit 1,
                      spacing := f.holdMask.testBit 2, noId := f.holdMask.testBit 3 },
        base := f.base, segs := f.segs, rows := f.rows, dy := f.dy, serpentine := f.mode == 1,
        rotation := f.rotation, reversal := f.reversal == 1 }
    (ok → Accepts (.defineRecipe r f) s (s.putRecipe r { x with body := some body }) []) ∧
    (¬ok → Refuses (.defineRecipe r f) s .range)

/-- SET_MASK_ZONE, CLEAR_MASK_ZONE, SET_CURE_PROFILE and ERASE_RECIPE of a free recipe (R30 to R33). -/
def Obligations.RecipePartEdits : Prop :=
  ∀ (s : State) (r : Nat) (x : Recipe), s.recipe r = some x → x.refs = 0 →
    (∀ zone crit x0 y0 x1 y1, s.inProcess (.setMaskZone r zone crit x0 y0 x1 y1) = true →
      ((zone ≤ 23 ∧ crit ≤ 1 ∧ x0 ≤ 600 ∧ y0 ≤ 600 ∧ x1 ≤ 600 ∧ y1 ≤ 600 ∧ x0 ≤ x1 ∧ y0 ≤ y1) → mapOk x.map →
        ∃ m, Accepts (.setMaskZone r zone crit x0 y0 x1 y1) s
            (s.putRecipe r { x with map := m }) [] ∧ mapOk m ∧
          ∀ z, z ∈ m ↔ (z = { zone := zone, critical := crit == 0, x0 := x0, y0 := y0, x1 := x1, y1 := y1 } ∨
            (z ∈ x.map ∧ z.zone ≠ zone))) ∧
      (¬(zone ≤ 23 ∧ crit ≤ 1 ∧ x0 ≤ 600 ∧ y0 ≤ 600 ∧ x1 ≤ 600 ∧ y1 ≤ 600 ∧ x0 ≤ x1 ∧ y0 ≤ y1) →
        Refuses (.setMaskZone r zone crit x0 y0 x1 y1) s .range)) ∧
    (∀ zone, s.inProcess (.clearMaskZone r zone) = true →
      (24 ≤ zone → Refuses (.clearMaskZone r zone) s .range) ∧
      (zone ≤ 23 → (∀ z ∈ x.map, z.zone ≠ zone) → Refuses (.clearMaskZone r zone) s .notFound) ∧
      (zone ≤ 23 → (∃ z ∈ x.map, z.zone = zone) →
        Accepts (.clearMaskZone r zone) s
          (s.putRecipe r { x with map := x.map.filter fun z => z.zone != zone }) [])) ∧
    (∀ f : CureFields, s.inProcess (.setCureProfile r f) = true →
      let ok := 500 ≤ f.tRef ∧ f.tRef ≤ 2500 ∧ 4 ≤ f.doubling ∧ f.doubling ≤ 20 ∧
        f.tRef - 80 * (f.doubling : Int) ≤ f.tFloor ∧ f.tFloor ≤ f.tRef ∧ 1 ≤ f.target ∧ f.target ≤ 2000000000 ∧
        f.target < f.ceiling ∧ f.ceiling ≤ 4294967295 ∧ -400 ≤ f.minPeak ∧ f.minPeak ≤ 3500 ∧
        -400 ≤ f.peakLimit ∧ f.peakLimit ≤ 3500 ∧ f.minPeak ≤ f.peakLimit
      let prof : CureProfile :=
        { tRef := f.tRef, doubling := f.doubling, tFloor := f.tFloor, target := f.target, ceiling := f.ceiling,
          minPeak := f.minPeak, peakLimit := f.peakLimit }
      (ok → Accepts (.setCureProfile r f) s (s.putRecipe r { x with cure := some prof }) []) ∧
      (¬ok → Refuses (.setCureProfile r f) s .range)) ∧
    (s.inProcess (.eraseRecipe r) = true →
      Accepts (.eraseRecipe r) s (s.putRecipe r { x with body := none, map := [], cure := none }) [])

/-- WRITE_SEGMENT (R39, R40): its five checks, and the whole entry replaced. -/
def Obligations.WriteSegmentRule : Prop :=
  ∀ (s : State) (i x0 y0 x1 y1 v o : Nat), s.inProcess (.writeSegment i x0 y0 x1 y1 v o) = true →
    let fields := i ≤ 383 ∧ x0 ≤ 600 ∧ y0 ≤ 600 ∧ x1 ≤ 600 ∧ y1 ≤ 600 ∧ 5 ≤ v ∧ v ≤ 400 ∧ o ≤ 1 ∧
      ((y0 = y1 ∧ x0 ≠ x1) ∨ (x0 = x1 ∧ y0 ≠ y1))
    let used := ∃ r x b, s.recipe r = some x ∧ 0 < x.refs ∧ x.body = some b ∧ b.base ≤ i ∧ i ≤ b.base + b.segs - 1
    let keeps := ∀ r x b, s.recipe r = some x → x.body = some b → b.base ≤ i → i ≤ b.base + b.segs - 1 →
      0 ≤ (y0 : Int) + ((b.rows : Int) - 1) * b.dy ∧ (y0 : Int) + ((b.rows : Int) - 1) * b.dy ≤ 600 ∧
      0 ≤ (y1 : Int) + ((b.rows : Int) - 1) * b.dy ∧ (y1 : Int) + ((b.rows : Int) - 1) * b.dy ≤ 600
    let entry : Segment := { x0 := x0, y0 := y0, x1 := x1, y1 := y1, speed := v, valveOpen := o == 1 }
    (¬fields → Refuses (.writeSegment i x0 y0 x1 y1 v o) s .range) ∧
    (fields → used → Refuses (.writeSegment i x0 y0 x1 y1 v o) s .inUse) ∧
    (fields → ¬used → ¬keeps → Refuses (.writeSegment i x0 y0 x1 y1 v o) s .range) ∧
    (fields → ¬used → keeps → Accepts (.writeSegment i x0 y0 x1 y1 v o) s
      { s with pool := s.pool.setIfInBounds i (some entry) } [])

/-- ASSIGN_RECIPE of a live record (R18): its three checks in order; a different recipe makes the mask result absent
and moves the reference counts, the same one changes nothing (R5, R8). -/
def Claims.AssignRecipeRule : Prop :=
  ∀ (s : State) (h r : Nat) (p : Panel), s.inProcess (.assignRecipe h r) = true → s.panel h = some p →
    let stageOk := p.stage = .entered ∨ p.stage = .admitted ∨ p.stage = .parked
    (¬stageOk → Refuses (.assignRecipe h r) s .badState) ∧
    (stageOk → (∀ x, s.recipe r = some x → x.body = none ∨ x.cure = none) → Refuses (.assignRecipe h r) s .range) ∧
    (∀ x b, stageOk → s.recipe r = some x → x.body = some b → x.cure.isSome = true →
      let tooMany := p.stage ≠ .parked ∧ p.resume ≠ some .fromOven ∧ 3 < p.coatsApplied + b.coats
      (tooMany → Refuses (.assignRecipe h r) s .coatLimit) ∧
      (¬tooMany → p.recipe = some r → Accepts (.assignRecipe h r) s s []) ∧
      (¬tooMany → p.recipe ≠ some r → ∃ t, Accepts (.assignRecipe h r) s t [] ∧
        t = { s with slots := t.slots, recipes := t.recipes } ∧
        t.panel h = some { p with recipe := some r, mask := none } ∧ s.othersKept t h ∧
        ∀ k y, s.recipe k = some y → ∃ n, t.recipe k = some { y with refs := n } ∧
          n = (if k = r then y.refs + 1 else if p.recipe = some k then y.refs - 1 else y.refs)))

/-- BIND_ID of a live record (R20): its checks in order, and the ID stored and mapped. -/
def Claims.BindIdRule : Prop :=
  ∀ (s : State) (h : Nat) (id : PanelId) (p : Panel), s.idMapOk → s.inProcess (.bindId h id) = true →
    s.panel h = some p →
    let idRight := 1 ≤ id.length ∧ id.length ≤ 16 ∧ ∀ ch ∈ id, 0x21 ≤ ch.toNat ∧ ch.toNat ≤ 0x7E
    let stageOk := p.stage = .entered ∨ p.stage = .admitted ∨ p.stage = .parked
    let mapped := ∃ k q, s.panel k = some q ∧ q.id = some id
    (¬idRight → Refuses (.bindId h id) s .range) ∧
    (idRight → ¬(stageOk ∧ p.id = none) → Refuses (.bindId h id) s .badState) ∧
    (idRight → stageOk → p.id = none → mapped → Refuses (.bindId h id) s .inUse) ∧
    (idRight → stageOk → p.id = none → ¬mapped →
      ∃ t, Accepts (.bindId h id) s t [] ∧ t = { s with slots := t.slots, idMap := t.idMap } ∧
        t.panel h = some { p with id := some id } ∧ s.othersKept t h ∧ t.idMap = s.idMap ++ [(id, h)])

/-- ASSIGN_RECIPE (R18) and BIND_ID (R20). -/
def Obligations.AssignAndBind : Prop := Claims.AssignRecipeRule ∧ Claims.BindIdRule

/-- NEXT_NOTICE (R21): the lowest handle with a non-empty notice set, which is emptied; NOT_FOUND when every set is
empty. -/
def Claims.NextNoticeRule : Prop :=
  ∀ s : State, s.inProcess .nextNotice = true →
    ((∀ h p, s.panel h = some p → p.notices.any = false) → Refuses .nextNotice s .notFound) ∧
    (∀ h p, s.panel h = some p → p.notices.any = true →
      (∀ k q, k < h → s.panel k = some q → q.notices.any = false) →
      ∃ t, Accepts .nextNotice s t [be8 h, noticeByte p.notices] ∧ s.sameButSlots t ∧
        t.panel h = some { p with notices := noNotices } ∧ s.othersKept t h)

/-- LINE_STATUS (R182) and NEXT_NOTICE (R21). -/
def Obligations.StatusAndNotices : Prop := Claims.LineStatusReadsAndClears ∧ Claims.NextNoticeRule

/-- RETIRE of a live record (R22, R23): its checks in order; an accepted one frees the slot, its handle, which takes its
ascending place in the free list, and its map entry, and lowers the count of its recipe. -/
def Obligations.RetireRule : Prop :=
  ∀ (s : State) (h d : Nat) (p : Panel), s.inProcess (.retire h d) = true → s.panel h = some p →
    let allowed := (p.stage = .done ∧ d = 0) ∨ p.stage = .parked
    let held := p.stage = .parked ∧ d = 0 ∧ p.holds ≠ []
    (2 ≤ d → Refuses (.retire h d) s .range) ∧
    (d ≤ 1 → ¬allowed → Refuses (.retire h d) s .badState) ∧
    (d ≤ 1 → held → Refuses (.retire h d) s .held) ∧
    (d ≤ 1 → allowed → ¬held →
      ∃ t, Accepts (.retire h d) s t [] ∧
        t = { s with slots := t.slots, freeList := t.freeList, idMap := t.idMap, recipes := t.recipes } ∧
        t.panel h = none ∧ s.othersKept t h ∧ (∀ k, k ∈ t.freeList ↔ k = h ∨ k ∈ s.freeList) ∧
        t.freeCount = s.freeCount + 1 ∧ (s.freeListOk → t.freeListOk) ∧
        t.idMap = (s.idMap.filter fun e => e.2 != h) ∧
        ∀ k y, s.recipe k = some y → ∃ n, t.recipe k = some { y with refs := n } ∧
          n = (if p.recipe = some k then y.refs - 1 else y.refs))

/-- HOLD of a live record (R162): only HOST_QA; raised under R159 and R160, with its outcome reported. -/
def Obligations.HoldRule : Prop :=
  ∀ (s : State) (h reason : Nat) (p : Panel), s.inProcess (.hold h reason) = true → s.panel h = some p →
    (reason ≠ 17 → Refuses (.hold h reason) s .range) ∧
    (reason = 17 →
      ((∃ e ∈ p.holds, e.reason = .hostQa) → Accepts (.hold h reason) s (s.raise .hostQa h) [1, 0]) ∧
      ((∀ e ∈ p.holds, e.reason ≠ .hostQa) → p.holds.length < 4 →
        Accepts (.hold h reason) s (s.raise .hostQa h) [0, 0]) ∧
      (∀ low, (∀ e ∈ p.holds, e.reason ≠ .hostQa) → 4 ≤ p.holds.length →
        lowestPending s.params (s.holdMaskOf p) p.holds = some low →
        (rankOf s.params (s.holdMaskOf p) .hostQa).outranks (rankOf s.params (s.holdMaskOf p) low.reason) = true →
        Accepts (.hold h reason) s (s.raise .hostQa h) [2, be8 low.reason.code]) ∧
      ((∀ e ∈ p.holds, e.reason ≠ .hostQa) → 4 ≤ p.holds.length →
        (∀ low, lowestPending s.params (s.holdMaskOf p) p.holds = some low →
          (rankOf s.params (s.holdMaskOf p) .hostQa).outranks (rankOf s.params (s.holdMaskOf p) low.reason) = false) →
        Accepts (.hold h reason) s (s.raise .hostQa h) [3, 0]))

/-- SERVICE of a live record (R165): its checks in order; the entry becomes IN_SERVICE with its live rank recorded
and is the top of the chain, its count kept. -/
def Claims.ServiceRule : Prop :=
  ∀ (s : State) (h reason : Nat) (p : Panel), s.inProcess (.service h reason) = true → s.panel h = some p →
    (reasonOfCode reason = none → Refuses (.service h reason) s .range) ∧
    (∀ r, reasonOfCode reason = some r →
      let rank := rankOf s.params (s.holdMaskOf p) r
      let first := ∃ e ∈ p.holds, e.reason = r ∧ e.state = .pending ∧
        ∀ x ∈ p.holds, x.state = .pending → x.reason ≠ r →
          rank.outranks (rankOf s.params (s.holdMaskOf p) x.reason) = true
      let above := ∀ top k, (serviceChain p.holds).getLast? = some top → top.state = .inService k →
        rank.outranks k = true
      (p.stage ≠ .parked → Refuses (.service h reason) s .badState) ∧
      (p.stage = .parked → (∀ e ∈ p.holds, e.reason ≠ r) → Refuses (.service h reason) s .notFound) ∧
      (p.stage = .parked → holdsOk p.holds → (∃ e ∈ p.holds, e.reason = r) → ¬(first ∧ above) →
        Refuses (.service h reason) s .notGoverning) ∧
      (∀ e, p.stage = .parked → holdsOk p.holds → e ∈ p.holds → e.reason = r → first → above →
        ∃ t q, Accepts (.service h reason) s t [] ∧ s.sameButSlots t ∧ s.othersKept t h ∧
          t.panel h = some { p with holds := q } ∧
          serviceChain q = serviceChain p.holds ++ [{ e with state := .inService rank }] ∧
          ∀ x, x ∈ q ↔ (x ∈ p.holds ∧ x.reason ≠ r) ∨ x = { e with state := .inService rank }))

/-- RELEASE of a live record (R166): its checks in order; the top of the chain leaves the list. -/
def Claims.ReleaseRule : Prop :=
  ∀ (s : State) (h : Nat) (p : Panel), s.inProcess (.release h) = true → s.panel h = some p →
    (p.stage ≠ .parked → Refuses (.release h) s .badState) ∧
    (p.stage = .parked → serviceChain p.holds = [] → Refuses (.release h) s .badState) ∧
    (∀ top, p.stage = .parked → (serviceChain p.holds).getLast? = some top → top.reason.fixed = true →
      Refuses (.release h) s .fixedHold) ∧
    (∀ top, p.stage = .parked → (serviceChain p.holds).getLast? = some top → top.reason.fixed = false →
      ∃ t, Accepts (.release h) s t [be8 top.reason.code] ∧ s.sameButSlots t ∧ s.othersKept t h ∧
        t.panel h = some { p with holds := p.holds.filter fun e => e.reason != top.reason })

/-- SERVICE (R165) and RELEASE (R166). -/
def Obligations.ServiceAndRelease : Prop := Claims.ServiceRule ∧ Claims.ReleaseRule

/-- WAIVE_MASK of a live record (R98): its three checks; the verdict becomes WAIVED and the guard set every zone of
the defect list. -/
def Claims.WaiveMaskRule : Prop :=
  ∀ (s : State) (h : Nat) (p : Panel), s.inProcess (.waiveMask h) = true → s.panel h = some p →
    let waivable := fun m : MaskResult => p.stage = .parked ∧ m.verdict = .failed ∧
      ∀ d ∈ m.defects, ∀ z ∈ s.maskMapOf p, z.zone = d.1 → z.critical = false
    (p.mask = none → Refuses (.waiveMask h) s .badState) ∧
    (∀ m, p.mask = some m → ¬waivable m → Refuses (.waiveMask h) s .badState) ∧
    (∀ m, p.mask = some m → waivable m →
      ∃ t, Accepts (.waiveMask h) s t [] ∧ s.sameButSlots t ∧ s.othersKept t h ∧
        t.panel h = some { p with mask := some ⟨.waived, m.defects, m.defects.map Prod.fst⟩ })

/-- REENTER of a live record (R168, R169): its eight checks in order, and the record in the named lane's re-entry
list with its process fields reset by the resume point. -/
def Obligations.ReenterRule : Prop :=
  ∀ (s : State) (h lane point : Nat) (p : Panel), s.inProcess (.reenter h lane point) = true → s.panel h = some p →
    (2 ≤ lane ∨ 3 ≤ point → Refuses (.reenter h lane point) s .range) ∧
    (∀ l rp, laneOfNat lane = some l → resumeOfCode point = some rp →
      let free := ∀ e ∈ p.holds, (s.holdMaskOf p).covers e.reason = true ∧ e.state = .pending
      let ready := (rp = .fromSpray → ∃ m, p.mask = some m ∧ m.verdict ≠ .failed) ∧
        (rp = .fromOven → 1 ≤ p.coatsApplied)
      (p.stage ≠ .parked → Refuses (.reenter h lane point) s .badState) ∧
      (p.stage = .parked → ¬free → Refuses (.reenter h lane point) s .held) ∧
      (p.stage = .parked → free → 3 ≤ p.rework → Refuses (.reenter h lane point) s .reworkLimit) ∧
      (p.stage = .parked → free → p.rework < 3 → p.recipe = none ∨ ¬ready →
        Refuses (.reenter h lane point) s .badState) ∧
      (∀ b, p.stage = .parked → free → p.rework < 3 → ready → s.bodyOf p = some b →
        let tooMany := rp ≠ .fromOven ∧ 3 < p.coatsApplied + b.coats
        (tooMany → Refuses (.reenter h lane point) s .coatLimit) ∧
        (¬tooMany → 4 ≤ (s.ltk.get l).reentry.length → Refuses (.reenter h lane point) s .full) ∧
        (¬tooMany → (s.ltk.get l).reentry.length < 4 →
          ∃ t, Accepts (.reenter h lane point) s t [] ∧ t = { s with slots := t.slots, ltk := t.ltk } ∧
            s.othersKept t h ∧
            t.ltk = (s.modLtk l fun k => { k with reentry := k.reentry ++ [h] }).ltk ∧
            t.panel h = some { p with
              rework := p.rework + 1, truncated := false, lane := l, resume := some rp, stage := .reentering,
              notices := { p.notices with reentered := true },
              mask := if rp = .fromMask then none else p.mask,
              coats := if rp = .fromOven then p.coats else [],
              cure := if rp = .fromOven then p.cure.map (fun c => { c with verdict := none }) else none })))

/-- WITHDRAW of a live record (R171): BAD_STATE unless REENTERING; else out of its lane's re-entry list and PARKED. -/
def Claims.WithdrawRule : Prop :=
  ∀ (s : State) (h : Nat) (p : Panel), s.inProcess (.withdraw h) = true → s.panel h = some p →
    (p.stage ≠ .reentering → Refuses (.withdraw h) s .badState) ∧
    (p.stage = .reentering →
      ∃ t, Accepts (.withdraw h) s t [] ∧ t = { s with slots := t.slots, ltk := t.ltk } ∧ s.othersKept t h ∧
        t.ltk = (s.modLtk p.lane fun k => { k with reentry := k.reentry.filter (· != h) }).ltk ∧
        t.panel h = some { p with resume := none, stage := .parked })

/-- WAIVE_MASK (R98) and WITHDRAW (R171). -/
def Obligations.WaiveAndWithdraw : Prop := Claims.WaiveMaskRule ∧ Claims.WithdrawRule

/-- SET_PARAM of the parameters taken in CONFIG only that act by their value alone (R45, R112, R134, R140, R145,
R154, R181). -/
def Claims.ConfigParameters : Prop :=
  ∀ (s : State) (v : Int) (p : Params), p = s.params →
    (∀ o, ParamRule (.setParamStationOffset o v) s true (0 ≤ v ∧ v ≤ 32767)
      { s with params := { p with offsets := p.offsets.setIfInBounds (offsetIndex o) v.toNat } }) ∧
    ParamRule (.setParamEyeTolerance v) s true (1 ≤ v ∧ v ≤ 200)
      { s with params := { p with eyeTolerance := v.toNat } } ∧
    ParamRule (.setParamDivertPulse v) s true (50 ≤ v ∧ v ≤ 1000)
      { s with params := { p with divertPulse := v.toNat } } ∧
    ParamRule (.setParamTraverseSpeed v) s true (50 ≤ v ∧ v ≤ 400)
      { s with params := { p with traverseSpeed := v.toNat } } ∧
    ParamRule (.setParamSamplePeriod v) s true (250 ≤ v ∧ v ≤ 2000 ∧ v % 250 = 0)
      { s with params := { p with samplePeriod := v.toNat } } ∧
    (∀ c5 c4 c3 c2 c1 : Int, ParamRule (.setParamClassLimits c5 c4 c3 c2 c1) s true
      (1 ≤ c5 ∧ c5 < c4 ∧ c4 < c3 ∧ c3 < c2 ∧ c2 < c1 ∧ c1 ≤ 49999)
      { s with params := { p with limits := { class5 := c5.toNat, class4 := c4.toNat, class3 := c3.toNat,
                                              class2 := c2.toNat, class1 := c1.toNat } } }) ∧
    (∀ m a : Nat, ParamRule (.setParamGainEntry m a v) s true (m ≤ 3 ∧ a ≤ 5 ∧ 0 ≤ v ∧ v ≤ 65535)
      { s with params := { p with gain := p.gain.setIfInBounds (m * 6 + a) v.toNat } }) ∧
    (∀ r : Nat, ParamRule (.setParamReasonLevel r v) s true (3 ≤ r ∧ r ≤ 17 ∧ 0 ≤ v ∧ v ≤ 7)
      { s with params := { p with levels := p.levels.setIfInBounds (r - 3) v.toNat } })

/-- SET_PARAM of the parameters taken in both line modes that act by their value alone (R36, R45, R88, R144, R181);
−1 alone means an absent default recipe (R189). -/
def Claims.BothModeParameters : Prop :=
  ∀ (s : State) (v : Int) (p : Params), p = s.params →
    ParamRule (.setParamMinimumGap v) s false (0 ≤ v ∧ v ≤ 2000)
      { s with params := { p with minimumGap := v.toNat } } ∧
    ParamRule (.setParamSettleTime v) s false (50 ≤ v ∧ v ≤ 1000)
      { s with params := { p with settleTime := v.toNat } } ∧
    ParamRule (.setParamEntryReserve v) s false (0 ≤ v ∧ v ≤ 8)
      { s with params := { p with entryReserve := v.toNat } } ∧
    ParamRule (.setParamInspectTimeout v) s false (500 ≤ v ∧ v ≤ 10000)
      { s with params := { p with inspectTimeout := v.toNat } } ∧
    ParamRule (.setParamAmbient v) s false (-400 ≤ v ∧ v ≤ 1000)
      { s with params := { p with ambient := v } } ∧
    (∀ l : LaneNo, ParamRule (.setParamDefaultRecipe (laneNum l) v) s false (-1 ≤ v ∧ v ≤ 15)
      { s with params := { p with
        defaultRecipe := p.defaultRecipe.set l (if v = -1 then none else some v.toNat) } }) ∧
    (∀ n : Nat, 2 ≤ n → s.inProcess (.setParamDefaultRecipe n v) = true →
      Refuses (.setParamDefaultRecipe n v) s .range)

/-- SET_PARAM of every parameter that acts by its value alone (R181). -/
def Obligations.PlainParameters : Prop := Claims.ConfigParameters ∧ Claims.BothModeParameters

/-- SET_PARAM of the baud rate, the stale limit and the abort level, which act at once (R71, R127, R137, R181). The
fields of an assembler with no frame in assembly are log 13's. -/
def Obligations.ActingParameters : Prop :=
  ∀ (s : State) (v : Int),
    ParamRule (.setParamBaudRate v) s true (v = 57600 ∨ v = 115200)
      (if s.params.baud = v.toNat then s
       else { s with
         params := { s.params with baud := v.toNat }
         slr := { s.slr with
           rx := .waiting, quiet := true, fifo := [], lossPending := false,
           asm := match s.slr.asm.state with
             | .length | .body | .checksum => Assembler.reset
             | _ => s.slr.asm } }) ∧
    (s.inProcess (.setParamStaleLimit v) = true →
      (s.mode = .run → Refuses (.setParamStaleLimit v) s .mode) ∧
      (s.mode = .config → ¬(1 ≤ v ∧ v ≤ 5) → Refuses (.setParamStaleLimit v) s .range) ∧
      (s.mode = .config → 1 ≤ v → v ≤ 5 →
        ∃ t, Accepts (.setParamStaleLimit v) s t [] ∧
          t = { s with params := { s.params with staleLimit := v.toNat }, zones := t.zones, flags := t.flags } ∧
          (∀ (i : Nat) (z : Zone), s.zones[i]? = some z → t.zones[i]? = some { z with
            stale := min z.stale v.toNat,
            state := if z.stale = 0 then z.state else if z.stale < v.toNat then .stale else .invalid }) ∧
          ((∃ (i : Nat) (z : Zone), s.zones[i]? = some z ∧ z.state ≠ .invalid ∧ v.toNat ≤ z.stale) →
            t.flags = { s.flags with zoneAlarm := true }) ∧
          ((∀ (i : Nat) (z : Zone), s.zones[i]? = some z → z.state ≠ .invalid → z.stale < v.toNat) →
            t.flags = s.flags))) ∧
    (s.inProcess (.setParamAbortLevel v) = true →
      (¬(0 ≤ v ∧ v ≤ 7) → Refuses (.setParamAbortLevel v) s .range) ∧
      (0 ≤ v → v ≤ 7 →
        ∃ t, Accepts (.setParamAbortLevel v) s t [] ∧
          t = { s with params := { s.params with abortLevel := v.toNat }, bch := t.bch } ∧
          ∀ l,
            let aborts := (s.bch.get l).state = .coating ∧
              ∃ h e, (s.bch.get l).served = some h ∧ s.governing h = some e ∧
                (e.reason.fixed = true ∨ s.params.level e.reason ≤ v.toNat)
            (aborts → t.bch.get l = { s.bch.get l with state := .aborting }) ∧
            (¬aborts → t.bch.get l = s.bch.get l)))

/-! ### Lane events -/

/-- A fault cause sets the lane's flag; a lane in TRACKING goes to FAULT with TRACK_LOST raised on every record of
its two queues, and nothing else of the lanes changes (R48, R67). -/
def Claims.LaneFaultRule : Prop :=
  ∀ (s : State) (l : LaneNo),
    ((s.ltk.get l).state ≠ .tracking → s.faultCause l = s.raiseFlag (laneFaultFlag l)) ∧
    ((s.ltk.get l).state = .tracking → ((s.ltk.get l).front ++ (s.ltk.get l).oven).Nodup →
      s.faultCause l = { s.raiseFlag (laneFaultFlag l) with
        slots := (s.faultCause l).slots, bch := (s.faultCause l).bch,
        ltk := (s.modLtk l fun t => { t with state := .fault }).ltk } ∧
      (∀ h p, h ∈ (s.ltk.get l).front ++ (s.ltk.get l).oven → s.panel h = some p →
        (s.faultCause l).panel h = some (p.raise s.params (s.holdMaskOf p) .trackLost).1) ∧
      (∀ h, h ∉ (s.ltk.get l).front ++ (s.ltk.get l).oven → (s.faultCause l).panel h = s.panel h))

/-- EYE_ENTRY (R49, R2, R3, R51): ignored on an IDLE lane; a fault cause with 24 records on the queue; the oldest
re-entry or a new record with the values of R3 joins the tail; otherwise a fault cause. -/
def Claims.EntryEdgeRule : Prop :=
  ∀ (s : State) (l : LaneNo), s.edgeAt l .eyeEntry →
    let k := s.keepLevel l .eyeEntry true
    let t := s.ltk.get l
    (t.state = .idle → exec (.eyeEntry l true) s = .next k) ∧
    (t.state ≠ .idle → 24 ≤ t.front.length → exec (.eyeEntry l true) s = .next (k.faultCause l)) ∧
    (∀ h rest, t.state ≠ .idle → t.front.length < 24 → t.reentry = h :: rest →
      let u := (k.modLtk l fun x => { x with reentry := rest, front := x.front ++ [h] }).modPanel h
        fun p => { p with stage := .entered, place := some { sect := .front, pos := 0 } }
      exec (.eyeEntry l true) s = .next (u.checkPlacement l h t.front.getLast?)) ∧
    (∀ h rest, t.state = .tracking → t.front.length < 24 → t.reentry = [] → s.freeList = h :: rest → h < 48 →
      ∃ u, exec (.eyeEntry l true) s = .next (u.checkPlacement l h t.front.getLast?) ∧
        u = { k with freeList := rest, slots := u.slots, ltk := u.ltk } ∧ s.othersKept u h ∧
        u.ltk = (s.modLtk l fun x => { x with front := x.front ++ [h] }).ltk ∧
        u.panel h = some
          { id := none, lane := l, recipe := none, stage := .entered, place := some { sect := .front, pos := 0 },
            inspectTag := none, flashEnd := none, mask := none, coatsApplied := 0, coats := [], cure := none,
            holds := [], truncated := false, resume := none, rework := 0,
            notices := { identified := false, holdRaised := false, diverted := false, cured := false,
                         unloaded := false, reentered := false } }) ∧
    (t.state ≠ .idle → t.front.length < 24 → t.reentry = [] → (t.state = .fault ∨ s.freeList = []) →
      exec (.eyeEntry l true) s = .next (k.faultCause l))

/-- A placement raises SPACING exactly behind a tail closer than the minimum gap, and TRACK_LOST exactly on a lane in
FAULT (R51). That SPACING comes first is log 16's. -/
def Claims.PlacementChecks : Prop :=
  ∀ (s : State) (l : LaneNo) (h : Nat) (tail : Option Nat),
    let close := ∃ k p pl, tail = some k ∧ s.panel k = some p ∧ p.place = some pl ∧ pl.pos < s.params.minimumGap
    ((s.ltk.get l).state ≠ .fault → ¬close → s.checkPlacement l h tail = s) ∧
    ((s.ltk.get l).state ≠ .fault → close → s.checkPlacement l h tail = s.raise .spacing h) ∧
    ((s.ltk.get l).state = .fault → ¬close → s.checkPlacement l h tail = s.raise .trackLost h) ∧
    ((s.ltk.get l).state = .fault → close →
      s.checkPlacement l h tail = (s.raise .spacing h).raise .trackLost h)

/-- The entry edge and the checks at a placement (R49, R51). -/
def Obligations.EntryRule : Prop := Claims.EntryEdgeRule ∧ Claims.PlacementChecks

/-- EYE_OVEN (R62): ignored on an IDLE lane; the head within the window, not served, with room on the oven queue, is
transferred with its cure fields created or renewed (R10); otherwise a fault cause. -/
def Obligations.TransferRule : Prop :=
  ∀ (s : State) (l : LaneNo), s.edgeAt l .eyeOven →
    let k := s.keepLevel l .eyeOven true
    let t := s.ltk.get l
    let tr := s.params.offset .transfer
    let tol := s.params.eyeTolerance
    (t.state = .idle → exec (.eyeOven l true) s = .next k) ∧
    (t.state ≠ .idle → t.front = [] → exec (.eyeOven l true) s = .next (k.faultCause l)) ∧
    (∀ h rest p pl, t.state ≠ .idle → t.front = h :: rest → s.panel h = some p → p.place = some pl →
      let ok := tr - tol ≤ pl.pos ∧ pl.pos ≤ tr + tol ∧ (s.bch.get l).served ≠ some h ∧ t.oven.length < 24
      (¬ok → exec (.eyeOven l true) s = .next (k.faultCause l)) ∧
      (ok →
        ∃ u, exec (.eyeOven l true) s = .next (if t.state = .fault then u.raise .trackLost h else u) ∧
          u = { k with slots := u.slots, ltk := u.ltk } ∧ s.othersKept u h ∧
          u.ltk = (s.modLtk l fun x => { x with front := rest, oven := x.oven ++ [h] }).ltk ∧
          ∃ c : Cure, u.panel h = some { p with
              stage := .curing, place := some { sect := .oven, pos := 0 }, flashEnd := none, resume := none,
              cure := some c } ∧
            c.temp = s.params.ambient ∧ c.last = s.tick ∧
            (p.cure = none → c.dose = 0 ∧ c.peak = 0 ∧ c.ovenTime = 0 ∧ c.verdict = none) ∧
            (∀ a, p.cure = some a → c.dose = a.dose ∧ c.peak = a.peak ∧ c.ovenTime = a.ovenTime)))

/-- EYE_UNLOAD (R65): ignored on an IDLE lane; a fault cause with an empty queue or a head outside the window; an
EXITED head with verdict PASS and no governing hold becomes DONE with notice UNLOADED; any other head is diverted. -/
def Claims.UnloadRule : Prop :=
  ∀ (s : State) (l : LaneNo), s.edgeAt l .eyeUnload →
    let k := s.keepLevel l .eyeUnload true
    let t := s.ltk.get l
    let un := s.params.offset .unload
    let tol := s.params.eyeTolerance
    (t.state = .idle → exec (.eyeUnload l true) s = .next k) ∧
    (t.state ≠ .idle → t.oven = [] → exec (.eyeUnload l true) s = .next (k.faultCause l)) ∧
    (∀ h rest p pl, t.state ≠ .idle → t.oven = h :: rest → s.panel h = some p → p.place = some pl →
      let inside := un - tol ≤ pl.pos ∧ pl.pos ≤ un + tol
      let good := p.stage = .exited ∧ (∃ c, p.cure = some c ∧ c.verdict = some .pass) ∧ s.governing h = none
      (¬inside → exec (.eyeUnload l true) s = .next (k.faultCause l)) ∧
      (inside → ¬good → exec (.eyeUnload l true) s = .next (k.divert l .u h)) ∧
      (inside → good →
        ∃ u, exec (.eyeUnload l true) s = .next u ∧ u = { k with slots := u.slots, ltk := u.ltk } ∧
          s.othersKept u h ∧
          u.ltk = (s.modLtk l fun x => { x with oven := x.oven.filter (· != h) }).ltk ∧
          u.panel h = some { p with
            stage := .done, place := none, notices := { p.notices with unloaded := true } }))

/-- A divert (R56, R58): the output is asserted for the divert pulse time, the record leaves its queues and becomes
PARKED off-lane without flash end time and resume point, with notice DIVERTED; every other record is kept. -/
def Claims.DivertEffect : Prop :=
  ∀ (s : State) (l : LaneNo) (g : DivertGate) (h : Nat) (p : Panel), s.panel h = some p →
    let u := s.divert l g h
    u = { s with slots := u.slots, ltk := u.ltk } ∧ s.othersKept u h ∧
    u.panel h = some { p with
      stage := .parked, place := none, flashEnd := none, resume := none,
      notices := { p.notices with diverted := true } } ∧
    u.ltk.get (otherLane l) = s.ltk.get (otherLane l) ∧
    (u.ltk.get l).front = (s.ltk.get l).front.filter (· != h) ∧
    (u.ltk.get l).oven = (s.ltk.get l).oven.filter (· != h) ∧
    (u.ltk.get l).pulseOf g = some (s.tick + BitVec.ofNat 32 s.params.divertPulse) ∧
    (∀ g', g' ≠ g → (u.ltk.get l).pulseOf g' = (s.ltk.get l).pulseOf g') ∧
    (s.inReset = false → u.divertOut l g = true)

/-- Lane faults (R67) and diverts (R56, R58). -/
def Obligations.FaultAndDivert : Prop := Claims.LaneFaultRule ∧ Claims.DivertEffect

/-- ENCODER_COUNT (R43): ignored on an IDLE lane; otherwise every record of the queue advances by 1 mm up to 32767,
a front count restarts the quiet timer, and no other record moves. This is the count that raises no arrival; the
free order's counter is the model's own (log 7). -/
def Claims.CountAdvances : Prop :=
  ∀ (s : State) (l : LaneNo) (sec : LineSection), s.edgeAt l (encoderInput sec) →
    let k := s.keepLevel l (encoderInput sec) true
    let q := (s.ltk.get l).queue sec
    ((s.ltk.get l).state = .idle → exec (.encoderCount l sec true) s = .next k) ∧
    ((s.ltk.get l).state ≠ .idle → q.Nodup → (∀ h ∈ q, s.arrivalsOf sec h = []) →
      ∃ u, exec (.encoderCount l sec true) s = .next u ∧
        u = { k with slots := u.slots, ltk := u.ltk, free := s.free + 1 } ∧
        u.ltk = (match sec with
          | .front => (s.modLtk l fun t => { t with quiet := some (s.tick + BitVec.ofNat 32 s.params.settleTime) }).ltk
          | .oven => s.ltk) ∧
        (∀ h p, h ∈ q → s.panel h = some p →
          u.panel h = some { p with
            place := p.place.map fun pl => if pl.pos < 32767 then { pl with pos := pl.pos + 1 } else pl }) ∧
        (∀ h, h ∉ q → u.panel h = s.panel h))

/-- A count that carries the one record of its queue to one station hands that arrival to the station after the
advance (R44). -/
def Claims.ArrivalHandedToStation : Prop :=
  ∀ (s : State) (l : LaneNo) (sec : LineSection) (h : Nat) (st : StationNo), s.edgeAt l (encoderInput sec) →
    (s.ltk.get l).state ≠ .idle → (s.ltk.get l).queue sec = [h] → s.arrivalsOf sec h = [(st, h)] →
    exec (.encoderCount l sec true) s =
      .next (({ (s.keepLevel l (encoderInput sec) true).restartQuiet l sec with free := s.free + 1 }.advance h).arrive
        l (st, h))

/-- A count on a queue of any number of records (R43, R44): after the advance, exactly the arrivals that its records
raise are handed to the stations one after another, and those at one station come head first, in queue order. A record
raises an arrival at each station whose position it reaches, and none from 32767. The order of different stations is
free (log 7). -/
def Claims.ArrivalsHandedOver : Prop :=
  ∀ (s : State) (l : LaneNo) (sec : LineSection), s.edgeAt l (encoderInput sec) → (s.ltk.get l).state ≠ .idle →
    let k := s.keepLevel l (encoderInput sec) true
    let q := (s.ltk.get l).queue sec
    let raised := q.flatMap (s.arrivalsOf sec)
    q.Nodup →
    (∃ (u : State) (as : List (StationNo × Nat)),
      exec (.encoderCount l sec true) s = .next (as.foldl (fun v a => v.arrive l a) u) ∧
      as.Perm raised ∧ (∀ st, as.filter (fun a => a.1 == st) = raised.filter fun a => a.1 == st) ∧
      u = { k with slots := u.slots, ltk := u.ltk, free := s.free + 1 } ∧
      u.ltk = (match sec with
        | .front => (s.modLtk l fun t => { t with quiet := some (s.tick + BitVec.ofNat 32 s.params.settleTime) }).ltk
        | .oven => s.ltk) ∧
      (∀ h p, h ∈ q → s.panel h = some p →
        u.panel h = some { p with
          place := p.place.map fun pl => if pl.pos < 32767 then { pl with pos := pl.pos + 1 } else pl }) ∧
      (∀ h, h ∉ q → u.panel h = s.panel h)) ∧
    ∀ h st n, (st, n) ∈ s.arrivalsOf sec h ↔ n = h ∧ ∃ p pl, s.panel h = some p ∧ p.place = some pl ∧
      pl.pos < 32767 ∧ (st, pl.pos + 1) ∈ stationTable s.params sec

/-- Counts and arrivals (R43, R44). -/
def Obligations.CountRule : Prop :=
  Claims.CountAdvances ∧ Claims.ArrivalHandedToStation ∧ Claims.ArrivalsHandedOver

/-- What the tracker's own stations do with an arriving record (R54, R56, R57, R60, R63, R66). -/
def Obligations.TrackerStations : Prop :=
  ∀ (s : State) (l : LaneNo) (h : Nat) (p : Panel), s.panel h = some p →
    -- ID_WINDOW
    (p.stage ≠ .entered → s.arrive l (.idWindow, h) = s) ∧
    (p.stage = .entered →
      let u := s.modPanel h fun p => { p with
        stage := if p.resume = some .fromOven then .passThrough else .admitted }
      s.arrive l (.idWindow, h) = (if p.id = none then u.raise .noId h else u)) ∧
    -- DIVERT_A
    (p.stage ≠ .inspecting → s.governing h = none → s.arrive l (.divertA, h) = s) ∧
    (p.stage ≠ .inspecting → s.governing h ≠ none → s.arrive l (.divertA, h) = s.divert l .a h) ∧
    -- DIVERT_B
    ((s.bch.get l).served = some h → s.arrive l (.divertB, h) = s.faultCause l) ∧
    ((s.bch.get l).served ≠ some h → s.governing h ≠ none ∨ p.stage = .verified ∨ p.stage = .spraying →
      s.arrive l (.divertB, h) = s.divert l .b h) ∧
    ((s.bch.get l).served ≠ some h → s.governing h = none → p.stage ≠ .verified → p.stage ≠ .spraying →
      s.arrive l (.divertB, h) = s) ∧
    -- FLASH_APPROACH
    (∀ e, p.stage = .flashing → p.flashEnd = some e → tickAfter e s.tick = true →
      ∃ x, s.arrive l (.flashApproach, h) = (s.modLtk l fun t => { t with flashClaim := some x }) ∧
        (x = e ∨ (s.ltk.get l).flashClaim = some x) ∧ tickAfter e x = false ∧
        (∀ o, (s.ltk.get l).flashClaim = some o → tickAfter o x = false)) ∧
    (p.stage ≠ .flashing ∨ p.flashEnd = none ∨ (∃ e, p.flashEnd = some e ∧ tickAfter e s.tick = false) →
      s.arrive l (.flashApproach, h) = s) ∧
    -- missed eyes
    (s.arrive l (.missedTransfer, h) = (if (s.ltk.get l).front.head? = some h then s.faultCause l else s)) ∧
    (s.arrive l (.missedUnload, h) = (if (s.ltk.get l).oven.head? = some h then s.faultCause l else s))

/-- An arrival at MASK of an ADMITTED record (R55, R36, R85): a record without recipe takes the lane's default if it is
DEFINED, its count rising by 1, or is held NO_RECIPE; one with a recipe is bypassed, held back or triggered. Any other
stage is not touched. -/
def Claims.MaskStationRule : Prop :=
  ∀ (s : State) (l : LaneNo) (h : Nat) (p : Panel), s.panel h = some p →
    (p.stage ≠ .admitted → s.arrive l (.mask, h) = s) ∧
    (p.stage = .admitted → p.recipe = none →
      (∀ r, s.params.defaultRecipe.get l = some r → s.definedRecipe r = true →
        ∃ u, s.arrive l (.mask, h) = u.maskStation l h ∧ u = { s with slots := u.slots, recipes := u.recipes } ∧
          u.panel h = some { p with recipe := some r } ∧ s.othersKept u h ∧
          ∀ k x, s.recipe k = some x → u.recipe k = some { x with refs := if k = r then x.refs + 1 else x.refs }) ∧
      ((∀ r, s.params.defaultRecipe.get l = some r → s.definedRecipe r = false) →
        s.arrive l (.mask, h) = s.raise .noRecipe h)) ∧
    (∀ r, p.stage = .admitted → p.recipe = some r →
      (p.resume = some .fromSpray → p.mask ≠ none →
        s.arrive l (.mask, h) = s.modPanel h fun p => { p with stage := .verified }) ∧
      (¬(p.resume = some .fromSpray ∧ p.mask ≠ none) → (s.mvf.get l).backlog = 24 →
        s.arrive l (.mask, h) =
          (s.modPanel h fun p => { p with stage := .verified, mask := none }).raise .inspectTimeout h) ∧
      (¬(p.resume = some .fromSpray ∧ p.mask ≠ none) → (s.mvf.get l).backlog ≠ 24 →
        s.arrive l (.mask, h) = s.trigger l h))

/-- A trigger (R83, R86, R87) with no record of the list holding the counter's tag: the record is INSPECTING with that
tag at the tail of the list, its window runs the inspect timeout, the counter advances modulo 16, and a pulse begins or
is owed. -/
def Claims.TriggerRule : Prop :=
  ∀ (s : State) (l : LaneNo) (h : Nat) (p : Panel), s.panel h = some p →
    s.inspectingWithTag l (s.mvf.get l).tag = none →
    let m := s.mvf.get l
    let u := s.trigger l h
    u = { s with slots := u.slots, mvf := u.mvf } ∧ s.othersKept u h ∧
    u.panel h = some { p with inspectTag := some m.tag, stage := .inspecting } ∧
    u.mvf.get (otherLane l) = s.mvf.get (otherLane l) ∧
    (u.mvf.get l).tag.toNat = (m.tag.toNat + 1) % 16 ∧
    (u.mvf.get l).inspecting =
      m.inspecting ++ [{ handle := h, expiry := s.tick + BitVec.ofNat 32 s.params.inspectTimeout }] ∧
    (m.trig = .free → m.backlog = 0 →
      (u.mvf.get l).trig = .asserted (s.tick + 5) ∧ (u.mvf.get l).backlog = 0) ∧
    (¬(m.trig = .free ∧ m.backlog = 0) →
      (u.mvf.get l).trig = m.trig ∧ (u.mvf.get l).backlog = m.backlog + 1)

/-- The mask station and the trigger (R55, R85, R86). -/
def Obligations.MaskArrival : Prop := Claims.MaskStationRule ∧ Claims.TriggerRule

/-- A window that ends without a report (R89): out of the list, tag and mask result absent, VERIFIED, and
INSPECT_TIMEOUT raised. INSPECT_WINDOW_EXPIRY does it once the window's timer has expired, and nothing before
(log 6). -/
def Claims.WindowEndRule : Prop :=
  ∀ (s : State) (h : Nat) (p : Panel), s.inReset = false → s.panel h = some p →
    let u := (s.modMvf p.lane fun m => { m with inspecting := m.inspecting.filter fun w => w.handle != h }).modPanel h
      fun p => { p with inspectTag := none, mask := none, stage := .verified }
    ((∃ w ∈ (s.mvf.get p.lane).inspecting, w.handle = h ∧ tickAfter w.expiry s.tick = false) →
      exec (.inspectWindowExpiry h) s = .next (u.raise .inspectTimeout h)) ∧
    ((∀ w ∈ (s.mvf.get p.lane).inspecting, w.handle = h → tickAfter w.expiry s.tick = true) →
      exec (.inspectWindowExpiry h) s = .next s)

/-- INSPECT_TRIG_PULSE_END and INSPECT_TRIG_RECOVERY_END (R87): 5 ms asserted, 5 ms of recovery, then the next pulse
of the backlog or the output free. -/
def Claims.TriggerOutputRule : Prop :=
  ∀ (s : State) (l : LaneNo) (e : Tick), s.inReset = false → tickAfter e s.tick = false →
    ((s.mvf.get l).trig = .asserted e →
      exec (.inspectTrigPulseEnd l) s = .next (s.modMvf l fun m => { m with trig := .recovery (s.tick + 5) })) ∧
    ((s.mvf.get l).trig = .recovery e → (s.mvf.get l).backlog = 0 →
      exec (.inspectTrigRecoveryEnd l) s = .next (s.modMvf l fun m => { m with trig := .free })) ∧
    (∀ n, (s.mvf.get l).trig = .recovery e → (s.mvf.get l).backlog = n + 1 →
      exec (.inspectTrigRecoveryEnd l) s =
        .next (s.modMvf l fun m => { m with backlog := n, trig := .asserted (s.tick + 5) }))

/-- The window of a record still INSPECTING ends at its arrival at DIVERT_A (R90), as at timeout, before the divert
check (R56): it is diverted when a hold then governs, and with room on its hold list one does. -/
def Claims.WindowEndsAtDivertA : Prop :=
  ∀ (s : State) (l : LaneNo) (h : Nat) (p : Panel), s.panel h = some p → p.stage = .inspecting →
    let u := ((s.modMvf p.lane fun m => { m with inspecting := m.inspecting.filter fun w => w.handle != h }).modPanel h
      fun p => { p with inspectTag := none, mask := none, stage := .verified }).raise .inspectTimeout h
    (u.governing h = none → s.arrive l (.divertA, h) = u) ∧
    (u.governing h ≠ none → s.arrive l (.divertA, h) = u.divert l .a h) ∧
    (p.holds.length < 4 → u.governing h ≠ none)

/-- Tag reuse (R86 step 1): a trigger while a record of the list holds the counter's tag first ends that record's
window as at timeout, and is then a trigger with no record holding it. -/
def Claims.TagReuse : Prop :=
  ∀ (s : State) (l : LaneNo) (h k : Nat) (p : Panel), s.panel k = some p → p.lane = l →
    s.inspectingWithTag l (s.mvf.get l).tag = some k →
    (∀ w ∈ (s.mvf.get l).inspecting, ∀ q, s.panel w.handle = some q → q.inspectTag = some (s.mvf.get l).tag →
      w.handle = k) →
    let u := ((s.modMvf l fun m => { m with inspecting := m.inspecting.filter fun w => w.handle != k }).modPanel k
      fun p => { p with inspectTag := none, mask := none, stage := .verified }).raise .inspectTimeout k
    s.trigger l h = u.trigger l h ∧ (u.mvf.get l).tag = (s.mvf.get l).tag ∧
    u.inspectingWithTag l (s.mvf.get l).tag = none

/-- Inspection windows, by timer, at DIVERT_A and by tag reuse, and trigger pulses (R86, R87, R89, R90). -/
def Obligations.WindowsAndPulses : Prop :=
  Claims.WindowEndRule ∧ Claims.WindowEndsAtDivertA ∧ Claims.TagReuse ∧ Claims.TriggerOutputRule

/-- MASK_REPORT (R91 to R95): the record of the named lane's list that holds the tag gets its result, its hold if one
is named, and becomes VERIFIED off the list without its tag; no such record sets STRAY_REPORT. The assembler resumes
(R81); its fields with no frame in assembly are log 13's. -/
def Obligations.MaskReportRule : Prop :=
  ∀ (s : State) (l : LaneNo) (tag : BitVec 4) (pairs : List (Nat × ZoneStatus)), s.inReset = false →
    s.slr.asm.state = .offering (.maskReport l tag pairs) →
    let k : State := { s with slr := { s.slr with asm := Assembler.reset } }
    (s.inspectingWithTag l tag = none → exec .maskReport s = .next (k.raiseFlag .strayReport)) ∧
    (∀ h p, s.inspectingWithTag l tag = some h → s.panel h = some p → p.lane = l →
      let defects := (s.maskMapOf p).filterMap fun z =>
        if countedStatus pairs z.zone = .present then none else some (z.zone, countedStatus pairs z.zone)
      let critical := ∃ z ∈ s.maskMapOf p, z.critical = true ∧ ∃ d ∈ defects, d.1 = z.zone
      let excess := (s.holdMaskOf p).maskExcess
      let result := fun (v : MaskVerdict) (guards : List Nat) (r : Option HoldReason) =>
        exec .maskReport s = .next
          ((((k.modPanel h fun p => { p with mask := some ⟨v, defects, guards⟩ }).raiseOpt r h).modMvf l
            fun m => { m with inspecting := m.inspecting.filter fun w => w.handle != h }).modPanel h
            fun p => { p with inspectTag := none, stage := .verified })
      (critical → result .failed [] (some .maskCritical)) ∧
      (¬critical → defects.length = 0 → result .pass [] none) ∧
      (¬critical → 1 ≤ defects.length → defects.length ≤ s.minorTolOf p →
        result .passGuarded (defects.map Prod.fst) none) ∧
      (¬critical → 1 ≤ defects.length → s.minorTolOf p < defects.length → excess = false →
        result .failed [] (some .maskExcess)) ∧
      (¬critical → 1 ≤ defects.length → s.minorTolOf p < defects.length → excess = true →
        result .passGuarded (defects.map Prod.fst) (some .maskExcess)))

/-- ID_READ (R53): the ENTERED record nearest the head takes the read by the table, and leaves ENTERED; without one
STRAY_ID is set. The assembler resumes (R81); its fields with no frame in assembly are log 13's. -/
def Obligations.IdReadRule : Prop :=
  ∀ (s : State) (l : LaneNo) (id : PanelId), s.inReset = false → s.slr.asm.state = .offering (.idRead l id) →
    let k : State := { s with slr := { s.slr with asm := Assembler.reset } }
    ((∀ h ∈ (s.ltk.get l).front, ∀ p, s.panel h = some p → p.stage ≠ .entered) →
      exec .idRead s = .next (k.raiseFlag .strayId)) ∧
    (∀ pre h post p, (s.ltk.get l).front = pre ++ h :: post →
      (∀ x ∈ pre, ∀ q, s.panel x = some q → q.stage ≠ .entered) → s.panel h = some p → p.stage = .entered →
      let leave := fun (u : State) => u.modPanel h fun p => { p with
        stage := if p.resume = some .fromOven then .passThrough else .admitted }
      (p.id = some id → exec .idRead s = .next (leave k)) ∧
      (∀ own, p.id = some own → own ≠ id → exec .idRead s = .next (leave (k.raise .idMismatch h))) ∧
      (p.id = none → (∃ n, (id, n) ∈ s.idMap) → exec .idRead s = .next (leave (k.raise .duplicateId h))) ∧
      (p.id = none → (∀ n, (id, n) ∉ s.idMap) →
        exec .idRead s = .next (leave { k.modPanel h (fun p => { p with
            id := some id, notices := { p.notices with identified := true } }) with
          idMap := s.idMap ++ [(id, h)] })))

/-- The exit decision at OVEN_OUT of a CURING record (R64, R151): PASS with CURED at the target dose and the minimum
peak, UNDERCURE with its hold otherwise; EXITED either way. -/
def Claims.ExitDecisionRule : Prop :=
  ∀ (s : State) (l : LaneNo) (h : Nat) (p : Panel) (c : Cure) (prof : CureProfile), s.panel h = some p →
    p.stage = .curing → p.cure = some c → s.cureProfileOf p = some prof →
    let u := s.arrive l (.ovenOut, h)
    (prof.target ≤ c.dose ∧ prof.minPeak ≤ c.peak →
      s.sameButSlots u ∧ s.othersKept u h ∧
      u.panel h = some { p with
        stage := .exited, cure := some { c with verdict := some .pass },
        notices := { p.notices with cured := true } }) ∧
    (¬(prof.target ≤ c.dose ∧ prof.minPeak ≤ c.peak) →
      u = ((s.modPanel h fun p => { p with cure := some { c with verdict := some .undercure } }).raise .undercure
        h).modPanel h fun p => { p with stage := .exited })

/-- The exit decision (R151) and the unload edge (R65). -/
def Obligations.ExitAndUnload : Prop := Claims.ExitDecisionRule ∧ Claims.UnloadRule

/-- SETTLED_EVENT, FLASH_CLAIM_EXPIRY and DIVERT_PULSE_END once their timers have expired, for a channel that is not
SETTLING (R58, R60, R61). Before its expiry each does nothing (log 6). -/
def Claims.LaneTimersRule : Prop :=
  ∀ (s : State) (l : LaneNo) (e : Tick), s.inReset = false →
    ((s.ltk.get l).quiet = some e → tickAfter e s.tick = false → (s.ltk.get l).state ≠ .idle →
      (s.bch.get l).state ≠ .settling →
      exec (.settledEvent l) s = .next (s.modLtk l fun t => { t with quiet := none })) ∧
    ((s.ltk.get l).flashClaim = some e → tickAfter e s.tick = false →
      exec (.flashClaimExpiry l) s = .next (s.modLtk l fun t => { t with flashClaim := none })) ∧
    (∀ g, (s.ltk.get l).pulseOf g = some e → tickAfter e s.tick = false →
      ∃ u, exec (.divertPulseEnd l g) s = .next u ∧ u = { s with ltk := u.ltk } ∧ u.divertOut l g = false ∧
        (∀ g', g' ≠ g → (u.ltk.get l).pulseOf g' = (s.ltk.get l).pulseOf g') ∧
        u.ltk.get (otherLane l) = s.ltk.get (otherLane l) ∧
        (u.ltk.get l).front = (s.ltk.get l).front ∧ (u.ltk.get l).oven = (s.ltk.get l).oven) ∧
    (tickAfter e s.tick = true →
      ((s.ltk.get l).quiet = some e → exec (.settledEvent l) s = .next s) ∧
      ((s.ltk.get l).flashClaim = some e → exec (.flashClaimExpiry l) s = .next s) ∧
      (∀ g, (s.ltk.get l).pulseOf g = some e → exec (.divertPulseEnd l g) s = .next s))

/-- The settled event on a channel in SETTLING (R118, R119): with a governing hold back to IDLE without the BOOTH
claim, the record untouched; otherwise SPRAYING, coat list emptied, coat 0 started with a fresh entry. -/
def Claims.SettledStartsPass : Prop :=
  ∀ (s : State) (l : LaneNo) (e : Tick) (h : Nat) (p : Panel), s.inReset = false → (s.ltk.get l).quiet = some e →
    tickAfter e s.tick = false → (s.ltk.get l).state ≠ .idle → (s.bch.get l).state = .settling →
    (s.bch.get l).served = some h → s.panel h = some p →
    (s.governing h ≠ none →
      ∃ u, exec (.settledEvent l) s = .next u ∧ u = { s with ltk := u.ltk, bch := u.bch } ∧
        u.ltk = (s.modLtk l fun t => { t with quiet := none, boothClaim := false }).ltk ∧
        (u.bch.get l).state = .idle ∧ (u.bch.get l).served = none ∧
        u.bch.get (otherLane l) = s.bch.get (otherLane l)) ∧
    (s.governing h = none →
      ∃ u, exec (.settledEvent l) s = .next u ∧
        u = { s with slots := u.slots, ltk := u.ltk, bch := u.bch, pgn := u.pgn, port := u.port } ∧
        s.othersKept u h ∧
        u.panel h = some { p with
          stage := .spraying, coats := [⟨0, 0, 0, 0, false⟩] } ∧
        (u.bch.get l).state = .coating ∧ (u.bch.get l).served = some h ∧ (u.bch.get l).coat = 0 ∧
        (u.pgn.get l).record = some h ∧ (u.pgn.get l).coat = 0 ∧
        u.bch.get (otherLane l) = s.bch.get (otherLane l))

/-- The lane timers and the settled event (R58, R60, R61, R118). -/
def Obligations.LaneTimersAndSettled : Prop := Claims.LaneTimersRule ∧ Claims.SettledStartsPass

/-- An arrival at BOOTH (R117, R122): an IDLE channel takes a VERIFIED record into SETTLING with the BOOTH claim, or
at once into FAULT with GANTRY_ERR asserted; a channel in FAULT holds it GANTRY_FAULT, a busy one SPACING; no other
stage is touched. -/
def Obligations.BoothArrivalRule : Prop :=
  ∀ (s : State) (l : LaneNo) (h : Nat) (p : Panel), s.panel h = some p →
    let taken := (s.modBch l fun c => { c with state := .settling, served := some h }).modLtk l
      fun t => { t with boothClaim := true }
    (p.stage ≠ .verified → s.arrive l (.booth, h) = s) ∧
    (p.stage = .verified → (s.bch.get l).state = .idle → s.inputLevel l .gantryErr ≠ some true →
      s.arrive l (.booth, h) = taken) ∧
    (p.stage = .verified → (s.bch.get l).state = .idle → s.inputLevel l .gantryErr = some true →
      s.arrive l (.booth, h) = taken.enterFault l) ∧
    (p.stage = .verified → (s.bch.get l).state = .fault → s.arrive l (.booth, h) = s.raise .gantryFault h) ∧
    (p.stage = .verified → (s.bch.get l).state ≠ .idle → (s.bch.get l).state ≠ .fault →
      s.arrive l (.booth, h) = s.raise .spacing h)

/-! ### Booth -/

/-- MOVE_DONE and DURATION_EXPIRY (R120, R121): the first of the two marks the order in flight, the second completes
it; an edge without an order in flight, or a second edge, is ignored. -/
def Claims.OrderTiming : Prop :=
  ∀ (s : State) (l : LaneNo), s.inReset = false →
    let c := s.bch.get l
    let k := s.keepLevel l .moveDone true
    (∀ o, s.inputLevel l .moveDone = some false → c.order = some o → c.inFlight = true → c.doneSeen = false →
      c.durationExpired = false →
      exec (.moveDone l true) s = .next (k.modBch l fun c => { c with doneSeen := true })) ∧
    (∀ o, s.inputLevel l .moveDone = some false → c.order = some o → c.inFlight = true → c.doneSeen = false →
      c.durationExpired = true →
      exec (.moveDone l true) s = .next ((k.modBch l fun c => { c with doneSeen := true }).completeOrder l)) ∧
    (s.inputLevel l .moveDone = some false → (c.inFlight = false ∨ c.doneSeen = true) →
      exec (.moveDone l true) s = .next k) ∧
    (∀ o, c.order = some o → c.inFlight = true → c.durationExpired = false →
      tickAfter (c.sendTick + BitVec.ofNat 32 o.duration) s.tick = false →
      (c.doneSeen = false →
        exec (.durationExpiry l) s = .next (s.modBch l fun c => { c with durationExpired := true })) ∧
      (c.doneSeen = true →
        exec (.durationExpiry l) s =
          .next ((s.modBch l fun c => { c with durationExpired := true }).completeOrder l)))

/-- What the channel does with a completed order (R124, R128, R129): the per-segment check, the accounts, then coat
end, parking or the next order in COATING, parking in ABORTING, and the end of the pass in PARKING. -/
def Claims.OrderCompletes : Prop :=
  ∀ (s : State) (l : LaneNo) (o : MoveOrder) (h : Nat) (p : Panel) (older : List CoatEntry) (e : CoatEntry),
    (s.bch.get l).order = some o → (s.bch.get l).served = some h → s.panel h = some p → p.coats = older ++ [e] →
    let flow := (s.bch.get l).flow
    let s' := s.modBch l fun c => { c with order := none, inFlight := false }
    let raised :=
      if o.isSegment = true ∧ o.valveOpen = true ∧ o.suppressed = false ∧ 20 ≤ o.expected ∧ flow < o.expected / 4
      then s'.raiseQuiet .nozzleBlock h else s'
    let entry : CoatEntry :=
      { expected := min 4294967295 (e.expected + o.expected), counted := min 4294967295 (e.counted + flow),
        run := e.run + 1, suppressed := e.suppressed + (if o.suppressed then 1 else 0), completed := e.completed }
    let acc := if o.isSegment = true then raised.modPanel h fun q => { q with coats := older ++ [entry] } else raised
    ((s.bch.get l).state = .coating → o.last = true → s.completeOrder l = acc.endCoat l) ∧
    ((s.bch.get l).state = .coating → o.last = false → acc.abortHold h = true →
      s.completeOrder l = acc.enterPark l) ∧
    ((s.bch.get l).state = .coating → o.last = false → acc.abortHold h = false →
      s.completeOrder l = acc.askNext l) ∧
    ((s.bch.get l).state = .aborting → s.completeOrder l = acc.enterPark l) ∧
    ((s.bch.get l).state = .parking → s.completeOrder l = s'.parkDone l)

/-- The end of a coat (R125, R126): completed, coats applied up by 1, COAT_VOLUME exactly outside the tolerance, then
the recoat wait or parking. With a recoat interval of 0 s and coats left, the next coat starts at once, or the channel
parks on a governing hold. -/
def Claims.CoatEnds : Prop :=
  ∀ (s : State) (l : LaneNo) (h : Nat) (p : Panel) (b : Body) (older : List CoatEntry) (e : CoatEntry),
    (s.bch.get l).served = some h → s.panel h = some p → s.bodyOf p = some b → p.coats = older ++ [e] →
    let fails := 0 < e.expected ∧
      ((e.counted : Int) * 100 < e.expected * (100 - (b.flowTol : Int)) ∨
       (e.expected : Int) * (100 + (b.flowTol : Int)) < e.counted * 100)
    let ended := s.modPanel h fun q =>
      { q with coats := older ++ [{ e with completed := true }], coatsApplied := q.coatsApplied + 1 }
    let u := if fails then ended.raiseQuiet .coatVolume h else ended
    (older.countP CoatEntry.completed + 1 < b.coats → b.recoat ≠ 0 →
      s.endCoat l = u.modBch l fun c =>
        { c with state := .recoatWait, coat := c.coat + 1,
                 recoatExpiry := some (s.tick + BitVec.ofNat 32 (b.recoat * 1000)) }) ∧
    (older.countP CoatEntry.completed + 1 < b.coats → b.recoat = 0 →
      let w := u.modBch l fun c => { c with state := .recoatWait, coat := c.coat + 1, recoatExpiry := some s.tick }
      (u.governing h = none → s.endCoat l = w.startCoat l) ∧
      (u.governing h ≠ none → s.endCoat l = w.enterPark l)) ∧
    (b.coats ≤ older.countP CoatEntry.completed + 1 → s.endCoat l = u.enterPark l)

/-- The end of a pass (R129): FLASHING with its flash end time exactly when every coat completed, the BOOTH claim
removed and the channel IDLE. -/
def Claims.PassEnds : Prop :=
  ∀ (s : State) (l : LaneNo) (h : Nat) (p : Panel) (b : Body),
    (s.bch.get l).served = some h → s.panel h = some p → s.bodyOf p = some b →
    let u := s.parkDone l
    u = { s with slots := u.slots, ltk := u.ltk, bch := u.bch } ∧ s.othersKept u h ∧
    u.ltk = (s.modLtk l fun t => { t with boothClaim := false }).ltk ∧
    (u.bch.get l).state = .idle ∧ (u.bch.get l).served = none ∧ (u.bch.get l).order = none ∧
    u.bch.get (otherLane l) = s.bch.get (otherLane l) ∧
    (p.coats.countP CoatEntry.completed = b.coats →
      u.panel h = some { p with
        stage := .flashing, flashEnd := some (s.tick + BitVec.ofNat 32 (b.flashMin * 1000)) }) ∧
    (p.coats.countP CoatEntry.completed ≠ b.coats → u.panel h = some p)

/-- A coat starts (R101, R119): a new entry at the tail of the coat list, the generator at row and step 0 of the
channel's coat with its position kept, the channel COATING, and the first order asked for. An order that the generator
hands out is offered to the port (R105, R120); it hands out none unless GENERATING. -/
def Claims.CoatStarts : Prop :=
  (∀ (s : State) (l : LaneNo) (h : Nat) (p : Panel), (s.bch.get l).served = some h → s.panel h = some p →
    ∃ u, s.startCoat l = u.askNext l ∧ u = { s with slots := u.slots, pgn := u.pgn, bch := u.bch } ∧
      u.panel h = some { p with
        coats := p.coats ++ [{ expected := 0, counted := 0, run := 0, suppressed := 0, completed := false }] } ∧
      s.othersKept u h ∧
      u.pgn = (s.modPgn l fun g => { g with
        state := .generating, record := some h, coat := (s.bch.get l).coat, row := 0, step := 0 }).pgn ∧
      u.bch = (s.modBch l fun c => { c with state := .coating, recoatExpiry := none }).bch) ∧
  (∀ (s : State) (l : LaneNo),
    (∀ o, (s.nextOrder l).2 = some o → s.askNext l = (s.nextOrder l).1.offer l o) ∧
    ((s.pgn.get l).state ≠ .generating → (s.nextOrder l).2 = none ∧ s.askNext l = s))

/-- Entry to PARKING (R108, R129): the generator is IDLE without record and its position is the park point; from
elsewhere the park traverse is offered, and at the park point already the pass ends at once. -/
def Claims.ParkingRule : Prop :=
  ∀ (s : State) (l : LaneNo),
    let n := s.pgn.get l
    let park : Point := { x := 0, y := 0 }
    let u := (s.modBch l fun c => { c with state := .parking, recoatExpiry := none }).modPgn l fun g =>
      { g with state := .idle, record := none, pos := park }
    (n.pos = park → s.enterPark l = u.parkDone l) ∧
    (n.pos ≠ park → s.enterPark l = u.offer l
      { kind := .traverse, start := n.pos, stop := park, speed := s.params.traverseSpeed, valveOpen := false,
        suppressed := false, last := false,
        duration := nominalDuration (traverseLength n.pos park) s.params.traverseSpeed, expected := 0 })

/-- Orders complete as R121, R124, R128 and R129 say, and coats start as R119 says. That a check of the channel's own
is not passed back to it is log 15's. -/
def Obligations.OrderCompletion : Prop := Claims.OrderTiming ∧ Claims.OrderCompletes ∧ Claims.CoatStarts

/-- Coats and passes end as R125, R126 and R129 say, by way of PARKING (R108). -/
def Obligations.CoatAndPassEnd : Prop := Claims.CoatEnds ∧ Claims.ParkingRule ∧ Claims.PassEnds

/-- The gantry port (R120, R194): an order offered to the free port is sent at once with the frame of R194, and waits
while the port carries a frame; when a transfer ends the other lane's waiting order is sent with the send tick of its
offer. An order of the same lane that waits behind its own abandoned frame is log 18's. -/
def Obligations.GantryPortRule : Prop :=
  (∀ (s : State) (l : LaneNo) (o : MoveOrder), s.port = none →
    let sent := s.modBch l fun c => { c with
      order := some o, inFlight := true, sendTick := s.tick, doneSeen := false, durationExpired := false, flow := 0 }
    let frame := be16 o.start.x ++ be16 o.start.y ++ be16 o.stop.x ++ be16 o.stop.y ++ be16 o.speed ++
      [if o.valveOpen then 1 else 0]
    s.offer l o = { sent with port := some { lane := l, bytes := frame } }) ∧
  (∀ (s : State) (l : LaneNo) (o : MoveOrder) (f : GantryFrame), s.port = some f →
    s.offer l o = s.modBch l fun c => { c with order := some o, inFlight := false, sendTick := s.tick }) ∧
  (∀ (s : State) (f : GantryFrame), s.inReset = false → s.port = some f →
    let other := otherLane f.lane
    ((s.bch.get f.lane).order = none ∨ (s.bch.get f.lane).inFlight = true →
      (s.bch.get other).order = none ∨ (s.bch.get other).inFlight = true →
      exec .gantryTransferEnd s = .next { s with port := none }) ∧
    (∀ o, (s.bch.get other).order = some o → (s.bch.get other).inFlight = false →
      let sent := s.modBch other fun c => { c with
        inFlight := true, doneSeen := false, durationExpired := false, flow := 0 }
      exec .gantryTransferEnd s = .next { sent with port := some { lane := other, bytes := orderFrame o } }))

/-- FAULT (R122): the order abandoned, the generator IDLE with its position kept, GANTRY_FAULT on the served record,
which stays served. MOVE_TIMEOUT and GANTRY_ERR take a serving channel there. FLOW_PULSE is counted for an OPEN
unsuppressed segment in flight (R123), and RECOAT_EXPIRY starts the next coat or parks on a governing hold (R126). -/
def Obligations.ChannelEvents : Prop :=
  (∀ (s : State) (l : LaneNo) (h : Nat), (s.bch.get l).served = some h →
    s.enterFault l =
      ((s.modBch l fun c => { c with
          state := .fault, order := none, inFlight := false, flow := 0, recoatExpiry := none }).modPgn l
        fun g => { g with state := .idle, record := none }).raise .gantryFault h) ∧
  (∀ (s : State) (l : LaneNo) (o : MoveOrder), s.inReset = false → (s.bch.get l).order = some o →
    (s.bch.get l).inFlight = true → (s.bch.get l).doneSeen = false →
    tickAfter ((s.bch.get l).sendTick + BitVec.ofNat 32 (2 * o.duration + 500)) s.tick = false →
    exec (.moveTimeout l) s = .next (s.enterFault l)) ∧
  (∀ (s : State) (l : LaneNo), s.inReset = false →
    ((s.bch.get l).state ≠ .idle → (s.bch.get l).state ≠ .fault →
      exec (.gantryErr l true) s = .next ((s.keepLevel l .gantryErr true).enterFault l)) ∧
    ((s.bch.get l).state = .idle ∨ (s.bch.get l).state = .fault →
      exec (.gantryErr l true) s = .next (s.keepLevel l .gantryErr true)) ∧
    exec (.gantryErr l false) s = .next (s.keepLevel l .gantryErr false)) ∧
  (∀ (s : State) (l : LaneNo) (o : MoveOrder), s.edgeAt l .flow → (s.bch.get l).order = some o →
    let k := s.keepLevel l .flow true
    let counted := (s.bch.get l).inFlight = true ∧ o.isSegment = true ∧ o.valveOpen = true ∧ o.suppressed = false
    (counted → exec (.flowPulse l true) s =
      .next (k.modBch l fun c => { c with flow := min 4294967295 (c.flow + 1) })) ∧
    (¬counted → exec (.flowPulse l true) s = .next k)) ∧
  (∀ (s : State) (l : LaneNo) (e : Tick) (h : Nat), s.inReset = false → (s.bch.get l).state = .recoatWait →
    (s.bch.get l).recoatExpiry = some e → tickAfter e s.tick = false → (s.bch.get l).served = some h →
    let k := s.modBch l fun c => { c with recoatExpiry := none }
    (s.governing h = none → exec (.recoatExpiry l) s = .next (k.startCoat l)) ∧
    (s.governing h ≠ none → exec (.recoatExpiry l) s = .next (k.enterPark l)))

/-! ### Path generator -/

/-- The next order of a coat (R102 to R106, R111 to R114): the candidate that c, i and j name; a traverse to its start
when the gantry stands elsewhere, and otherwise the segment, closed where it meets a guard rectangle, with the indices
moved on. -/
def Claims.NextOrder : Prop :=
  ∀ (s : State) (l : LaneNo) (h : Nat) (p : Panel) (b : Body) (g : Segment),
    (s.pgn.get l).state = .generating → (s.pgn.get l).record = some h → s.panel h = some p → s.bodyOf p = some b →
    (s.pgn.get l).row < b.rows →
    let n := s.pgn.get l
    let r := if b.reversal = true ∧ n.coat = 1 then b.rows - 1 - n.row else n.row
    let back := b.serpentine = true ∧ r % 2 = 1
    let m := (n.step + n.coat * b.rotation) % b.segs
    let place := if back then b.segs - 1 - m else m
    s.pool[b.base + place]? = some (some g) →
    let a : Point := { x := g.x0, y := g.y0 + r * b.dy }
    let z : Point := { x := g.x1, y := g.y1 + r * b.dy }
    let start := if back then z else a
    let stop := if back then a else z
    let guarded := g.valveOpen = true ∧ ∃ q ∈ s.guardRects p, meetsRect start stop q = true
    let d := nominalDuration (segmentLength g) g.speed
    (start ≠ n.pos → s.nextOrder l =
      (s.modPgn l fun n => { n with pos := start }, some
        { kind := .traverse, start := n.pos, stop := start, speed := s.params.traverseSpeed, valveOpen := false,
          suppressed := false, last := false,
          duration := nominalDuration (traverseLength n.pos start) s.params.traverseSpeed, expected := 0 })) ∧
    (start = n.pos →
      ∃ o, (s.nextOrder l).2 = some o ∧ o.kind = .segment (b.base + place) r n.step ∧ o.start = start ∧
        o.stop = stop ∧ o.speed = g.speed ∧ o.duration = d ∧
        (guarded → o.suppressed = true ∧ o.valveOpen = false ∧ o.expected = 0) ∧
        (¬guarded → o.suppressed = false ∧ o.valveOpen = g.valveOpen ∧
          o.expected = if g.valveOpen then expectedPulses b.flowRate d else 0) ∧
        (o.last = true ↔ n.step + 1 = b.segs ∧ n.row + 1 = b.rows) ∧
        (s.nextOrder l).1 = s.modPgn l fun n => { n with
          state := if n.step + 1 = b.segs ∧ n.row + 1 = b.rows then .coatEnded else .generating,
          row := if n.step + 1 = b.segs then n.row + 1 else n.row,
          step := if n.step + 1 = b.segs then 0 else n.step + 1, pos := stop })

/-- The length of a traverse is the least whole L with L × L at or above the squared distance (R112), the nominal
duration the least whole d with d × v at or above L × 1000 (R113). -/
def Claims.LengthsAndDurations : Prop :=
  (∀ (p q : Point) (n : Nat),
    (p.x - q.x) * (p.x - q.x) + (p.y - q.y) * (p.y - q.y) ≤ (n : Int) * n ↔ traverseLength p q ≤ n) ∧
  (∀ len v n : Nat, 0 < v → (len * 1000 ≤ n * v ↔ nominalDuration len v ≤ n)) ∧
  (∀ flowRate d : Nat, expectedPulses flowRate d * 1000 ≤ flowRate * d + 500 ∧
    flowRate * d + 500 < (expectedPulses flowRate d + 1) * 1000)

/-- The generator hands out the orders of R105 with the lengths, durations and pulses of R112 to R114. -/
def Obligations.PathOrders : Prop := Claims.NextOrder ∧ Claims.LengthsAndDurations

/-! ### Station link -/

/-- A character's data bits come least significant first: the n-th sample is bit n of the byte (R70). -/
def Claims.DataBitOrder : Prop :=
  ∀ b0 b1 b2 b3 b4 b5 b6 b7 : Bool,
    let b := dataByte ⟨b0, b1, b2, b3, b4, b5, b6, b7⟩
    b[0] = b0 ∧ b[1] = b1 ∧ b[2] = b2 ∧ b[3] = b3 ∧ b[4] = b4 ∧ b[5] = b5 ∧ b[6] = b6 ∧ b[7] = b7

/-- Characters, FIFO, BREAK and quiet (R70, R72 to R75, R77). -/
def Claims.CharactersAndQuiet : Prop :=
  ∀ s : State, s.inReset = false →
    let r := s.slr
    (∀ gap data stop, r.rx = .receiving gap → r.fifo.length < 64 →
      exec (.characterReceived false data stop) s = .next { s with slr := { r with
        rx := .waiting, rxd := stop, quiet := false, lossPending := false,
        fifo := r.fifo ++ [{ byte := dataByte data, error := !stop, loss := r.lossPending, gap := gap }] } }) ∧
    (∀ gap data stop, r.rx = .receiving gap → 64 ≤ r.fifo.length →
      exec (.characterReceived false data stop) s = .next { s with slr := { r with
        rx := .waiting, rxd := stop, quiet := false, lossPending := true } }) ∧
    (∀ gap data stop, r.rx = .receiving gap →
      exec (.characterReceived true data stop) s = .next { s with slr := { r with rx := .waiting, rxd := true } }) ∧
    (r.rx = .waiting → r.rxd = true →
      exec (.rxdEdge false) s = .next { s with slr := { r with rx := .receiving r.quiet, rxd := false } }) ∧
    (r.rx = .inBreak → ∀ level, exec (.rxdEdge level) s = .next { s with slr := { r with rxd := level } }) ∧
    (r.rx = .waiting → r.rxd = false →
      exec .breakEntry s = .next { s with
        flags := { s.flags with linkError := true }
        slr := { r with
          rx := .inBreak, fifo := [], lossPending := false,
          asm := match r.asm.state with
            | .length | .body | .checksum => Assembler.reset
            | _ => r.asm } }) ∧
    (r.rx = .inBreak → r.rxd = true →
      exec .breakEnd s = .next { s with slr := { r with rx := .waiting, quiet := true } }) ∧
    (r.rx = .waiting → r.quiet = false →
      (r.fifo = [] → (r.asm.state = .length ∨ r.asm.state = .body ∨ r.asm.state = .checksum) →
        exec .lineQuiet s = .next { s with
          flags := { s.flags with linkError := true }, slr := { r with quiet := true, asm := Assembler.reset } }) ∧
      (r.fifo ≠ [] ∨ r.asm.state = .hunting →
        exec .lineQuiet s = .next { s with slr := { r with quiet := true } }))

/-- The receiver (R70, R72 to R75, R77): the order of a character's bits, characters, FIFO, BREAK and quiet. Bit and
character times are not measured (log 10); RXD's level after a character or noise is log 11's, the fields of an
assembler with no frame in assembly are log 13's. That BREAK may be entered again after a baud change on a low line is
log 29's. -/
def Obligations.StationLineRule : Prop := Claims.DataBitOrder ∧ Claims.CharactersAndQuiet

/-- One byte taken from the FIFO on an ACTIVE line (R73, R76, R77): by the assembler's state and the byte's marks. -/
def Claims.ByteTaken : Prop :=
  ∀ (s : State) (e : FifoEntry) (rest : List FifoEntry), s.inReset = false → s.slr.fifo = e :: rest →
    s.slr.quiet = false →
    let a := s.slr.asm
    let taken := fun (a' : Assembler) (err : Bool) => exec .assemblerByteTake s =
      .next { s with
        slr := { s.slr with fifo := rest, asm := a' }
        flags := { s.flags with linkError := s.flags.linkError || err } }
    let started : Assembler := { state := .length, len := 0, bytes := [], sum := 0, corrupt := false }
    let hunted := if e.byte = 0xA5 ∧ e.error = false then started else Assembler.reset
    (a.state = .hunting → taken hunted e.loss) ∧
    (a.state = .length ∨ a.state = .body ∨ a.state = .checksum → e.gap = true → taken hunted true) ∧
    (a.state = .length → e.gap = false → e.error = true → taken Assembler.reset true) ∧
    (a.state = .length → e.gap = false → e.error = false → (e.byte.toNat < 3 ∨ 62 < e.byte.toNat) →
      taken hunted true) ∧
    (a.state = .length → e.gap = false → e.error = false → 3 ≤ e.byte.toNat → e.byte.toNat ≤ 62 →
      taken { a with state := .body, len := e.byte.toNat, sum := a.sum + e.byte, corrupt := a.corrupt || e.loss }
        false) ∧
    (a.state = .body → e.gap = false →
      taken { a with
        state := if a.bytes.length + 1 = a.len then .checksum else .body, bytes := a.bytes ++ [e.byte],
        sum := a.sum + e.byte, corrupt := a.corrupt || e.loss || e.error } false) ∧
    (a.state = .checksum → e.gap = false → (a.corrupt || e.loss || e.error) = true ∨ a.sum + e.byte ≠ 0 →
      taken Assembler.reset true)

/-- The bytes of a whole good frame, unmarked, taken one after another in RUN by a hunting assembler: the message is
offered and no byte sets LINK_ERROR (R76, R78 to R81). -/
def Claims.GoodFramesOffered : Prop :=
  let feed := fun (mode : LineMode) (bytes : List Byte) => bytes.foldl
    (fun (x : Assembler × Bool) b =>
      let y := takeByte mode { byte := b, error := false, loss := false, gap := false } x.1
      (y.1, x.2 || y.2)) (Assembler.reset, false)
  let total := fun (bytes : List Byte) => bytes.foldl (· + ·) (0 : Byte)
  let statusByte := fun (z : ZoneStatus) => (match z with | .present => 0 | .absent => 1 | .displaced => 2 : Byte)
  (∀ (l : LaneNo) (id : PanelId), idOk id = true →
    let body := be8 (3 + id.length) :: 0x10 :: be8 (laneNum l) :: be8 id.length :: id
    feed .run (0xA5 :: body ++ [-(total body)]) =
      ({ state := .offering (.idRead l id), len := 0, bytes := [], sum := 0, corrupt := false }, false) ∧
    feed .config (0xA5 :: body ++ [-(total body)]) = (Assembler.reset, false)) ∧
  (∀ (l : LaneNo) (tag : BitVec 4) (pairs : List (Nat × ZoneStatus)), pairs.length ≤ 24 → (∀ q ∈ pairs, q.1 ≤ 23) →
    let body := be8 (4 + 2 * pairs.length) :: 0x20 :: be8 (laneNum l) :: be8 tag.toNat :: be8 pairs.length ::
      pairs.flatMap fun q => [be8 q.1, statusByte q.2]
    feed .run (0xA5 :: body ++ [-(total body)]) =
      ({ state := .offering (.maskReport l tag pairs), len := 0, bytes := [], sum := 0, corrupt := false }, false))

/-- A byte taken on a QUIET line does what it does on an ACTIVE one, and when it empties the FIFO in the middle of a
frame the frame is abandoned with LINK_ERROR (R76, R77). An assembler that offers a frame takes no byte (R76, R81). -/
def Claims.ByteTakenQuiet : Prop :=
  ∀ (s u : State) (e : FifoEntry) (rest : List FifoEntry), s.inReset = false → s.slr.fifo = e :: rest →
    s.slr.quiet = true →
    let mid := u.slr.asm.state = .length ∨ u.slr.asm.state = .body ∨ u.slr.asm.state = .checksum
    (∀ m, s.slr.asm.state = .offering m → exec .assemblerByteTake s = .next s) ∧
    (exec .assemblerByteTake { s with slr := { s.slr with quiet := false } } = .next u →
      (∀ m, s.slr.asm.state ≠ .offering m) →
      (rest ≠ [] ∨ ¬mid → exec .assemblerByteTake s = .next { u with slr := { u.slr with quiet := true } }) ∧
      (rest = [] → mid → exec .assemblerByteTake s = .next { u with
        slr := { u.slr with quiet := true, asm := Assembler.reset }, flags := { u.flags with linkError := true } }))

/-- A whole frame with a right checksum and no marked byte that is neither an ID_READ nor a MASK_REPORT of R79 and R80,
in TYPE, length or range, is dropped with LINK_ERROR (R78). -/
def Claims.BadFramesDropped : Prop :=
  let statusByte := fun (z : ZoneStatus) => (match z with | .present => 0 | .absent => 1 | .displaced => 2 : Byte)
  ∀ (s : State) (e : FifoEntry) (rest : List FifoEntry), s.inReset = false → s.slr.fifo = e :: rest →
    s.slr.quiet = false → s.slr.asm.state = .checksum → s.slr.asm.bytes.length = s.slr.asm.len → e.gap = false →
    (s.slr.asm.corrupt || e.loss || e.error) = false → s.slr.asm.sum + e.byte = 0 →
    (∀ (l : LaneNo) (id : PanelId), idOk id = true →
      s.slr.asm.bytes ≠ 0x10 :: be8 (laneNum l) :: be8 id.length :: id) →
    (∀ (l : LaneNo) (tag : BitVec 4) (pairs : List (Nat × ZoneStatus)), pairs.length ≤ 24 → (∀ q ∈ pairs, q.1 ≤ 23) →
      s.slr.asm.bytes ≠ 0x20 :: be8 (laneNum l) :: be8 tag.toNat :: be8 pairs.length ::
        pairs.flatMap fun q => [be8 q.1, statusByte q.2]) →
    exec .assemblerByteTake s = .next { s with
      slr := { s.slr with fifo := rest, asm := Assembler.reset }, flags := { s.flags with linkError := true } }

/-- The frame assembler takes bytes by R73, R76 and R77, offers every good frame whole and drops every other (R78 to
R81). The fields of an assembler with no frame in assembly are log 13's. -/
def Obligations.FrameAssembly : Prop :=
  Claims.ByteTaken ∧ Claims.ByteTakenQuiet ∧ Claims.GoodFramesOffered ∧ Claims.BadFramesDropped

/-! ### Oven -/

/-- POLL_START and POLL_COMPLETION (R134, R136, R143 to R149, R194): the zone table by the second to fourth bytes of the
six replies, ZONE_ALARM for a zone entering INVALID, the next boundary P later, and every CURING record on an oven queue
advanced, with OVERTEMP, OVERCURE and CURE_UNVERIFIED raised in that order where they apply. The moments at which the
commands act are logs 6 and 25. -/
def Obligations.PollRule : Prop :=
  (∀ s : State, s.inReset = false → s.poll.inFlight = false → tickAfter s.poll.boundary (s.tick + 1) = false →
    exec .pollStart s = .next { s with poll := { s.poll with inFlight := true } }) ∧
  (∀ (s : State) (rs : Vector SensorReply 6), s.inReset = false → s.poll.inFlight = true →
    tickAfter s.poll.boundary s.tick = false → (s.ltk.zero.oven ++ s.ltk.one.oven).Nodup →
    ∃ t, exec (.pollCompletion rs) s = .next t ∧
      t = { s with zones := t.zones, flags := t.flags, slots := t.slots, bch := t.bch,
                   poll := { boundary := s.poll.boundary + BitVec.ofNat 32 s.params.samplePeriod,
                             inFlight := false } } ∧
      (∀ (i : Nat) (z : Zone) (r : SensorReply), s.zones[i]? = some z → rs[i]? = some r →
        let n := if z.stale < s.params.staleLimit then z.stale + 1 else z.stale
        (r.status = 0 → t.zones[i]? = some { z with
          air := max (-400) (min 4000 (r.tempHigh ++ r.tempLow).toInt), stale := 0, state := .valid }) ∧
        (r.status ≠ 0 → t.zones[i]? = some { z with
          stale := n, state := if n < s.params.staleLimit then .stale else .invalid })) ∧
      ((∃ (i : Nat) (z z' : Zone), s.zones[i]? = some z ∧ t.zones[i]? = some z' ∧ z.state ≠ .invalid ∧
          z'.state = .invalid) → t.flags = { s.flags with zoneAlarm := true }) ∧
      ((∀ (i : Nat) (z z' : Zone), s.zones[i]? = some z → t.zones[i]? = some z' → z'.state = .invalid →
          z.state = .invalid) → t.flags = s.flags) ∧
      (∀ h, h ∉ s.ltk.zero.oven ++ s.ltk.one.oven → t.panel h = s.panel h) ∧
      (∀ h p, h ∈ s.ltk.zero.oven ++ s.ltk.one.oven → s.panel h = some p → p.stage ≠ .curing →
        t.panel h = some p) ∧
      (∀ h p pl c b prof i z, h ∈ s.ltk.zero.oven ++ s.ltk.one.oven → s.panel h = some p → p.stage = .curing →
        p.place = some pl → p.cure = some c → s.bodyOf p = some b → s.cureProfileOf p = some prof →
        zoneOf s.params pl.pos = some i → t.zones[i]? = some z →
        let dt := (s.tick - c.last).toNat
        let g := min 65535 (s.params.gainAt b.massClass z.airflow * dt / 1000)
        let temp := c.temp + roundQ16 ((z.air - c.temp) * g)
        let dose := if prof.tFloor ≤ temp
          then min 4294967295 (c.dose + doseIncrement dt (doseExponent temp prof.tRef prof.doubling)) else c.dose
        let held := fun (due : Prop) [Decidable due] (r : HoldReason) (q : Panel) =>
          if due then (q.raise s.params (s.holdMaskOf p) r).1 else q
        t.panel h = some (held (z.state = .invalid) .cureUnverified (held (prof.ceiling < dose) .overcure
          (held (prof.peakLimit < temp) .overtemp { p with cure := some { c with
            temp := temp, dose := dose, peak := max c.peak temp, ovenTime := min 4294967295 (c.ovenTime + dt),
            last := s.tick } })))))

/-- The fixed-point steps of the oven (R146, R147): the temperature step is the exact quotient rounded to nearest with
halves away from zero, never past the air temperature; the dose exponent stays within ±128. -/
def Obligations.OvenArithmetic : Prop :=
  (∀ x : Int, |x - 65536 * roundQ16 x| ≤ 32768 ∧
    (|x - 65536 * roundQ16 x| = 32768 → |x| < 65536 * |roundQ16 x|)) ∧
  (∀ (air temp : Int) (g : Nat), g ≤ 65535 →
    min air temp ≤ tempStep air temp g ∧ tempStep air temp g ≤ max air temp) ∧
  (∀ (temp tRef : Int) (doubling dt : Nat), 0 < doubling →
    -128 ≤ doseExponent temp tRef doubling ∧ doseExponent temp tRef doubling ≤ 128 ∧
    (doseExponent temp tRef doubling < 128 → -128 < doseExponent temp tRef doubling →
      doseExponent temp tRef doubling * (10 * (doubling : Int)) ≤ (temp - tRef) * 16 ∧
      (temp - tRef) * 16 < (doseExponent temp tRef doubling + 1) * (10 * (doubling : Int))) ∧
    (temp = tRef → doseIncrement dt (doseExponent temp tRef doubling) = dt))

/-- TACH_EDGE and STALL_WATCH_EXPIRY (R138, R139): the period, the class by the limits, RUNNING; 50,000 samples after
the last edge class 0, STALLED and ZONE_ALARM. A reading that is no rising edge keeps the level, and an input is read
once at each sample (R186). The sample count is log 9's. -/
def Obligations.FanRule : Prop :=
  ∀ (s : State) (i : Fin 6) (at_ : Nat), s.inReset = false →
    let z := s.zones[i]
    let t := s.sampleAt at_
    let lim := s.params.limits
    let put := fun z' : Zone => ({ s with samples := t, zones := s.zones.set i z' } : State)
    let unread := ∀ r, z.readAt = some r → r < t
    (¬unread → ∀ v, exec (.tachEdge i v at_) s = .next s) ∧
    (∀ v, unread → (v = false ∨ z.level ≠ some false) →
      exec (.tachEdge i v at_) s = .next (put { z with level := some v, readAt := some t })) ∧
    (unread → z.level = some false → z.lastEdge = none →
      exec (.tachEdge i true at_) s =
        .next (put { z with level := some true, readAt := some t, running := true, lastEdge := some t })) ∧
    (∀ e d, unread → z.level = some false → z.lastEdge = some e →
      d = (if z.running = true then min 50000 (t - e) else 50000) →
      ∃ k, exec (.tachEdge i true at_) s = .next (put { z with
          level := some true, readAt := some t, running := true, lastEdge := some t, period := some d,
          airflow := k }) ∧
        (k = 5 ↔ d < lim.class5) ∧ (lim.class5 ≤ d → d < lim.class4 → k = 4) ∧
        (lim.class5 ≤ d → lim.class4 ≤ d → d < lim.class3 → k = 3) ∧
        (lim.class5 ≤ d → lim.class4 ≤ d → lim.class3 ≤ d → d < lim.class2 → k = 2) ∧
        (lim.class5 ≤ d → lim.class4 ≤ d → lim.class3 ≤ d → lim.class2 ≤ d → d < lim.class1 → k = 1) ∧
        (lim.class5 ≤ d → lim.class4 ≤ d → lim.class3 ≤ d → lim.class2 ≤ d → lim.class1 ≤ d → k = 0)) ∧
    (∀ e, z.running = true → z.lastEdge = some e → e + 50000 ≤ t →
      exec (.stallWatchExpiry i at_) s = .next { put { z with airflow := 0, running := false } with
        flags := { s.flags with zoneAlarm := true } }) ∧
    (∀ e, z.lastEdge = some e → t < e + 50000 → exec (.stallWatchExpiry i at_) s = .next (put z))

/-! ### Holds -/

/-- Rank is a strict order that separates any two different reasons (R157), and the governing hold is the
highest-ranked unmasked entry, absent exactly when every entry is masked (R158). -/
def Claims.RankAndGoverning : Prop :=
  (∀ (prm : Params) (m : HoldMask) (a b c : HoldReason),
    let up := fun x y : HoldReason => (rankOf prm m x).outranks (rankOf prm m y) = true
    ¬up a a ∧ (up a b → up b c → up a c) ∧ (a ≠ b → up a b ∨ up b a) ∧
    (m.covers a = false → m.covers b = true → up a b) ∧
    (m.covers a = m.covers b → a.fixed = true → b.fixed = false → up a b) ∧
    (m.covers a = m.covers b → a.fixed = false → b.fixed = false → prm.level a < prm.level b → up a b)) ∧
  (∀ (prm : Params) (m : HoldMask) (holds : List HoldEntry),
    (governingOf prm m holds = none ↔ ∀ e ∈ holds, m.covers e.reason = true) ∧
    ∀ g, governingOf prm m holds = some g → g ∈ holds ∧ m.covers g.reason = false ∧
      ∀ e ∈ holds, m.covers e.reason = false → e.reason ≠ g.reason →
        (rankOf prm m g.reason).outranks (rankOf prm m e.reason) = true)

/-- A raise (R159, R160): HOLD_RAISED set; coalesced, added, evicting or dropped; nothing else of the record changes,
and it never leaves the record without the governing hold it had. -/
def Claims.RaiseRule : Prop :=
  ∀ (prm : Params) (m : HoldMask) (r : HoldReason) (p : Panel),
    let q := (p.raise prm m r).1
    q = { p with holds := q.holds, truncated := q.truncated, notices := { p.notices with holdRaised := true } } ∧
    ((∃ e ∈ p.holds, e.reason = r) → q.truncated = p.truncated ∧
      q.holds = p.holds.map fun e => if e.reason = r then { e with count := min 15 (e.count + 1) } else e) ∧
    ((∀ e ∈ p.holds, e.reason ≠ r) → p.holds.length < 4 → q.truncated = p.truncated ∧
      q.holds = p.holds ++ [{ reason := r, state := .pending, count := 1 }]) ∧
    ((∀ e ∈ p.holds, e.reason ≠ r) → 4 ≤ p.holds.length → q.truncated = true ∧
      (∀ low, lowestPending prm m p.holds = some low →
        (rankOf prm m r).outranks (rankOf prm m low.reason) = true →
        q.holds = (p.holds.filter fun e => e.reason != low.reason) ++
          [{ reason := r, state := .pending, count := 1 }]) ∧
      ((∀ low, lowestPending prm m p.holds = some low →
        (rankOf prm m r).outranks (rankOf prm m low.reason) = false) → q.holds = p.holds)) ∧
    (governingOf prm m p.holds ≠ none → governingOf prm m q.holds ≠ none)

/-- A raise taken on a live record changes that record by R159 and R160 and no other; the serving channel in COATING
goes to ABORTING exactly when the governing hold is then of abort class (R127, R159). -/
def Claims.RaiseTold : Prop :=
  ∀ (s : State) (r : HoldReason) (h : Nat) (p : Panel), s.panel h = some p →
    let u := s.raise r h
    u = { s with slots := u.slots, bch := u.bch } ∧ s.othersKept u h ∧
    u.panel h = some (p.raise s.params (s.holdMaskOf p) r).1 ∧
    u.bch.get (otherLane p.lane) = s.bch.get (otherLane p.lane) ∧
    let aborts := (s.bch.get p.lane).served = some h ∧ (s.bch.get p.lane).state = .coating ∧
      ∃ e, u.governing h = some e ∧ (e.reason.fixed = true ∨ s.params.level e.reason ≤ s.params.abortLevel)
    (aborts → u.bch.get p.lane = { s.bch.get p.lane with state := .aborting }) ∧
    (¬aborts → u.bch.get p.lane = s.bch.get p.lane)

/-- Ranks, the governing hold and raises (R127, R157 to R160). The place of an entry in the hold list is log 14's. -/
def Obligations.HoldArbitration : Prop := Claims.RankAndGoverning ∧ Claims.RaiseRule ∧ Claims.RaiseTold

/-! ### Timebase, reset and outputs -/

/-- TICK (R185), DEVICE_RESET and RESET_END (R187): the counter goes up by 1 modulo 2^32; a low pulse under 1 us is
filtered; reset abandons every operation in flight, and its end gives every block its reset value. What the queue, the
pins and the model's counters keep is logs 1, 7, 9 and 12's, what is cleared when reset begins and what when it ends log
19's, and the values without a reset value in the manual are log 13's. -/
def Obligations.TickAndResetRule : Prop :=
  (∀ s : State, s.inReset = false →
    ∃ t, exec .tick s = .next t ∧ t = { s with tick := t.tick, samples := t.samples, tickSample := t.tickSample } ∧
      t.tick.toNat = (s.tick.toNat + 1) % 4294967296 ∧ t.tickSample = s.tickSample + 100) ∧
  (∀ (s : State) (ns : Nat), ns < 1000 → exec (.deviceReset (.resetN ns)) s = .next s) ∧
  (∀ (s : State) (cause : ResetCause), (cause = .powerUp ∨ ∃ ns, cause = .resetN ns ∧ 1000 ≤ ns) →
    ∃ t, exec (.deviceReset cause) s = .next t ∧ t.inReset = true ∧ t.port = none ∧ t.poll.inFlight = false ∧
      t.link.state = .idle ∧ t.link.request = none ∧ t.link.effect = none ∧ t.link.response = none ∧
      t.link.frame = none ∧ t.slr.asm = Assembler.reset ∧ t.slr.rx = .waiting ∧
      ∀ l, (t.bch.get l).order = none ∧ (t.bch.get l).recoatExpiry = none ∧ (t.ltk.get l).quiet = none ∧
        (t.ltk.get l).flashClaim = none ∧ (∀ g, (t.ltk.get l).pulseOf g = none) ∧ (t.mvf.get l).trig = .free ∧
        (t.mvf.get l).inspecting = []) ∧
  (∀ s : State, s.inReset = true →
    exec .resetEnd s = .next { State.reset with
      pending := s.pending, free := s.free, slr := { State.reset.slr with rxd := s.slr.rxd },
      link := { State.reset.link with csn := s.link.csn } }) ∧
  (∀ s : State, s.inReset = false → exec .resetEnd s = .next s)

/-- The outputs (R52, R58, R59, R87, R120, R135, R173, R183, R188, R194): FRONT_STOP with a claim, ENTRY_INHIBIT by its
four conditions, ATTN with a notice or a sticky flag, INSPECT_TRIG in its pulse, each port's select and lines with what
it shifts out, MISO with the link state; through reset all negated but ENTRY_INHIBIT, and the lines low. MISO is high
impedance while CS_N is high. -/
def Obligations.OutputsRule : Prop :=
  ∀ (s : State) (l : LaneNo),
    (s.inReset = false →
      (s.frontStop l = true ↔ (s.ltk.get l).boothClaim = true ∨ (s.ltk.get l).flashClaim ≠ none) ∧
      (s.entryInhibit l = true ↔ s.freeList.length ≤ s.params.entryReserve ∨ 24 ≤ (s.ltk.get l).front.length ∨
        (s.ltk.get l).state = .fault ∨ s.mode = .config) ∧
      (s.attn = true ↔ (∃ h p, s.panel h = some p ∧ p.notices ≠ noNotices) ∨ s.flags ≠ Flags.reset) ∧
      (∀ g, s.divertOut l g = true ↔ (s.ltk.get l).pulseOf g ≠ none) ∧
      (s.inspectTrig l = true ↔ ∃ e, (s.mvf.get l).trig = .asserted e) ∧
      (s.gantrySelect l = true ↔ ∃ f, s.port = some f ∧ f.lane = l) ∧
      (s.sensorSelect = true ↔ s.poll.inFlight = true) ∧
      (∀ f, s.port = some f → s.gantryLines = .shifting f.bytes) ∧ (s.port = none → s.gantryLines = .low) ∧
      (s.poll.inFlight = true → s.sensorLines = .shifting
        [1, 0, 0, 0, 2, 0, 0, 0, 3, 0, 0, 0, 4, 0, 0, 0, 5, 0, 0, 0, 6, 0, 0, 0]) ∧
      (s.poll.inFlight = false → s.sensorLines = .low) ∧
      (∀ st, s.link.csn = false → s.link.frame = some st → s.misoLine = .sending (linkStateByte st))) ∧
    (s.link.csn = true → s.misoLine = .highImpedance) ∧
    (s.inReset = true →
      s.frontStop l = false ∧ s.entryInhibit l = true ∧ s.attn = false ∧ (∀ g, s.divertOut l g = false) ∧
      s.inspectTrig l = false ∧ s.gantrySelect l = false ∧ s.sensorSelect = false ∧
      s.gantryLines = .low ∧ s.sensorLines = .low)
end

