-- ==== Sys2Proof/Laws/State.lean ====
section
/-! SUPPORT. What each named update of `State` does to each field: one lemma per field per update, so that no proof
unfolds a record update. -/

namespace Sys2Proof.Machine

variable (s : State)

/-! ### modLtk -/

@[simp] theorem State.modLtk_pending (l : LaneNo) (f : LaneTrack → LaneTrack) :
    (s.modLtk l f).pending = s.pending := rfl
@[simp] theorem State.modLtk_inReset (l : LaneNo) (f : LaneTrack → LaneTrack) :
    (s.modLtk l f).inReset = s.inReset := rfl
@[simp] theorem State.modLtk_tick (l : LaneNo) (f : LaneTrack → LaneTrack) : (s.modLtk l f).tick = s.tick := rfl
@[simp] theorem State.modLtk_samples (l : LaneNo) (f : LaneTrack → LaneTrack) :
    (s.modLtk l f).samples = s.samples := rfl
@[simp] theorem State.modLtk_tickSample (l : LaneNo) (f : LaneTrack → LaneTrack) :
    (s.modLtk l f).tickSample = s.tickSample := rfl
@[simp] theorem State.modLtk_free (l : LaneNo) (f : LaneTrack → LaneTrack) : (s.modLtk l f).free = s.free := rfl
@[simp] theorem State.modLtk_slots (l : LaneNo) (f : LaneTrack → LaneTrack) : (s.modLtk l f).slots = s.slots := rfl
@[simp] theorem State.modLtk_freeList (l : LaneNo) (f : LaneTrack → LaneTrack) :
    (s.modLtk l f).freeList = s.freeList := rfl
@[simp] theorem State.modLtk_idMap (l : LaneNo) (f : LaneTrack → LaneTrack) : (s.modLtk l f).idMap = s.idMap := rfl
@[simp] theorem State.modLtk_recipes (l : LaneNo) (f : LaneTrack → LaneTrack) :
    (s.modLtk l f).recipes = s.recipes := rfl
@[simp] theorem State.modLtk_pool (l : LaneNo) (f : LaneTrack → LaneTrack) : (s.modLtk l f).pool = s.pool := rfl
@[simp] theorem State.modLtk_params (l : LaneNo) (f : LaneTrack → LaneTrack) : (s.modLtk l f).params = s.params := rfl
@[simp] theorem State.modLtk_mode (l : LaneNo) (f : LaneTrack → LaneTrack) : (s.modLtk l f).mode = s.mode := rfl
@[simp] theorem State.modLtk_flags (l : LaneNo) (f : LaneTrack → LaneTrack) : (s.modLtk l f).flags = s.flags := rfl
@[simp] theorem State.modLtk_ltk (l : LaneNo) (f : LaneTrack → LaneTrack) :
    (s.modLtk l f).ltk = s.ltk.set l (f (s.ltk.get l)) := rfl
@[simp] theorem State.modLtk_mvf (l : LaneNo) (f : LaneTrack → LaneTrack) : (s.modLtk l f).mvf = s.mvf := rfl
@[simp] theorem State.modLtk_pgn (l : LaneNo) (f : LaneTrack → LaneTrack) : (s.modLtk l f).pgn = s.pgn := rfl
@[simp] theorem State.modLtk_bch (l : LaneNo) (f : LaneTrack → LaneTrack) : (s.modLtk l f).bch = s.bch := rfl
@[simp] theorem State.modLtk_inputs (l : LaneNo) (f : LaneTrack → LaneTrack) : (s.modLtk l f).inputs = s.inputs := rfl
@[simp] theorem State.modLtk_port (l : LaneNo) (f : LaneTrack → LaneTrack) : (s.modLtk l f).port = s.port := rfl
@[simp] theorem State.modLtk_zones (l : LaneNo) (f : LaneTrack → LaneTrack) : (s.modLtk l f).zones = s.zones := rfl
@[simp] theorem State.modLtk_poll (l : LaneNo) (f : LaneTrack → LaneTrack) : (s.modLtk l f).poll = s.poll := rfl
@[simp] theorem State.modLtk_slr (l : LaneNo) (f : LaneTrack → LaneTrack) : (s.modLtk l f).slr = s.slr := rfl
@[simp] theorem State.modLtk_link (l : LaneNo) (f : LaneTrack → LaneTrack) : (s.modLtk l f).link = s.link := rfl

/-! ### modMvf -/

@[simp] theorem State.modMvf_pending (l : LaneNo) (f : MaskLane → MaskLane) :
    (s.modMvf l f).pending = s.pending := rfl
@[simp] theorem State.modMvf_inReset (l : LaneNo) (f : MaskLane → MaskLane) :
    (s.modMvf l f).inReset = s.inReset := rfl
@[simp] theorem State.modMvf_tick (l : LaneNo) (f : MaskLane → MaskLane) : (s.modMvf l f).tick = s.tick := rfl
@[simp] theorem State.modMvf_samples (l : LaneNo) (f : MaskLane → MaskLane) :
    (s.modMvf l f).samples = s.samples := rfl
@[simp] theorem State.modMvf_tickSample (l : LaneNo) (f : MaskLane → MaskLane) :
    (s.modMvf l f).tickSample = s.tickSample := rfl
@[simp] theorem State.modMvf_free (l : LaneNo) (f : MaskLane → MaskLane) : (s.modMvf l f).free = s.free := rfl
@[simp] theorem State.modMvf_slots (l : LaneNo) (f : MaskLane → MaskLane) : (s.modMvf l f).slots = s.slots := rfl
@[simp] theorem State.modMvf_freeList (l : LaneNo) (f : MaskLane → MaskLane) :
    (s.modMvf l f).freeList = s.freeList := rfl
@[simp] theorem State.modMvf_idMap (l : LaneNo) (f : MaskLane → MaskLane) : (s.modMvf l f).idMap = s.idMap := rfl
@[simp] theorem State.modMvf_recipes (l : LaneNo) (f : MaskLane → MaskLane) :
    (s.modMvf l f).recipes = s.recipes := rfl
@[simp] theorem State.modMvf_pool (l : LaneNo) (f : MaskLane → MaskLane) : (s.modMvf l f).pool = s.pool := rfl
@[simp] theorem State.modMvf_params (l : LaneNo) (f : MaskLane → MaskLane) : (s.modMvf l f).params = s.params := rfl
@[simp] theorem State.modMvf_mode (l : LaneNo) (f : MaskLane → MaskLane) : (s.modMvf l f).mode = s.mode := rfl
@[simp] theorem State.modMvf_flags (l : LaneNo) (f : MaskLane → MaskLane) : (s.modMvf l f).flags = s.flags := rfl
@[simp] theorem State.modMvf_ltk (l : LaneNo) (f : MaskLane → MaskLane) : (s.modMvf l f).ltk = s.ltk := rfl
@[simp] theorem State.modMvf_mvf (l : LaneNo) (f : MaskLane → MaskLane) :
    (s.modMvf l f).mvf = s.mvf.set l (f (s.mvf.get l)) := rfl
@[simp] theorem State.modMvf_pgn (l : LaneNo) (f : MaskLane → MaskLane) : (s.modMvf l f).pgn = s.pgn := rfl
@[simp] theorem State.modMvf_bch (l : LaneNo) (f : MaskLane → MaskLane) : (s.modMvf l f).bch = s.bch := rfl
@[simp] theorem State.modMvf_inputs (l : LaneNo) (f : MaskLane → MaskLane) : (s.modMvf l f).inputs = s.inputs := rfl
@[simp] theorem State.modMvf_port (l : LaneNo) (f : MaskLane → MaskLane) : (s.modMvf l f).port = s.port := rfl
@[simp] theorem State.modMvf_zones (l : LaneNo) (f : MaskLane → MaskLane) : (s.modMvf l f).zones = s.zones := rfl
@[simp] theorem State.modMvf_poll (l : LaneNo) (f : MaskLane → MaskLane) : (s.modMvf l f).poll = s.poll := rfl
@[simp] theorem State.modMvf_slr (l : LaneNo) (f : MaskLane → MaskLane) : (s.modMvf l f).slr = s.slr := rfl
@[simp] theorem State.modMvf_link (l : LaneNo) (f : MaskLane → MaskLane) : (s.modMvf l f).link = s.link := rfl

/-! ### modPgn -/

@[simp] theorem State.modPgn_pending (l : LaneNo) (f : Generator → Generator) :
    (s.modPgn l f).pending = s.pending := rfl
@[simp] theorem State.modPgn_inReset (l : LaneNo) (f : Generator → Generator) :
    (s.modPgn l f).inReset = s.inReset := rfl
@[simp] theorem State.modPgn_tick (l : LaneNo) (f : Generator → Generator) : (s.modPgn l f).tick = s.tick := rfl
@[simp] theorem State.modPgn_samples (l : LaneNo) (f : Generator → Generator) :
    (s.modPgn l f).samples = s.samples := rfl
@[simp] theorem State.modPgn_tickSample (l : LaneNo) (f : Generator → Generator) :
    (s.modPgn l f).tickSample = s.tickSample := rfl
@[simp] theorem State.modPgn_free (l : LaneNo) (f : Generator → Generator) : (s.modPgn l f).free = s.free := rfl
@[simp] theorem State.modPgn_slots (l : LaneNo) (f : Generator → Generator) : (s.modPgn l f).slots = s.slots := rfl
@[simp] theorem State.modPgn_freeList (l : LaneNo) (f : Generator → Generator) :
    (s.modPgn l f).freeList = s.freeList := rfl
@[simp] theorem State.modPgn_idMap (l : LaneNo) (f : Generator → Generator) : (s.modPgn l f).idMap = s.idMap := rfl
@[simp] theorem State.modPgn_recipes (l : LaneNo) (f : Generator → Generator) :
    (s.modPgn l f).recipes = s.recipes := rfl
@[simp] theorem State.modPgn_pool (l : LaneNo) (f : Generator → Generator) : (s.modPgn l f).pool = s.pool := rfl
@[simp] theorem State.modPgn_params (l : LaneNo) (f : Generator → Generator) : (s.modPgn l f).params = s.params := rfl
@[simp] theorem State.modPgn_mode (l : LaneNo) (f : Generator → Generator) : (s.modPgn l f).mode = s.mode := rfl
@[simp] theorem State.modPgn_flags (l : LaneNo) (f : Generator → Generator) : (s.modPgn l f).flags = s.flags := rfl
@[simp] theorem State.modPgn_ltk (l : LaneNo) (f : Generator → Generator) : (s.modPgn l f).ltk = s.ltk := rfl
@[simp] theorem State.modPgn_mvf (l : LaneNo) (f : Generator → Generator) : (s.modPgn l f).mvf = s.mvf := rfl
@[simp] theorem State.modPgn_pgn (l : LaneNo) (f : Generator → Generator) :
    (s.modPgn l f).pgn = s.pgn.set l (f (s.pgn.get l)) := rfl
@[simp] theorem State.modPgn_bch (l : LaneNo) (f : Generator → Generator) : (s.modPgn l f).bch = s.bch := rfl
@[simp] theorem State.modPgn_inputs (l : LaneNo) (f : Generator → Generator) : (s.modPgn l f).inputs = s.inputs := rfl
@[simp] theorem State.modPgn_port (l : LaneNo) (f : Generator → Generator) : (s.modPgn l f).port = s.port := rfl
@[simp] theorem State.modPgn_zones (l : LaneNo) (f : Generator → Generator) : (s.modPgn l f).zones = s.zones := rfl
@[simp] theorem State.modPgn_poll (l : LaneNo) (f : Generator → Generator) : (s.modPgn l f).poll = s.poll := rfl
@[simp] theorem State.modPgn_slr (l : LaneNo) (f : Generator → Generator) : (s.modPgn l f).slr = s.slr := rfl
@[simp] theorem State.modPgn_link (l : LaneNo) (f : Generator → Generator) : (s.modPgn l f).link = s.link := rfl

/-! ### modBch -/

@[simp] theorem State.modBch_pending (l : LaneNo) (f : Channel → Channel) : (s.modBch l f).pending = s.pending := rfl
@[simp] theorem State.modBch_inReset (l : LaneNo) (f : Channel → Channel) : (s.modBch l f).inReset = s.inReset := rfl
@[simp] theorem State.modBch_tick (l : LaneNo) (f : Channel → Channel) : (s.modBch l f).tick = s.tick := rfl
@[simp] theorem State.modBch_samples (l : LaneNo) (f : Channel → Channel) : (s.modBch l f).samples = s.samples := rfl
@[simp] theorem State.modBch_tickSample (l : LaneNo) (f : Channel → Channel) :
    (s.modBch l f).tickSample = s.tickSample := rfl
@[simp] theorem State.modBch_free (l : LaneNo) (f : Channel → Channel) : (s.modBch l f).free = s.free := rfl
@[simp] theorem State.modBch_slots (l : LaneNo) (f : Channel → Channel) : (s.modBch l f).slots = s.slots := rfl
@[simp] theorem State.modBch_freeList (l : LaneNo) (f : Channel → Channel) :
    (s.modBch l f).freeList = s.freeList := rfl
@[simp] theorem State.modBch_idMap (l : LaneNo) (f : Channel → Channel) : (s.modBch l f).idMap = s.idMap := rfl
@[simp] theorem State.modBch_recipes (l : LaneNo) (f : Channel → Channel) : (s.modBch l f).recipes = s.recipes := rfl
@[simp] theorem State.modBch_pool (l : LaneNo) (f : Channel → Channel) : (s.modBch l f).pool = s.pool := rfl
@[simp] theorem State.modBch_params (l : LaneNo) (f : Channel → Channel) : (s.modBch l f).params = s.params := rfl
@[simp] theorem State.modBch_mode (l : LaneNo) (f : Channel → Channel) : (s.modBch l f).mode = s.mode := rfl
@[simp] theorem State.modBch_flags (l : LaneNo) (f : Channel → Channel) : (s.modBch l f).flags = s.flags := rfl
@[simp] theorem State.modBch_ltk (l : LaneNo) (f : Channel → Channel) : (s.modBch l f).ltk = s.ltk := rfl
@[simp] theorem State.modBch_mvf (l : LaneNo) (f : Channel → Channel) : (s.modBch l f).mvf = s.mvf := rfl
@[simp] theorem State.modBch_pgn (l : LaneNo) (f : Channel → Channel) : (s.modBch l f).pgn = s.pgn := rfl
@[simp] theorem State.modBch_bch (l : LaneNo) (f : Channel → Channel) :
    (s.modBch l f).bch = s.bch.set l (f (s.bch.get l)) := rfl
@[simp] theorem State.modBch_inputs (l : LaneNo) (f : Channel → Channel) : (s.modBch l f).inputs = s.inputs := rfl
@[simp] theorem State.modBch_port (l : LaneNo) (f : Channel → Channel) : (s.modBch l f).port = s.port := rfl
@[simp] theorem State.modBch_zones (l : LaneNo) (f : Channel → Channel) : (s.modBch l f).zones = s.zones := rfl
@[simp] theorem State.modBch_poll (l : LaneNo) (f : Channel → Channel) : (s.modBch l f).poll = s.poll := rfl
@[simp] theorem State.modBch_slr (l : LaneNo) (f : Channel → Channel) : (s.modBch l f).slr = s.slr := rfl
@[simp] theorem State.modBch_link (l : LaneNo) (f : Channel → Channel) : (s.modBch l f).link = s.link := rfl

/-! ### setSlot -/

@[simp] theorem State.setSlot_pending (h : Nat) (o : Option Panel) : (s.setSlot h o).pending = s.pending := rfl
@[simp] theorem State.setSlot_inReset (h : Nat) (o : Option Panel) : (s.setSlot h o).inReset = s.inReset := rfl
@[simp] theorem State.setSlot_tick (h : Nat) (o : Option Panel) : (s.setSlot h o).tick = s.tick := rfl
@[simp] theorem State.setSlot_samples (h : Nat) (o : Option Panel) : (s.setSlot h o).samples = s.samples := rfl
@[simp] theorem State.setSlot_tickSample (h : Nat) (o : Option Panel) :
    (s.setSlot h o).tickSample = s.tickSample := rfl
@[simp] theorem State.setSlot_free (h : Nat) (o : Option Panel) : (s.setSlot h o).free = s.free := rfl
@[simp] theorem State.setSlot_slots (h : Nat) (o : Option Panel) :
    (s.setSlot h o).slots = s.slots.setIfInBounds h o := rfl
@[simp] theorem State.setSlot_freeList (h : Nat) (o : Option Panel) : (s.setSlot h o).freeList = s.freeList := rfl
@[simp] theorem State.setSlot_idMap (h : Nat) (o : Option Panel) : (s.setSlot h o).idMap = s.idMap := rfl
@[simp] theorem State.setSlot_recipes (h : Nat) (o : Option Panel) : (s.setSlot h o).recipes = s.recipes := rfl
@[simp] theorem State.setSlot_pool (h : Nat) (o : Option Panel) : (s.setSlot h o).pool = s.pool := rfl
@[simp] theorem State.setSlot_params (h : Nat) (o : Option Panel) : (s.setSlot h o).params = s.params := rfl
@[simp] theorem State.setSlot_mode (h : Nat) (o : Option Panel) : (s.setSlot h o).mode = s.mode := rfl
@[simp] theorem State.setSlot_flags (h : Nat) (o : Option Panel) : (s.setSlot h o).flags = s.flags := rfl
@[simp] theorem State.setSlot_ltk (h : Nat) (o : Option Panel) : (s.setSlot h o).ltk = s.ltk := rfl
@[simp] theorem State.setSlot_mvf (h : Nat) (o : Option Panel) : (s.setSlot h o).mvf = s.mvf := rfl
@[simp] theorem State.setSlot_pgn (h : Nat) (o : Option Panel) : (s.setSlot h o).pgn = s.pgn := rfl
@[simp] theorem State.setSlot_bch (h : Nat) (o : Option Panel) : (s.setSlot h o).bch = s.bch := rfl
@[simp] theorem State.setSlot_inputs (h : Nat) (o : Option Panel) : (s.setSlot h o).inputs = s.inputs := rfl
@[simp] theorem State.setSlot_port (h : Nat) (o : Option Panel) : (s.setSlot h o).port = s.port := rfl
@[simp] theorem State.setSlot_zones (h : Nat) (o : Option Panel) : (s.setSlot h o).zones = s.zones := rfl
@[simp] theorem State.setSlot_poll (h : Nat) (o : Option Panel) : (s.setSlot h o).poll = s.poll := rfl
@[simp] theorem State.setSlot_slr (h : Nat) (o : Option Panel) : (s.setSlot h o).slr = s.slr := rfl
@[simp] theorem State.setSlot_link (h : Nat) (o : Option Panel) : (s.setSlot h o).link = s.link := rfl

/-! ### putRecipe -/

@[simp] theorem State.putRecipe_pending (r : Nat) (x : Recipe) : (s.putRecipe r x).pending = s.pending := rfl
@[simp] theorem State.putRecipe_inReset (r : Nat) (x : Recipe) : (s.putRecipe r x).inReset = s.inReset := rfl
@[simp] theorem State.putRecipe_tick (r : Nat) (x : Recipe) : (s.putRecipe r x).tick = s.tick := rfl
@[simp] theorem State.putRecipe_samples (r : Nat) (x : Recipe) : (s.putRecipe r x).samples = s.samples := rfl
@[simp] theorem State.putRecipe_tickSample (r : Nat) (x : Recipe) : (s.putRecipe r x).tickSample = s.tickSample := rfl
@[simp] theorem State.putRecipe_free (r : Nat) (x : Recipe) : (s.putRecipe r x).free = s.free := rfl
@[simp] theorem State.putRecipe_slots (r : Nat) (x : Recipe) : (s.putRecipe r x).slots = s.slots := rfl
@[simp] theorem State.putRecipe_freeList (r : Nat) (x : Recipe) : (s.putRecipe r x).freeList = s.freeList := rfl
@[simp] theorem State.putRecipe_idMap (r : Nat) (x : Recipe) : (s.putRecipe r x).idMap = s.idMap := rfl
@[simp] theorem State.putRecipe_recipes (r : Nat) (x : Recipe) :
    (s.putRecipe r x).recipes = s.recipes.setIfInBounds r x := rfl
@[simp] theorem State.putRecipe_pool (r : Nat) (x : Recipe) : (s.putRecipe r x).pool = s.pool := rfl
@[simp] theorem State.putRecipe_params (r : Nat) (x : Recipe) : (s.putRecipe r x).params = s.params := rfl
@[simp] theorem State.putRecipe_mode (r : Nat) (x : Recipe) : (s.putRecipe r x).mode = s.mode := rfl
@[simp] theorem State.putRecipe_flags (r : Nat) (x : Recipe) : (s.putRecipe r x).flags = s.flags := rfl
@[simp] theorem State.putRecipe_ltk (r : Nat) (x : Recipe) : (s.putRecipe r x).ltk = s.ltk := rfl
@[simp] theorem State.putRecipe_mvf (r : Nat) (x : Recipe) : (s.putRecipe r x).mvf = s.mvf := rfl
@[simp] theorem State.putRecipe_pgn (r : Nat) (x : Recipe) : (s.putRecipe r x).pgn = s.pgn := rfl
@[simp] theorem State.putRecipe_bch (r : Nat) (x : Recipe) : (s.putRecipe r x).bch = s.bch := rfl
@[simp] theorem State.putRecipe_inputs (r : Nat) (x : Recipe) : (s.putRecipe r x).inputs = s.inputs := rfl
@[simp] theorem State.putRecipe_port (r : Nat) (x : Recipe) : (s.putRecipe r x).port = s.port := rfl
@[simp] theorem State.putRecipe_zones (r : Nat) (x : Recipe) : (s.putRecipe r x).zones = s.zones := rfl
@[simp] theorem State.putRecipe_poll (r : Nat) (x : Recipe) : (s.putRecipe r x).poll = s.poll := rfl
@[simp] theorem State.putRecipe_slr (r : Nat) (x : Recipe) : (s.putRecipe r x).slr = s.slr := rfl
@[simp] theorem State.putRecipe_link (r : Nat) (x : Recipe) : (s.putRecipe r x).link = s.link := rfl

/-! ### raiseFlag -/

@[simp] theorem State.raiseFlag_pending (g : Flag) : (s.raiseFlag g).pending = s.pending := rfl
@[simp] theorem State.raiseFlag_inReset (g : Flag) : (s.raiseFlag g).inReset = s.inReset := rfl
@[simp] theorem State.raiseFlag_tick (g : Flag) : (s.raiseFlag g).tick = s.tick := rfl
@[simp] theorem State.raiseFlag_samples (g : Flag) : (s.raiseFlag g).samples = s.samples := rfl
@[simp] theorem State.raiseFlag_tickSample (g : Flag) : (s.raiseFlag g).tickSample = s.tickSample := rfl
@[simp] theorem State.raiseFlag_free (g : Flag) : (s.raiseFlag g).free = s.free := rfl
@[simp] theorem State.raiseFlag_slots (g : Flag) : (s.raiseFlag g).slots = s.slots := rfl
@[simp] theorem State.raiseFlag_freeList (g : Flag) : (s.raiseFlag g).freeList = s.freeList := rfl
@[simp] theorem State.raiseFlag_idMap (g : Flag) : (s.raiseFlag g).idMap = s.idMap := rfl
@[simp] theorem State.raiseFlag_recipes (g : Flag) : (s.raiseFlag g).recipes = s.recipes := rfl
@[simp] theorem State.raiseFlag_pool (g : Flag) : (s.raiseFlag g).pool = s.pool := rfl
@[simp] theorem State.raiseFlag_params (g : Flag) : (s.raiseFlag g).params = s.params := rfl
@[simp] theorem State.raiseFlag_mode (g : Flag) : (s.raiseFlag g).mode = s.mode := rfl
@[simp] theorem State.raiseFlag_flags (g : Flag) : (s.raiseFlag g).flags = s.flags.raise g := rfl
@[simp] theorem State.raiseFlag_ltk (g : Flag) : (s.raiseFlag g).ltk = s.ltk := rfl
@[simp] theorem State.raiseFlag_mvf (g : Flag) : (s.raiseFlag g).mvf = s.mvf := rfl
@[simp] theorem State.raiseFlag_pgn (g : Flag) : (s.raiseFlag g).pgn = s.pgn := rfl
@[simp] theorem State.raiseFlag_bch (g : Flag) : (s.raiseFlag g).bch = s.bch := rfl
@[simp] theorem State.raiseFlag_inputs (g : Flag) : (s.raiseFlag g).inputs = s.inputs := rfl
@[simp] theorem State.raiseFlag_port (g : Flag) : (s.raiseFlag g).port = s.port := rfl
@[simp] theorem State.raiseFlag_zones (g : Flag) : (s.raiseFlag g).zones = s.zones := rfl
@[simp] theorem State.raiseFlag_poll (g : Flag) : (s.raiseFlag g).poll = s.poll := rfl
@[simp] theorem State.raiseFlag_slr (g : Flag) : (s.raiseFlag g).slr = s.slr := rfl
@[simp] theorem State.raiseFlag_link (g : Flag) : (s.raiseFlag g).link = s.link := rfl

/-! ### keepLevel -/

@[simp] theorem State.keepLevel_pending (l : LaneNo) (k : LaneInput) (v : Bool) :
    (s.keepLevel l k v).pending = s.pending := rfl
@[simp] theorem State.keepLevel_inReset (l : LaneNo) (k : LaneInput) (v : Bool) :
    (s.keepLevel l k v).inReset = s.inReset := rfl
@[simp] theorem State.keepLevel_tick (l : LaneNo) (k : LaneInput) (v : Bool) :
    (s.keepLevel l k v).tick = s.tick := rfl
@[simp] theorem State.keepLevel_samples (l : LaneNo) (k : LaneInput) (v : Bool) :
    (s.keepLevel l k v).samples = s.samples := rfl
@[simp] theorem State.keepLevel_tickSample (l : LaneNo) (k : LaneInput) (v : Bool) :
    (s.keepLevel l k v).tickSample = s.tickSample := rfl
@[simp] theorem State.keepLevel_free (l : LaneNo) (k : LaneInput) (v : Bool) :
    (s.keepLevel l k v).free = s.free := rfl
@[simp] theorem State.keepLevel_slots (l : LaneNo) (k : LaneInput) (v : Bool) :
    (s.keepLevel l k v).slots = s.slots := rfl
@[simp] theorem State.keepLevel_freeList (l : LaneNo) (k : LaneInput) (v : Bool) :
    (s.keepLevel l k v).freeList = s.freeList := rfl
@[simp] theorem State.keepLevel_idMap (l : LaneNo) (k : LaneInput) (v : Bool) :
    (s.keepLevel l k v).idMap = s.idMap := rfl
@[simp] theorem State.keepLevel_recipes (l : LaneNo) (k : LaneInput) (v : Bool) :
    (s.keepLevel l k v).recipes = s.recipes := rfl
@[simp] theorem State.keepLevel_pool (l : LaneNo) (k : LaneInput) (v : Bool) :
    (s.keepLevel l k v).pool = s.pool := rfl
@[simp] theorem State.keepLevel_params (l : LaneNo) (k : LaneInput) (v : Bool) :
    (s.keepLevel l k v).params = s.params := rfl
@[simp] theorem State.keepLevel_mode (l : LaneNo) (k : LaneInput) (v : Bool) :
    (s.keepLevel l k v).mode = s.mode := rfl
@[simp] theorem State.keepLevel_flags (l : LaneNo) (k : LaneInput) (v : Bool) :
    (s.keepLevel l k v).flags = s.flags := rfl
@[simp] theorem State.keepLevel_ltk (l : LaneNo) (k : LaneInput) (v : Bool) : (s.keepLevel l k v).ltk = s.ltk := rfl
@[simp] theorem State.keepLevel_mvf (l : LaneNo) (k : LaneInput) (v : Bool) : (s.keepLevel l k v).mvf = s.mvf := rfl
@[simp] theorem State.keepLevel_pgn (l : LaneNo) (k : LaneInput) (v : Bool) : (s.keepLevel l k v).pgn = s.pgn := rfl
@[simp] theorem State.keepLevel_bch (l : LaneNo) (k : LaneInput) (v : Bool) : (s.keepLevel l k v).bch = s.bch := rfl
@[simp] theorem State.keepLevel_inputs (l : LaneNo) (k : LaneInput) (v : Bool) :
    (s.keepLevel l k v).inputs = s.inputs.set l ((s.inputs.get l).sampled k v) := rfl
@[simp] theorem State.keepLevel_port (l : LaneNo) (k : LaneInput) (v : Bool) :
    (s.keepLevel l k v).port = s.port := rfl
@[simp] theorem State.keepLevel_zones (l : LaneNo) (k : LaneInput) (v : Bool) :
    (s.keepLevel l k v).zones = s.zones := rfl
@[simp] theorem State.keepLevel_poll (l : LaneNo) (k : LaneInput) (v : Bool) :
    (s.keepLevel l k v).poll = s.poll := rfl
@[simp] theorem State.keepLevel_slr (l : LaneNo) (k : LaneInput) (v : Bool) : (s.keepLevel l k v).slr = s.slr := rfl
@[simp] theorem State.keepLevel_link (l : LaneNo) (k : LaneInput) (v : Bool) :
    (s.keepLevel l k v).link = s.link := rfl

/-! ### modSlr -/

@[simp] theorem State.modSlr_pending (f : StationLink → StationLink) : (s.modSlr f).pending = s.pending := rfl
@[simp] theorem State.modSlr_inReset (f : StationLink → StationLink) : (s.modSlr f).inReset = s.inReset := rfl
@[simp] theorem State.modSlr_tick (f : StationLink → StationLink) : (s.modSlr f).tick = s.tick := rfl
@[simp] theorem State.modSlr_samples (f : StationLink → StationLink) : (s.modSlr f).samples = s.samples := rfl
@[simp] theorem State.modSlr_tickSample (f : StationLink → StationLink) :
    (s.modSlr f).tickSample = s.tickSample := rfl
@[simp] theorem State.modSlr_free (f : StationLink → StationLink) : (s.modSlr f).free = s.free := rfl
@[simp] theorem State.modSlr_slots (f : StationLink → StationLink) : (s.modSlr f).slots = s.slots := rfl
@[simp] theorem State.modSlr_freeList (f : StationLink → StationLink) : (s.modSlr f).freeList = s.freeList := rfl
@[simp] theorem State.modSlr_idMap (f : StationLink → StationLink) : (s.modSlr f).idMap = s.idMap := rfl
@[simp] theorem State.modSlr_recipes (f : StationLink → StationLink) : (s.modSlr f).recipes = s.recipes := rfl
@[simp] theorem State.modSlr_pool (f : StationLink → StationLink) : (s.modSlr f).pool = s.pool := rfl
@[simp] theorem State.modSlr_params (f : StationLink → StationLink) : (s.modSlr f).params = s.params := rfl
@[simp] theorem State.modSlr_mode (f : StationLink → StationLink) : (s.modSlr f).mode = s.mode := rfl
@[simp] theorem State.modSlr_flags (f : StationLink → StationLink) : (s.modSlr f).flags = s.flags := rfl
@[simp] theorem State.modSlr_ltk (f : StationLink → StationLink) : (s.modSlr f).ltk = s.ltk := rfl
@[simp] theorem State.modSlr_mvf (f : StationLink → StationLink) : (s.modSlr f).mvf = s.mvf := rfl
@[simp] theorem State.modSlr_pgn (f : StationLink → StationLink) : (s.modSlr f).pgn = s.pgn := rfl
@[simp] theorem State.modSlr_bch (f : StationLink → StationLink) : (s.modSlr f).bch = s.bch := rfl
@[simp] theorem State.modSlr_inputs (f : StationLink → StationLink) : (s.modSlr f).inputs = s.inputs := rfl
@[simp] theorem State.modSlr_port (f : StationLink → StationLink) : (s.modSlr f).port = s.port := rfl
@[simp] theorem State.modSlr_zones (f : StationLink → StationLink) : (s.modSlr f).zones = s.zones := rfl
@[simp] theorem State.modSlr_poll (f : StationLink → StationLink) : (s.modSlr f).poll = s.poll := rfl
@[simp] theorem State.modSlr_slr (f : StationLink → StationLink) : (s.modSlr f).slr = f s.slr := rfl
@[simp] theorem State.modSlr_link (f : StationLink → StationLink) : (s.modSlr f).link = s.link := rfl

/-! ### writeParams -/

@[simp] theorem State.writeParams_pending (f : Params → Params) : (s.writeParams f).pending = s.pending := rfl
@[simp] theorem State.writeParams_inReset (f : Params → Params) : (s.writeParams f).inReset = s.inReset := rfl
@[simp] theorem State.writeParams_tick (f : Params → Params) : (s.writeParams f).tick = s.tick := rfl
@[simp] theorem State.writeParams_samples (f : Params → Params) : (s.writeParams f).samples = s.samples := rfl
@[simp] theorem State.writeParams_tickSample (f : Params → Params) :
    (s.writeParams f).tickSample = s.tickSample := rfl
@[simp] theorem State.writeParams_free (f : Params → Params) : (s.writeParams f).free = s.free := rfl
@[simp] theorem State.writeParams_slots (f : Params → Params) : (s.writeParams f).slots = s.slots := rfl
@[simp] theorem State.writeParams_freeList (f : Params → Params) : (s.writeParams f).freeList = s.freeList := rfl
@[simp] theorem State.writeParams_idMap (f : Params → Params) : (s.writeParams f).idMap = s.idMap := rfl
@[simp] theorem State.writeParams_recipes (f : Params → Params) : (s.writeParams f).recipes = s.recipes := rfl
@[simp] theorem State.writeParams_pool (f : Params → Params) : (s.writeParams f).pool = s.pool := rfl
@[simp] theorem State.writeParams_params (f : Params → Params) : (s.writeParams f).params = f s.params := rfl
@[simp] theorem State.writeParams_mode (f : Params → Params) : (s.writeParams f).mode = s.mode := rfl
@[simp] theorem State.writeParams_flags (f : Params → Params) : (s.writeParams f).flags = s.flags := rfl
@[simp] theorem State.writeParams_ltk (f : Params → Params) : (s.writeParams f).ltk = s.ltk := rfl
@[simp] theorem State.writeParams_mvf (f : Params → Params) : (s.writeParams f).mvf = s.mvf := rfl
@[simp] theorem State.writeParams_pgn (f : Params → Params) : (s.writeParams f).pgn = s.pgn := rfl
@[simp] theorem State.writeParams_bch (f : Params → Params) : (s.writeParams f).bch = s.bch := rfl
@[simp] theorem State.writeParams_inputs (f : Params → Params) : (s.writeParams f).inputs = s.inputs := rfl
@[simp] theorem State.writeParams_port (f : Params → Params) : (s.writeParams f).port = s.port := rfl
@[simp] theorem State.writeParams_zones (f : Params → Params) : (s.writeParams f).zones = s.zones := rfl
@[simp] theorem State.writeParams_poll (f : Params → Params) : (s.writeParams f).poll = s.poll := rfl
@[simp] theorem State.writeParams_slr (f : Params → Params) : (s.writeParams f).slr = s.slr := rfl
@[simp] theorem State.writeParams_link (f : Params → Params) : (s.writeParams f).link = s.link := rfl

/-! ### atSample -/

@[simp] theorem State.atSample_pending (t : Nat) : (s.atSample t).pending = s.pending := rfl
@[simp] theorem State.atSample_inReset (t : Nat) : (s.atSample t).inReset = s.inReset := rfl
@[simp] theorem State.atSample_tick (t : Nat) : (s.atSample t).tick = s.tick := rfl
@[simp] theorem State.atSample_samples (t : Nat) : (s.atSample t).samples = t := rfl
@[simp] theorem State.atSample_tickSample (t : Nat) : (s.atSample t).tickSample = s.tickSample := rfl
@[simp] theorem State.atSample_free (t : Nat) : (s.atSample t).free = s.free := rfl
@[simp] theorem State.atSample_slots (t : Nat) : (s.atSample t).slots = s.slots := rfl
@[simp] theorem State.atSample_freeList (t : Nat) : (s.atSample t).freeList = s.freeList := rfl
@[simp] theorem State.atSample_idMap (t : Nat) : (s.atSample t).idMap = s.idMap := rfl
@[simp] theorem State.atSample_recipes (t : Nat) : (s.atSample t).recipes = s.recipes := rfl
@[simp] theorem State.atSample_pool (t : Nat) : (s.atSample t).pool = s.pool := rfl
@[simp] theorem State.atSample_params (t : Nat) : (s.atSample t).params = s.params := rfl
@[simp] theorem State.atSample_mode (t : Nat) : (s.atSample t).mode = s.mode := rfl
@[simp] theorem State.atSample_flags (t : Nat) : (s.atSample t).flags = s.flags := rfl
@[simp] theorem State.atSample_ltk (t : Nat) : (s.atSample t).ltk = s.ltk := rfl
@[simp] theorem State.atSample_mvf (t : Nat) : (s.atSample t).mvf = s.mvf := rfl
@[simp] theorem State.atSample_pgn (t : Nat) : (s.atSample t).pgn = s.pgn := rfl
@[simp] theorem State.atSample_bch (t : Nat) : (s.atSample t).bch = s.bch := rfl
@[simp] theorem State.atSample_inputs (t : Nat) : (s.atSample t).inputs = s.inputs := rfl
@[simp] theorem State.atSample_port (t : Nat) : (s.atSample t).port = s.port := rfl
@[simp] theorem State.atSample_zones (t : Nat) : (s.atSample t).zones = s.zones := rfl
@[simp] theorem State.atSample_poll (t : Nat) : (s.atSample t).poll = s.poll := rfl
@[simp] theorem State.atSample_slr (t : Nat) : (s.atSample t).slr = s.slr := rfl
@[simp] theorem State.atSample_link (t : Nat) : (s.atSample t).link = s.link := rfl

/-! ### resumeAssembler -/

@[simp] theorem State.resumeAssembler_pending : (s.resumeAssembler).pending = s.pending := rfl
@[simp] theorem State.resumeAssembler_inReset : (s.resumeAssembler).inReset = s.inReset := rfl
@[simp] theorem State.resumeAssembler_tick : (s.resumeAssembler).tick = s.tick := rfl
@[simp] theorem State.resumeAssembler_samples : (s.resumeAssembler).samples = s.samples := rfl
@[simp] theorem State.resumeAssembler_tickSample : (s.resumeAssembler).tickSample = s.tickSample := rfl
@[simp] theorem State.resumeAssembler_free : (s.resumeAssembler).free = s.free := rfl
@[simp] theorem State.resumeAssembler_slots : (s.resumeAssembler).slots = s.slots := rfl
@[simp] theorem State.resumeAssembler_freeList : (s.resumeAssembler).freeList = s.freeList := rfl
@[simp] theorem State.resumeAssembler_idMap : (s.resumeAssembler).idMap = s.idMap := rfl
@[simp] theorem State.resumeAssembler_recipes : (s.resumeAssembler).recipes = s.recipes := rfl
@[simp] theorem State.resumeAssembler_pool : (s.resumeAssembler).pool = s.pool := rfl
@[simp] theorem State.resumeAssembler_params : (s.resumeAssembler).params = s.params := rfl
@[simp] theorem State.resumeAssembler_mode : (s.resumeAssembler).mode = s.mode := rfl
@[simp] theorem State.resumeAssembler_flags : (s.resumeAssembler).flags = s.flags := rfl
@[simp] theorem State.resumeAssembler_ltk : (s.resumeAssembler).ltk = s.ltk := rfl
@[simp] theorem State.resumeAssembler_mvf : (s.resumeAssembler).mvf = s.mvf := rfl
@[simp] theorem State.resumeAssembler_pgn : (s.resumeAssembler).pgn = s.pgn := rfl
@[simp] theorem State.resumeAssembler_bch : (s.resumeAssembler).bch = s.bch := rfl
@[simp] theorem State.resumeAssembler_inputs : (s.resumeAssembler).inputs = s.inputs := rfl
@[simp] theorem State.resumeAssembler_port : (s.resumeAssembler).port = s.port := rfl
@[simp] theorem State.resumeAssembler_zones : (s.resumeAssembler).zones = s.zones := rfl
@[simp] theorem State.resumeAssembler_poll : (s.resumeAssembler).poll = s.poll := rfl
@[simp] theorem State.resumeAssembler_slr : (s.resumeAssembler).slr = { s.slr with asm := Assembler.reset } := rfl
@[simp] theorem State.resumeAssembler_link : (s.resumeAssembler).link = s.link := rfl

/-! ### withEffect -/

@[simp] theorem State.withEffect_pending (r : Response) : (s.withEffect r).pending = s.pending := rfl
@[simp] theorem State.withEffect_inReset (r : Response) : (s.withEffect r).inReset = s.inReset := rfl
@[simp] theorem State.withEffect_tick (r : Response) : (s.withEffect r).tick = s.tick := rfl
@[simp] theorem State.withEffect_samples (r : Response) : (s.withEffect r).samples = s.samples := rfl
@[simp] theorem State.withEffect_tickSample (r : Response) : (s.withEffect r).tickSample = s.tickSample := rfl
@[simp] theorem State.withEffect_free (r : Response) : (s.withEffect r).free = s.free := rfl
@[simp] theorem State.withEffect_slots (r : Response) : (s.withEffect r).slots = s.slots := rfl
@[simp] theorem State.withEffect_freeList (r : Response) : (s.withEffect r).freeList = s.freeList := rfl
@[simp] theorem State.withEffect_idMap (r : Response) : (s.withEffect r).idMap = s.idMap := rfl
@[simp] theorem State.withEffect_recipes (r : Response) : (s.withEffect r).recipes = s.recipes := rfl
@[simp] theorem State.withEffect_pool (r : Response) : (s.withEffect r).pool = s.pool := rfl
@[simp] theorem State.withEffect_params (r : Response) : (s.withEffect r).params = s.params := rfl
@[simp] theorem State.withEffect_mode (r : Response) : (s.withEffect r).mode = s.mode := rfl
@[simp] theorem State.withEffect_flags (r : Response) : (s.withEffect r).flags = s.flags := rfl
@[simp] theorem State.withEffect_ltk (r : Response) : (s.withEffect r).ltk = s.ltk := rfl
@[simp] theorem State.withEffect_mvf (r : Response) : (s.withEffect r).mvf = s.mvf := rfl
@[simp] theorem State.withEffect_pgn (r : Response) : (s.withEffect r).pgn = s.pgn := rfl
@[simp] theorem State.withEffect_bch (r : Response) : (s.withEffect r).bch = s.bch := rfl
@[simp] theorem State.withEffect_inputs (r : Response) : (s.withEffect r).inputs = s.inputs := rfl
@[simp] theorem State.withEffect_port (r : Response) : (s.withEffect r).port = s.port := rfl
@[simp] theorem State.withEffect_zones (r : Response) : (s.withEffect r).zones = s.zones := rfl
@[simp] theorem State.withEffect_poll (r : Response) : (s.withEffect r).poll = s.poll := rfl
@[simp] theorem State.withEffect_slr (r : Response) : (s.withEffect r).slr = s.slr := rfl
@[simp] theorem State.withEffect_link (r : Response) : (s.withEffect r).link = { s.link with effect := some r } := rfl

/-! ### respond -/

@[simp] theorem State.respond_pending (r : Response) : (s.respond r).pending = s.pending := rfl
@[simp] theorem State.respond_inReset (r : Response) : (s.respond r).inReset = s.inReset := rfl
@[simp] theorem State.respond_tick (r : Response) : (s.respond r).tick = s.tick := rfl
@[simp] theorem State.respond_samples (r : Response) : (s.respond r).samples = s.samples := rfl
@[simp] theorem State.respond_tickSample (r : Response) : (s.respond r).tickSample = s.tickSample := rfl
@[simp] theorem State.respond_free (r : Response) : (s.respond r).free = s.free := rfl
@[simp] theorem State.respond_slots (r : Response) : (s.respond r).slots = s.slots := rfl
@[simp] theorem State.respond_freeList (r : Response) : (s.respond r).freeList = s.freeList := rfl
@[simp] theorem State.respond_idMap (r : Response) : (s.respond r).idMap = s.idMap := rfl
@[simp] theorem State.respond_recipes (r : Response) : (s.respond r).recipes = s.recipes := rfl
@[simp] theorem State.respond_pool (r : Response) : (s.respond r).pool = s.pool := rfl
@[simp] theorem State.respond_params (r : Response) : (s.respond r).params = s.params := rfl
@[simp] theorem State.respond_mode (r : Response) : (s.respond r).mode = s.mode := rfl
@[simp] theorem State.respond_flags (r : Response) : (s.respond r).flags = s.flags := rfl
@[simp] theorem State.respond_ltk (r : Response) : (s.respond r).ltk = s.ltk := rfl
@[simp] theorem State.respond_mvf (r : Response) : (s.respond r).mvf = s.mvf := rfl
@[simp] theorem State.respond_pgn (r : Response) : (s.respond r).pgn = s.pgn := rfl
@[simp] theorem State.respond_bch (r : Response) : (s.respond r).bch = s.bch := rfl
@[simp] theorem State.respond_inputs (r : Response) : (s.respond r).inputs = s.inputs := rfl
@[simp] theorem State.respond_port (r : Response) : (s.respond r).port = s.port := rfl
@[simp] theorem State.respond_zones (r : Response) : (s.respond r).zones = s.zones := rfl
@[simp] theorem State.respond_poll (r : Response) : (s.respond r).poll = s.poll := rfl
@[simp] theorem State.respond_slr (r : Response) : (s.respond r).slr = s.slr := rfl
@[simp] theorem State.respond_link (r : Response) :
    (s.respond r).link = { s.link with state := .response, request := none, effect := none, response := some r } := rfl

/-! ### modPanel -/

@[simp] theorem State.modPanel_pending (h : Nat) (f : Panel → Panel) :
    (s.modPanel h f).pending = s.pending := by
  unfold State.modPanel; split <;> rfl
@[simp] theorem State.modPanel_inReset (h : Nat) (f : Panel → Panel) :
    (s.modPanel h f).inReset = s.inReset := by
  unfold State.modPanel; split <;> rfl
@[simp] theorem State.modPanel_tick (h : Nat) (f : Panel → Panel) :
    (s.modPanel h f).tick = s.tick := by
  unfold State.modPanel; split <;> rfl
@[simp] theorem State.modPanel_samples (h : Nat) (f : Panel → Panel) :
    (s.modPanel h f).samples = s.samples := by
  unfold State.modPanel; split <;> rfl
@[simp] theorem State.modPanel_tickSample (h : Nat) (f : Panel → Panel) :
    (s.modPanel h f).tickSample = s.tickSample := by
  unfold State.modPanel; split <;> rfl
@[simp] theorem State.modPanel_free (h : Nat) (f : Panel → Panel) :
    (s.modPanel h f).free = s.free := by
  unfold State.modPanel; split <;> rfl
@[simp] theorem State.modPanel_freeList (h : Nat) (f : Panel → Panel) :
    (s.modPanel h f).freeList = s.freeList := by
  unfold State.modPanel; split <;> rfl
@[simp] theorem State.modPanel_idMap (h : Nat) (f : Panel → Panel) :
    (s.modPanel h f).idMap = s.idMap := by
  unfold State.modPanel; split <;> rfl
@[simp] theorem State.modPanel_recipes (h : Nat) (f : Panel → Panel) :
    (s.modPanel h f).recipes = s.recipes := by
  unfold State.modPanel; split <;> rfl
@[simp] theorem State.modPanel_pool (h : Nat) (f : Panel → Panel) :
    (s.modPanel h f).pool = s.pool := by
  unfold State.modPanel; split <;> rfl
@[simp] theorem State.modPanel_params (h : Nat) (f : Panel → Panel) :
    (s.modPanel h f).params = s.params := by
  unfold State.modPanel; split <;> rfl
@[simp] theorem State.modPanel_mode (h : Nat) (f : Panel → Panel) :
    (s.modPanel h f).mode = s.mode := by
  unfold State.modPanel; split <;> rfl
@[simp] theorem State.modPanel_flags (h : Nat) (f : Panel → Panel) :
    (s.modPanel h f).flags = s.flags := by
  unfold State.modPanel; split <;> rfl
@[simp] theorem State.modPanel_ltk (h : Nat) (f : Panel → Panel) :
    (s.modPanel h f).ltk = s.ltk := by
  unfold State.modPanel; split <;> rfl
@[simp] theorem State.modPanel_mvf (h : Nat) (f : Panel → Panel) :
    (s.modPanel h f).mvf = s.mvf := by
  unfold State.modPanel; split <;> rfl
@[simp] theorem State.modPanel_pgn (h : Nat) (f : Panel → Panel) :
    (s.modPanel h f).pgn = s.pgn := by
  unfold State.modPanel; split <;> rfl
@[simp] theorem State.modPanel_bch (h : Nat) (f : Panel → Panel) :
    (s.modPanel h f).bch = s.bch := by
  unfold State.modPanel; split <;> rfl
@[simp] theorem State.modPanel_inputs (h : Nat) (f : Panel → Panel) :
    (s.modPanel h f).inputs = s.inputs := by
  unfold State.modPanel; split <;> rfl
@[simp] theorem State.modPanel_port (h : Nat) (f : Panel → Panel) :
    (s.modPanel h f).port = s.port := by
  unfold State.modPanel; split <;> rfl
@[simp] theorem State.modPanel_zones (h : Nat) (f : Panel → Panel) :
    (s.modPanel h f).zones = s.zones := by
  unfold State.modPanel; split <;> rfl
@[simp] theorem State.modPanel_poll (h : Nat) (f : Panel → Panel) :
    (s.modPanel h f).poll = s.poll := by
  unfold State.modPanel; split <;> rfl
@[simp] theorem State.modPanel_slr (h : Nat) (f : Panel → Panel) :
    (s.modPanel h f).slr = s.slr := by
  unfold State.modPanel; split <;> rfl
@[simp] theorem State.modPanel_link (h : Nat) (f : Panel → Panel) :
    (s.modPanel h f).link = s.link := by
  unfold State.modPanel; split <;> rfl

/-! ### modRecipe -/

@[simp] theorem State.modRecipe_pending (r : Nat) (f : Recipe → Recipe) :
    (s.modRecipe r f).pending = s.pending := by
  unfold State.modRecipe; split <;> rfl
@[simp] theorem State.modRecipe_inReset (r : Nat) (f : Recipe → Recipe) :
    (s.modRecipe r f).inReset = s.inReset := by
  unfold State.modRecipe; split <;> rfl
@[simp] theorem State.modRecipe_tick (r : Nat) (f : Recipe → Recipe) :
    (s.modRecipe r f).tick = s.tick := by
  unfold State.modRecipe; split <;> rfl
@[simp] theorem State.modRecipe_samples (r : Nat) (f : Recipe → Recipe) :
    (s.modRecipe r f).samples = s.samples := by
  unfold State.modRecipe; split <;> rfl
@[simp] theorem State.modRecipe_tickSample (r : Nat) (f : Recipe → Recipe) :
    (s.modRecipe r f).tickSample = s.tickSample := by
  unfold State.modRecipe; split <;> rfl
@[simp] theorem State.modRecipe_free (r : Nat) (f : Recipe → Recipe) :
    (s.modRecipe r f).free = s.free := by
  unfold State.modRecipe; split <;> rfl
@[simp] theorem State.modRecipe_slots (r : Nat) (f : Recipe → Recipe) :
    (s.modRecipe r f).slots = s.slots := by
  unfold State.modRecipe; split <;> rfl
@[simp] theorem State.modRecipe_freeList (r : Nat) (f : Recipe → Recipe) :
    (s.modRecipe r f).freeList = s.freeList := by
  unfold State.modRecipe; split <;> rfl
@[simp] theorem State.modRecipe_idMap (r : Nat) (f : Recipe → Recipe) :
    (s.modRecipe r f).idMap = s.idMap := by
  unfold State.modRecipe; split <;> rfl
@[simp] theorem State.modRecipe_pool (r : Nat) (f : Recipe → Recipe) :
    (s.modRecipe r f).pool = s.pool := by
  unfold State.modRecipe; split <;> rfl
@[simp] theorem State.modRecipe_params (r : Nat) (f : Recipe → Recipe) :
    (s.modRecipe r f).params = s.params := by
  unfold State.modRecipe; split <;> rfl
@[simp] theorem State.modRecipe_mode (r : Nat) (f : Recipe → Recipe) :
    (s.modRecipe r f).mode = s.mode := by
  unfold State.modRecipe; split <;> rfl
@[simp] theorem State.modRecipe_flags (r : Nat) (f : Recipe → Recipe) :
    (s.modRecipe r f).flags = s.flags := by
  unfold State.modRecipe; split <;> rfl
@[simp] theorem State.modRecipe_ltk (r : Nat) (f : Recipe → Recipe) :
    (s.modRecipe r f).ltk = s.ltk := by
  unfold State.modRecipe; split <;> rfl
@[simp] theorem State.modRecipe_mvf (r : Nat) (f : Recipe → Recipe) :
    (s.modRecipe r f).mvf = s.mvf := by
  unfold State.modRecipe; split <;> rfl
@[simp] theorem State.modRecipe_pgn (r : Nat) (f : Recipe → Recipe) :
    (s.modRecipe r f).pgn = s.pgn := by
  unfold State.modRecipe; split <;> rfl
@[simp] theorem State.modRecipe_bch (r : Nat) (f : Recipe → Recipe) :
    (s.modRecipe r f).bch = s.bch := by
  unfold State.modRecipe; split <;> rfl
@[simp] theorem State.modRecipe_inputs (r : Nat) (f : Recipe → Recipe) :
    (s.modRecipe r f).inputs = s.inputs := by
  unfold State.modRecipe; split <;> rfl
@[simp] theorem State.modRecipe_port (r : Nat) (f : Recipe → Recipe) :
    (s.modRecipe r f).port = s.port := by
  unfold State.modRecipe; split <;> rfl
@[simp] theorem State.modRecipe_zones (r : Nat) (f : Recipe → Recipe) :
    (s.modRecipe r f).zones = s.zones := by
  unfold State.modRecipe; split <;> rfl
@[simp] theorem State.modRecipe_poll (r : Nat) (f : Recipe → Recipe) :
    (s.modRecipe r f).poll = s.poll := by
  unfold State.modRecipe; split <;> rfl
@[simp] theorem State.modRecipe_slr (r : Nat) (f : Recipe → Recipe) :
    (s.modRecipe r f).slr = s.slr := by
  unfold State.modRecipe; split <;> rfl
@[simp] theorem State.modRecipe_link (r : Nat) (f : Recipe → Recipe) :
    (s.modRecipe r f).link = s.link := by
  unfold State.modRecipe; split <;> rfl

/-! ### modZone -/

@[simp] theorem State.modZone_pending (z : Nat) (f : Zone → Zone) :
    (s.modZone z f).pending = s.pending := by
  unfold State.modZone; split <;> rfl
@[simp] theorem State.modZone_inReset (z : Nat) (f : Zone → Zone) :
    (s.modZone z f).inReset = s.inReset := by
  unfold State.modZone; split <;> rfl
@[simp] theorem State.modZone_tick (z : Nat) (f : Zone → Zone) :
    (s.modZone z f).tick = s.tick := by
  unfold State.modZone; split <;> rfl
@[simp] theorem State.modZone_samples (z : Nat) (f : Zone → Zone) :
    (s.modZone z f).samples = s.samples := by
  unfold State.modZone; split <;> rfl
@[simp] theorem State.modZone_tickSample (z : Nat) (f : Zone → Zone) :
    (s.modZone z f).tickSample = s.tickSample := by
  unfold State.modZone; split <;> rfl
@[simp] theorem State.modZone_free (z : Nat) (f : Zone → Zone) :
    (s.modZone z f).free = s.free := by
  unfold State.modZone; split <;> rfl
@[simp] theorem State.modZone_slots (z : Nat) (f : Zone → Zone) :
    (s.modZone z f).slots = s.slots := by
  unfold State.modZone; split <;> rfl
@[simp] theorem State.modZone_freeList (z : Nat) (f : Zone → Zone) :
    (s.modZone z f).freeList = s.freeList := by
  unfold State.modZone; split <;> rfl
@[simp] theorem State.modZone_idMap (z : Nat) (f : Zone → Zone) :
    (s.modZone z f).idMap = s.idMap := by
  unfold State.modZone; split <;> rfl
@[simp] theorem State.modZone_recipes (z : Nat) (f : Zone → Zone) :
    (s.modZone z f).recipes = s.recipes := by
  unfold State.modZone; split <;> rfl
@[simp] theorem State.modZone_pool (z : Nat) (f : Zone → Zone) :
    (s.modZone z f).pool = s.pool := by
  unfold State.modZone; split <;> rfl
@[simp] theorem State.modZone_params (z : Nat) (f : Zone → Zone) :
    (s.modZone z f).params = s.params := by
  unfold State.modZone; split <;> rfl
@[simp] theorem State.modZone_mode (z : Nat) (f : Zone → Zone) :
    (s.modZone z f).mode = s.mode := by
  unfold State.modZone; split <;> rfl
@[simp] theorem State.modZone_flags (z : Nat) (f : Zone → Zone) :
    (s.modZone z f).flags = s.flags := by
  unfold State.modZone; split <;> rfl
@[simp] theorem State.modZone_ltk (z : Nat) (f : Zone → Zone) :
    (s.modZone z f).ltk = s.ltk := by
  unfold State.modZone; split <;> rfl
@[simp] theorem State.modZone_mvf (z : Nat) (f : Zone → Zone) :
    (s.modZone z f).mvf = s.mvf := by
  unfold State.modZone; split <;> rfl
@[simp] theorem State.modZone_pgn (z : Nat) (f : Zone → Zone) :
    (s.modZone z f).pgn = s.pgn := by
  unfold State.modZone; split <;> rfl
@[simp] theorem State.modZone_bch (z : Nat) (f : Zone → Zone) :
    (s.modZone z f).bch = s.bch := by
  unfold State.modZone; split <;> rfl
@[simp] theorem State.modZone_inputs (z : Nat) (f : Zone → Zone) :
    (s.modZone z f).inputs = s.inputs := by
  unfold State.modZone; split <;> rfl
@[simp] theorem State.modZone_port (z : Nat) (f : Zone → Zone) :
    (s.modZone z f).port = s.port := by
  unfold State.modZone; split <;> rfl
@[simp] theorem State.modZone_poll (z : Nat) (f : Zone → Zone) :
    (s.modZone z f).poll = s.poll := by
  unfold State.modZone; split <;> rfl
@[simp] theorem State.modZone_slr (z : Nat) (f : Zone → Zone) :
    (s.modZone z f).slr = s.slr := by
  unfold State.modZone; split <;> rfl
@[simp] theorem State.modZone_link (z : Nat) (f : Zone → Zone) :
    (s.modZone z f).link = s.link := by
  unfold State.modZone; split <;> rfl

end Sys2Proof.Machine
end

