-- ==== Sys2Proof/Laws/Reads.lean ====
section
/-! SUPPORT. What each named update of `State` leaves of what is read from it: records, recipes and their parts, the
governing hold and the input levels. -/

namespace Sys2Proof.Machine

variable (s : State)

/-! ### modLtk -/

@[simp] theorem State.modLtk_panel (l : LaneNo) (f : LaneTrack → LaneTrack) (g : Nat) :
    (s.modLtk l f).panel g = s.panel g := rfl
@[simp] theorem State.modLtk_recipe (l : LaneNo) (f : LaneTrack → LaneTrack) (q : Nat) :
    (s.modLtk l f).recipe q = s.recipe q := rfl
@[simp] theorem State.modLtk_bodyOf (l : LaneNo) (f : LaneTrack → LaneTrack) (p : Panel) :
    (s.modLtk l f).bodyOf p = s.bodyOf p := rfl
@[simp] theorem State.modLtk_cureProfileOf (l : LaneNo) (f : LaneTrack → LaneTrack) (p : Panel) :
    (s.modLtk l f).cureProfileOf p = s.cureProfileOf p := rfl
@[simp] theorem State.modLtk_maskMapOf (l : LaneNo) (f : LaneTrack → LaneTrack) (p : Panel) :
    (s.modLtk l f).maskMapOf p = s.maskMapOf p := rfl
@[simp] theorem State.modLtk_holdMaskOf (l : LaneNo) (f : LaneTrack → LaneTrack) (p : Panel) :
    (s.modLtk l f).holdMaskOf p = s.holdMaskOf p := rfl
@[simp] theorem State.modLtk_governing (l : LaneNo) (f : LaneTrack → LaneTrack) (g : Nat) :
    (s.modLtk l f).governing g = s.governing g := rfl
@[simp] theorem State.modLtk_inputLevel (l : LaneNo) (f : LaneTrack → LaneTrack) (m : LaneNo) (i : LaneInput) :
    (s.modLtk l f).inputLevel m i = s.inputLevel m i := rfl

/-! ### modMvf -/

@[simp] theorem State.modMvf_panel (l : LaneNo) (f : MaskLane → MaskLane) (g : Nat) :
    (s.modMvf l f).panel g = s.panel g := rfl
@[simp] theorem State.modMvf_recipe (l : LaneNo) (f : MaskLane → MaskLane) (q : Nat) :
    (s.modMvf l f).recipe q = s.recipe q := rfl
@[simp] theorem State.modMvf_bodyOf (l : LaneNo) (f : MaskLane → MaskLane) (p : Panel) :
    (s.modMvf l f).bodyOf p = s.bodyOf p := rfl
@[simp] theorem State.modMvf_cureProfileOf (l : LaneNo) (f : MaskLane → MaskLane) (p : Panel) :
    (s.modMvf l f).cureProfileOf p = s.cureProfileOf p := rfl
@[simp] theorem State.modMvf_maskMapOf (l : LaneNo) (f : MaskLane → MaskLane) (p : Panel) :
    (s.modMvf l f).maskMapOf p = s.maskMapOf p := rfl
@[simp] theorem State.modMvf_holdMaskOf (l : LaneNo) (f : MaskLane → MaskLane) (p : Panel) :
    (s.modMvf l f).holdMaskOf p = s.holdMaskOf p := rfl
@[simp] theorem State.modMvf_governing (l : LaneNo) (f : MaskLane → MaskLane) (g : Nat) :
    (s.modMvf l f).governing g = s.governing g := rfl
@[simp] theorem State.modMvf_inputLevel (l : LaneNo) (f : MaskLane → MaskLane) (m : LaneNo) (i : LaneInput) :
    (s.modMvf l f).inputLevel m i = s.inputLevel m i := rfl

/-! ### modPgn -/

@[simp] theorem State.modPgn_panel (l : LaneNo) (f : Generator → Generator) (g : Nat) :
    (s.modPgn l f).panel g = s.panel g := rfl
@[simp] theorem State.modPgn_recipe (l : LaneNo) (f : Generator → Generator) (q : Nat) :
    (s.modPgn l f).recipe q = s.recipe q := rfl
@[simp] theorem State.modPgn_bodyOf (l : LaneNo) (f : Generator → Generator) (p : Panel) :
    (s.modPgn l f).bodyOf p = s.bodyOf p := rfl
@[simp] theorem State.modPgn_cureProfileOf (l : LaneNo) (f : Generator → Generator) (p : Panel) :
    (s.modPgn l f).cureProfileOf p = s.cureProfileOf p := rfl
@[simp] theorem State.modPgn_maskMapOf (l : LaneNo) (f : Generator → Generator) (p : Panel) :
    (s.modPgn l f).maskMapOf p = s.maskMapOf p := rfl
@[simp] theorem State.modPgn_holdMaskOf (l : LaneNo) (f : Generator → Generator) (p : Panel) :
    (s.modPgn l f).holdMaskOf p = s.holdMaskOf p := rfl
@[simp] theorem State.modPgn_governing (l : LaneNo) (f : Generator → Generator) (g : Nat) :
    (s.modPgn l f).governing g = s.governing g := rfl
@[simp] theorem State.modPgn_inputLevel (l : LaneNo) (f : Generator → Generator) (m : LaneNo) (i : LaneInput) :
    (s.modPgn l f).inputLevel m i = s.inputLevel m i := rfl

/-! ### modBch -/

@[simp] theorem State.modBch_panel (l : LaneNo) (f : Channel → Channel) (g : Nat) :
    (s.modBch l f).panel g = s.panel g := rfl
@[simp] theorem State.modBch_recipe (l : LaneNo) (f : Channel → Channel) (q : Nat) :
    (s.modBch l f).recipe q = s.recipe q := rfl
@[simp] theorem State.modBch_bodyOf (l : LaneNo) (f : Channel → Channel) (p : Panel) :
    (s.modBch l f).bodyOf p = s.bodyOf p := rfl
@[simp] theorem State.modBch_cureProfileOf (l : LaneNo) (f : Channel → Channel) (p : Panel) :
    (s.modBch l f).cureProfileOf p = s.cureProfileOf p := rfl
@[simp] theorem State.modBch_maskMapOf (l : LaneNo) (f : Channel → Channel) (p : Panel) :
    (s.modBch l f).maskMapOf p = s.maskMapOf p := rfl
@[simp] theorem State.modBch_holdMaskOf (l : LaneNo) (f : Channel → Channel) (p : Panel) :
    (s.modBch l f).holdMaskOf p = s.holdMaskOf p := rfl
@[simp] theorem State.modBch_governing (l : LaneNo) (f : Channel → Channel) (g : Nat) :
    (s.modBch l f).governing g = s.governing g := rfl
@[simp] theorem State.modBch_inputLevel (l : LaneNo) (f : Channel → Channel) (m : LaneNo) (i : LaneInput) :
    (s.modBch l f).inputLevel m i = s.inputLevel m i := rfl

/-! ### setSlot -/

@[simp] theorem State.setSlot_recipe (h : Nat) (o : Option Panel) (q : Nat) :
    (s.setSlot h o).recipe q = s.recipe q := rfl
@[simp] theorem State.setSlot_bodyOf (h : Nat) (o : Option Panel) (p : Panel) :
    (s.setSlot h o).bodyOf p = s.bodyOf p := rfl
@[simp] theorem State.setSlot_cureProfileOf (h : Nat) (o : Option Panel) (p : Panel) :
    (s.setSlot h o).cureProfileOf p = s.cureProfileOf p := rfl
@[simp] theorem State.setSlot_maskMapOf (h : Nat) (o : Option Panel) (p : Panel) :
    (s.setSlot h o).maskMapOf p = s.maskMapOf p := rfl
@[simp] theorem State.setSlot_holdMaskOf (h : Nat) (o : Option Panel) (p : Panel) :
    (s.setSlot h o).holdMaskOf p = s.holdMaskOf p := rfl
@[simp] theorem State.setSlot_inputLevel (h : Nat) (o : Option Panel) (m : LaneNo) (i : LaneInput) :
    (s.setSlot h o).inputLevel m i = s.inputLevel m i := rfl

/-! ### putRecipe -/

@[simp] theorem State.putRecipe_panel (r : Nat) (x : Recipe) (g : Nat) :
    (s.putRecipe r x).panel g = s.panel g := rfl
@[simp] theorem State.putRecipe_inputLevel (r : Nat) (x : Recipe) (m : LaneNo) (i : LaneInput) :
    (s.putRecipe r x).inputLevel m i = s.inputLevel m i := rfl

/-! ### raiseFlag -/

@[simp] theorem State.raiseFlag_panel (fl : Flag) (g : Nat) :
    (s.raiseFlag fl).panel g = s.panel g := rfl
@[simp] theorem State.raiseFlag_recipe (fl : Flag) (q : Nat) :
    (s.raiseFlag fl).recipe q = s.recipe q := rfl
@[simp] theorem State.raiseFlag_bodyOf (fl : Flag) (p : Panel) :
    (s.raiseFlag fl).bodyOf p = s.bodyOf p := rfl
@[simp] theorem State.raiseFlag_cureProfileOf (fl : Flag) (p : Panel) :
    (s.raiseFlag fl).cureProfileOf p = s.cureProfileOf p := rfl
@[simp] theorem State.raiseFlag_maskMapOf (fl : Flag) (p : Panel) :
    (s.raiseFlag fl).maskMapOf p = s.maskMapOf p := rfl
@[simp] theorem State.raiseFlag_holdMaskOf (fl : Flag) (p : Panel) :
    (s.raiseFlag fl).holdMaskOf p = s.holdMaskOf p := rfl
@[simp] theorem State.raiseFlag_governing (fl : Flag) (g : Nat) :
    (s.raiseFlag fl).governing g = s.governing g := rfl
@[simp] theorem State.raiseFlag_inputLevel (fl : Flag) (m : LaneNo) (i : LaneInput) :
    (s.raiseFlag fl).inputLevel m i = s.inputLevel m i := rfl

/-! ### keepLevel -/

@[simp] theorem State.keepLevel_panel (l : LaneNo) (k : LaneInput) (v : Bool) (g : Nat) :
    (s.keepLevel l k v).panel g = s.panel g := rfl
@[simp] theorem State.keepLevel_recipe (l : LaneNo) (k : LaneInput) (v : Bool) (q : Nat) :
    (s.keepLevel l k v).recipe q = s.recipe q := rfl
@[simp] theorem State.keepLevel_bodyOf (l : LaneNo) (k : LaneInput) (v : Bool) (p : Panel) :
    (s.keepLevel l k v).bodyOf p = s.bodyOf p := rfl
@[simp] theorem State.keepLevel_cureProfileOf (l : LaneNo) (k : LaneInput) (v : Bool) (p : Panel) :
    (s.keepLevel l k v).cureProfileOf p = s.cureProfileOf p := rfl
@[simp] theorem State.keepLevel_maskMapOf (l : LaneNo) (k : LaneInput) (v : Bool) (p : Panel) :
    (s.keepLevel l k v).maskMapOf p = s.maskMapOf p := rfl
@[simp] theorem State.keepLevel_holdMaskOf (l : LaneNo) (k : LaneInput) (v : Bool) (p : Panel) :
    (s.keepLevel l k v).holdMaskOf p = s.holdMaskOf p := rfl
@[simp] theorem State.keepLevel_governing (l : LaneNo) (k : LaneInput) (v : Bool) (g : Nat) :
    (s.keepLevel l k v).governing g = s.governing g := rfl

/-! ### modSlr -/

@[simp] theorem State.modSlr_panel (f : StationLink → StationLink) (g : Nat) :
    (s.modSlr f).panel g = s.panel g := rfl
@[simp] theorem State.modSlr_recipe (f : StationLink → StationLink) (q : Nat) :
    (s.modSlr f).recipe q = s.recipe q := rfl
@[simp] theorem State.modSlr_bodyOf (f : StationLink → StationLink) (p : Panel) :
    (s.modSlr f).bodyOf p = s.bodyOf p := rfl
@[simp] theorem State.modSlr_cureProfileOf (f : StationLink → StationLink) (p : Panel) :
    (s.modSlr f).cureProfileOf p = s.cureProfileOf p := rfl
@[simp] theorem State.modSlr_maskMapOf (f : StationLink → StationLink) (p : Panel) :
    (s.modSlr f).maskMapOf p = s.maskMapOf p := rfl
@[simp] theorem State.modSlr_holdMaskOf (f : StationLink → StationLink) (p : Panel) :
    (s.modSlr f).holdMaskOf p = s.holdMaskOf p := rfl
@[simp] theorem State.modSlr_governing (f : StationLink → StationLink) (g : Nat) :
    (s.modSlr f).governing g = s.governing g := rfl
@[simp] theorem State.modSlr_inputLevel (f : StationLink → StationLink) (m : LaneNo) (i : LaneInput) :
    (s.modSlr f).inputLevel m i = s.inputLevel m i := rfl

/-! ### writeParams -/

@[simp] theorem State.writeParams_panel (f : Params → Params) (g : Nat) :
    (s.writeParams f).panel g = s.panel g := rfl
@[simp] theorem State.writeParams_recipe (f : Params → Params) (q : Nat) :
    (s.writeParams f).recipe q = s.recipe q := rfl
@[simp] theorem State.writeParams_bodyOf (f : Params → Params) (p : Panel) :
    (s.writeParams f).bodyOf p = s.bodyOf p := rfl
@[simp] theorem State.writeParams_cureProfileOf (f : Params → Params) (p : Panel) :
    (s.writeParams f).cureProfileOf p = s.cureProfileOf p := rfl
@[simp] theorem State.writeParams_maskMapOf (f : Params → Params) (p : Panel) :
    (s.writeParams f).maskMapOf p = s.maskMapOf p := rfl
@[simp] theorem State.writeParams_holdMaskOf (f : Params → Params) (p : Panel) :
    (s.writeParams f).holdMaskOf p = s.holdMaskOf p := rfl
@[simp] theorem State.writeParams_inputLevel (f : Params → Params) (m : LaneNo) (i : LaneInput) :
    (s.writeParams f).inputLevel m i = s.inputLevel m i := rfl

/-! ### atSample -/

@[simp] theorem State.atSample_panel (t : Nat) (g : Nat) :
    (s.atSample t).panel g = s.panel g := rfl
@[simp] theorem State.atSample_recipe (t : Nat) (q : Nat) :
    (s.atSample t).recipe q = s.recipe q := rfl
@[simp] theorem State.atSample_bodyOf (t : Nat) (p : Panel) :
    (s.atSample t).bodyOf p = s.bodyOf p := rfl
@[simp] theorem State.atSample_cureProfileOf (t : Nat) (p : Panel) :
    (s.atSample t).cureProfileOf p = s.cureProfileOf p := rfl
@[simp] theorem State.atSample_maskMapOf (t : Nat) (p : Panel) :
    (s.atSample t).maskMapOf p = s.maskMapOf p := rfl
@[simp] theorem State.atSample_holdMaskOf (t : Nat) (p : Panel) :
    (s.atSample t).holdMaskOf p = s.holdMaskOf p := rfl
@[simp] theorem State.atSample_governing (t : Nat) (g : Nat) :
    (s.atSample t).governing g = s.governing g := rfl
@[simp] theorem State.atSample_inputLevel (t : Nat) (m : LaneNo) (i : LaneInput) :
    (s.atSample t).inputLevel m i = s.inputLevel m i := rfl

/-! ### resumeAssembler -/

@[simp] theorem State.resumeAssembler_panel (g : Nat) :
    (s.resumeAssembler).panel g = s.panel g := rfl
@[simp] theorem State.resumeAssembler_recipe (q : Nat) :
    (s.resumeAssembler).recipe q = s.recipe q := rfl
@[simp] theorem State.resumeAssembler_bodyOf (p : Panel) :
    (s.resumeAssembler).bodyOf p = s.bodyOf p := rfl
@[simp] theorem State.resumeAssembler_cureProfileOf (p : Panel) :
    (s.resumeAssembler).cureProfileOf p = s.cureProfileOf p := rfl
@[simp] theorem State.resumeAssembler_maskMapOf (p : Panel) :
    (s.resumeAssembler).maskMapOf p = s.maskMapOf p := rfl
@[simp] theorem State.resumeAssembler_holdMaskOf (p : Panel) :
    (s.resumeAssembler).holdMaskOf p = s.holdMaskOf p := rfl
@[simp] theorem State.resumeAssembler_governing (g : Nat) :
    (s.resumeAssembler).governing g = s.governing g := rfl
@[simp] theorem State.resumeAssembler_inputLevel (m : LaneNo) (i : LaneInput) :
    (s.resumeAssembler).inputLevel m i = s.inputLevel m i := rfl

/-! ### withEffect -/

@[simp] theorem State.withEffect_panel (r : Response) (g : Nat) :
    (s.withEffect r).panel g = s.panel g := rfl
@[simp] theorem State.withEffect_recipe (r : Response) (q : Nat) :
    (s.withEffect r).recipe q = s.recipe q := rfl
@[simp] theorem State.withEffect_bodyOf (r : Response) (p : Panel) :
    (s.withEffect r).bodyOf p = s.bodyOf p := rfl
@[simp] theorem State.withEffect_cureProfileOf (r : Response) (p : Panel) :
    (s.withEffect r).cureProfileOf p = s.cureProfileOf p := rfl
@[simp] theorem State.withEffect_maskMapOf (r : Response) (p : Panel) :
    (s.withEffect r).maskMapOf p = s.maskMapOf p := rfl
@[simp] theorem State.withEffect_holdMaskOf (r : Response) (p : Panel) :
    (s.withEffect r).holdMaskOf p = s.holdMaskOf p := rfl
@[simp] theorem State.withEffect_governing (r : Response) (g : Nat) :
    (s.withEffect r).governing g = s.governing g := rfl
@[simp] theorem State.withEffect_inputLevel (r : Response) (m : LaneNo) (i : LaneInput) :
    (s.withEffect r).inputLevel m i = s.inputLevel m i := rfl

/-! ### respond -/

@[simp] theorem State.respond_panel (r : Response) (g : Nat) :
    (s.respond r).panel g = s.panel g := rfl
@[simp] theorem State.respond_recipe (r : Response) (q : Nat) :
    (s.respond r).recipe q = s.recipe q := rfl
@[simp] theorem State.respond_bodyOf (r : Response) (p : Panel) :
    (s.respond r).bodyOf p = s.bodyOf p := rfl
@[simp] theorem State.respond_cureProfileOf (r : Response) (p : Panel) :
    (s.respond r).cureProfileOf p = s.cureProfileOf p := rfl
@[simp] theorem State.respond_maskMapOf (r : Response) (p : Panel) :
    (s.respond r).maskMapOf p = s.maskMapOf p := rfl
@[simp] theorem State.respond_holdMaskOf (r : Response) (p : Panel) :
    (s.respond r).holdMaskOf p = s.holdMaskOf p := rfl
@[simp] theorem State.respond_governing (r : Response) (g : Nat) :
    (s.respond r).governing g = s.governing g := rfl
@[simp] theorem State.respond_inputLevel (r : Response) (m : LaneNo) (i : LaneInput) :
    (s.respond r).inputLevel m i = s.inputLevel m i := rfl

/-! ### modPanel -/

@[simp] theorem State.modPanel_recipe (h : Nat) (f : Panel → Panel) (q : Nat) :
    (s.modPanel h f).recipe q = s.recipe q := by
  unfold State.modPanel; split <;> rfl
@[simp] theorem State.modPanel_bodyOf (h : Nat) (f : Panel → Panel) (p : Panel) :
    (s.modPanel h f).bodyOf p = s.bodyOf p := by
  unfold State.modPanel; split <;> rfl
@[simp] theorem State.modPanel_cureProfileOf (h : Nat) (f : Panel → Panel) (p : Panel) :
    (s.modPanel h f).cureProfileOf p = s.cureProfileOf p := by
  unfold State.modPanel; split <;> rfl
@[simp] theorem State.modPanel_maskMapOf (h : Nat) (f : Panel → Panel) (p : Panel) :
    (s.modPanel h f).maskMapOf p = s.maskMapOf p := by
  unfold State.modPanel; split <;> rfl
@[simp] theorem State.modPanel_holdMaskOf (h : Nat) (f : Panel → Panel) (p : Panel) :
    (s.modPanel h f).holdMaskOf p = s.holdMaskOf p := by
  unfold State.modPanel; split <;> rfl
@[simp] theorem State.modPanel_inputLevel (h : Nat) (f : Panel → Panel) (m : LaneNo) (i : LaneInput) :
    (s.modPanel h f).inputLevel m i = s.inputLevel m i := by
  unfold State.modPanel; split <;> rfl

/-! ### modRecipe -/

@[simp] theorem State.modRecipe_panel (r : Nat) (f : Recipe → Recipe) (g : Nat) :
    (s.modRecipe r f).panel g = s.panel g := by
  unfold State.modRecipe; split <;> rfl
@[simp] theorem State.modRecipe_inputLevel (r : Nat) (f : Recipe → Recipe) (m : LaneNo) (i : LaneInput) :
    (s.modRecipe r f).inputLevel m i = s.inputLevel m i := by
  unfold State.modRecipe; split <;> rfl

/-! ### modZone -/

@[simp] theorem State.modZone_panel (z : Nat) (f : Zone → Zone) (g : Nat) :
    (s.modZone z f).panel g = s.panel g := by
  unfold State.modZone; split <;> rfl
@[simp] theorem State.modZone_recipe (z : Nat) (f : Zone → Zone) (q : Nat) :
    (s.modZone z f).recipe q = s.recipe q := by
  unfold State.modZone; split <;> rfl
@[simp] theorem State.modZone_bodyOf (z : Nat) (f : Zone → Zone) (p : Panel) :
    (s.modZone z f).bodyOf p = s.bodyOf p := by
  unfold State.modZone; split <;> rfl
@[simp] theorem State.modZone_cureProfileOf (z : Nat) (f : Zone → Zone) (p : Panel) :
    (s.modZone z f).cureProfileOf p = s.cureProfileOf p := by
  unfold State.modZone; split <;> rfl
@[simp] theorem State.modZone_maskMapOf (z : Nat) (f : Zone → Zone) (p : Panel) :
    (s.modZone z f).maskMapOf p = s.maskMapOf p := by
  unfold State.modZone; split <;> rfl
@[simp] theorem State.modZone_holdMaskOf (z : Nat) (f : Zone → Zone) (p : Panel) :
    (s.modZone z f).holdMaskOf p = s.holdMaskOf p := by
  unfold State.modZone; split <;> rfl
@[simp] theorem State.modZone_governing (z : Nat) (f : Zone → Zone) (g : Nat) :
    (s.modZone z f).governing g = s.governing g := by
  unfold State.modZone; split <;> rfl
@[simp] theorem State.modZone_inputLevel (z : Nat) (f : Zone → Zone) (m : LaneNo) (i : LaneInput) :
    (s.modZone z f).inputLevel m i = s.inputLevel m i := by
  unfold State.modZone; split <;> rfl

end Sys2Proof.Machine
end

