-- ==== Sys2Proof/Laws/Ops.lean ====
section
/-! SUPPORT. One lemma for each shared operation of Ops, Flags, Operands and Holds that says what it does, so that
proofs cite it instead of unfolding the operation. -/

namespace Sys2Proof.Machine

/-! ### Lanes -/

@[simp] theorem otherLane_ne (l : LaneNo) : otherLane l ≠ l := by cases l <;> decide

@[simp] theorem ne_otherLane (l : LaneNo) : l ≠ otherLane l := by cases l <;> decide

@[simp] theorem otherLane_otherLane (l : LaneNo) : otherLane (otherLane l) = l := by cases l <;> rfl

theorem eq_otherLane_of_ne {l k : LaneNo} (h : k ≠ l) : k = otherLane l := by
  cases l <;> cases k <;> simp_all [otherLane]

@[simp] theorem laneOfNat_laneNum (l : LaneNo) : laneOfNat (laneNum l) = some l := by cases l <;> rfl

theorem laneOfNat_eq_none_iff (n : Nat) : laneOfNat n = none ↔ 2 ≤ n := by
  match n with
  | 0 => simp [laneOfNat]
  | 1 => simp [laneOfNat]
  | n + 2 => simp [laneOfNat]

@[simp] theorem PerLane.get_set_self {α : Type} (p : PerLane α) (l : LaneNo) (a : α) : (p.set l a).get l = a := by
  cases l <;> rfl

@[simp] theorem PerLane.get_set_other {α : Type} (p : PerLane α) (l : LaneNo) (a : α) :
    (p.set l a).get (otherLane l) = p.get (otherLane l) := by
  cases l <;> rfl

@[simp] theorem PerLane.get_other_set {α : Type} (p : PerLane α) (l : LaneNo) (a : α) :
    (p.set (otherLane l) a).get l = p.get l := by
  cases l <;> rfl

theorem PerLane.get_set {α : Type} (p : PerLane α) (l k : LaneNo) (a : α) :
    (p.set l a).get k = if k = l then a else p.get k := by
  cases l <;> cases k <;> rfl

@[simp] theorem PerLane.set_get {α : Type} (p : PerLane α) (l : LaneNo) : p.set l (p.get l) = p := by
  cases l <;> rfl

@[simp] theorem PerLane.set_set {α : Type} (p : PerLane α) (l : LaneNo) (a b : α) :
    (p.set l a).set l b = p.set l b := by
  cases l <;> rfl

theorem PerLane.ext_get {α : Type} {p q : PerLane α} (h : ∀ l, p.get l = q.get l) : p = q := by
  have h0 := h .zero
  have h1 := h .one
  cases p; cases q; simp_all [PerLane.get]

/-! ### Record slots -/

theorem State.panel_lt {s : State} {h : Nat} {p : Panel} (e : s.panel h = some p) : h < 48 := by
  by_contra hn
  simp [State.panel, Vector.getElem?_eq_none (Nat.le_of_not_lt hn)] at e

theorem State.panel_setSlot_self {s : State} {h : Nat} (o : Option Panel) (hh : h < 48) :
    (s.setSlot h o).panel h = o := by
  simp [State.panel, State.setSlot, hh]

theorem State.panel_setSlot_ne {s : State} {h k : Nat} (o : Option Panel) (hk : k ≠ h) :
    (s.setSlot h o).panel k = s.panel k := by
  simp [State.panel, State.setSlot, Ne.symm hk]

theorem State.modPanel_of_live {s : State} {h : Nat} {p : Panel} (e : s.panel h = some p) (f : Panel → Panel) :
    s.modPanel h f = s.setSlot h (some (f p)) := by
  simp [State.modPanel, e]

theorem State.modPanel_of_free {s : State} {h : Nat} (e : s.panel h = none) (f : Panel → Panel) :
    s.modPanel h f = s := by
  simp [State.modPanel, e]

/-- A changed record reads back changed. -/
theorem State.panel_modPanel_self (s : State) (h : Nat) (f : Panel → Panel) :
    (s.modPanel h f).panel h = (s.panel h).map f := by
  cases e : s.panel h with
  | none => simp [State.modPanel_of_free e, e]
  | some p => simp [State.modPanel_of_live e, State.panel_setSlot_self _ (State.panel_lt e)]

/-- Every other record is as it was. -/
theorem State.panel_modPanel_ne (s : State) {h k : Nat} (f : Panel → Panel) (hk : k ≠ h) :
    (s.modPanel h f).panel k = s.panel k := by
  cases e : s.panel h with
  | none => simp [State.modPanel_of_free e]
  | some p => simp [State.modPanel_of_live e, State.panel_setSlot_ne _ hk]

theorem State.panel_modPanel (s : State) (h k : Nat) (f : Panel → Panel) :
    (s.modPanel h f).panel k = if k = h then (s.panel k).map f else s.panel k := by
  split
  · subst k; exact s.panel_modPanel_self h f
  · exact s.panel_modPanel_ne f ‹_›

/-- A change of one record leaves everything but the slots, and every other record. -/
theorem State.modPanel_frame (s : State) (h : Nat) (f : Panel → Panel) :
    s.sameButSlots (s.modPanel h f) ∧ s.othersKept (s.modPanel h f) h := by
  refine ⟨?_, fun k hk => s.panel_modPanel_ne f hk⟩
  unfold State.sameButSlots State.modPanel
  split <;> rfl

/-! ### Recipes -/

theorem State.recipe_lt {s : State} {r : Nat} {x : Recipe} (e : s.recipe r = some x) : r < 16 := by
  by_contra hn
  simp [State.recipe, Vector.getElem?_eq_none (Nat.le_of_not_lt hn)] at e

theorem State.modRecipe_of_some {s : State} {r : Nat} {x : Recipe} (e : s.recipe r = some x) (f : Recipe → Recipe) :
    s.modRecipe r f = s.putRecipe r (f x) := by
  simp [State.modRecipe, State.putRecipe, e]

theorem State.modRecipe_of_none {s : State} {r : Nat} (e : s.recipe r = none) (f : Recipe → Recipe) :
    s.modRecipe r f = s := by
  simp [State.modRecipe, e]

theorem State.recipe_putRecipe (s : State) (r k : Nat) (x : Recipe) :
    (s.putRecipe r x).recipe k = if k = r ∧ r < 16 then some x else s.recipe k := by
  simp only [State.recipe, State.putRecipe, Vector.getElem?_setIfInBounds]
  by_cases h : r = k
  · subst k
    by_cases hr : r < 16 <;> simp [hr]
  · simp [h, Ne.symm h]

theorem State.recipe_modRecipe (s : State) (r k : Nat) (f : Recipe → Recipe) :
    (s.modRecipe r f).recipe k = if k = r then (s.recipe k).map f else s.recipe k := by
  cases e : s.recipe r with
  | none =>
    rw [State.modRecipe_of_none e]
    split
    · simp_all
    · rfl
  | some x =>
    rw [State.modRecipe_of_some e, State.recipe_putRecipe]
    have := State.recipe_lt e
    by_cases h : k = r
    · simp [h, this, e]
    · simp [h]

/-! ### The free list -/

theorem mem_insertHandle (h k : Nat) (xs : List Nat) : k ∈ insertHandle h xs ↔ k = h ∨ k ∈ xs := by
  induction xs with
  | nil => simp [insertHandle]
  | cons x xs ih =>
    simp only [insertHandle]
    split <;> simp [ih]
    tauto

theorem length_insertHandle (h : Nat) (xs : List Nat) : (insertHandle h xs).length = xs.length + 1 := by
  induction xs with
  | nil => rfl
  | cons x xs ih =>
    simp only [insertHandle]
    split <;> simp [ih]

theorem sorted_insertHandle {h : Nat} {xs : List Nat} (hs : xs.Pairwise (· < ·)) (hn : h ∉ xs) :
    (insertHandle h xs).Pairwise (· < ·) := by
  induction xs with
  | nil => simp [insertHandle]
  | cons x xs ih =>
    simp only [List.mem_cons, not_or] at hn
    rw [List.pairwise_cons] at hs
    simp only [insertHandle]
    split
    · rename_i hlt
      refine List.pairwise_cons.2 ⟨fun y hy => ?_, List.pairwise_cons.2 hs⟩
      rcases List.mem_cons.1 hy with rfl | hy
      · exact hlt
      · exact Nat.lt_trans hlt (hs.1 y hy)
    · rename_i hlt
      refine List.pairwise_cons.2 ⟨fun y hy => ?_, ih hs.2 hn.2⟩
      rcases (mem_insertHandle h y xs).1 hy with rfl | hy
      · omega
      · exact hs.1 y hy

/-! ### IDs -/

theorem idOk_iff (id : PanelId) :
    idOk id = true ↔ 1 ≤ id.length ∧ id.length ≤ 16 ∧ ∀ c ∈ id, 0x21 ≤ c.toNat ∧ c.toNat ≤ 0x7E := by
  simp [idOk, idCharsOk, and_assoc]

/-! ### Ticks -/

theorem due_iff (now e : Tick) : due now e = true ↔ tickAfter e now = false := by simp [due]

@[simp] theorem State.expired_none (s : State) : s.expired none = false := rfl

@[simp] theorem State.expired_some (s : State) (e : Tick) : s.expired (some e) = due s.tick e := rfl

/-! ### Outcomes -/

theorem whenRunning_run {s : State} (f : State → State) (h : s.inReset = false) : whenRunning f s = .next (f s) := by
  simp [whenRunning, h]

theorem whenRunning_reset {s : State} (f : State → State) (h : s.inReset = true) : whenRunning f s = .next s := by
  simp [whenRunning, h]

theorem takeEffect_in {i : Instr} {f : State → State × Response} {s : State} (h : s.inProcess i = true) :
    takeEffect i f s = .next ((f s).1.withEffect (f s).2) := by
  simp [takeEffect, h, State.withEffect]

theorem takeEffect_out {i : Instr} {f : State → State × Response} {s : State} (h : s.inProcess i = false) :
    takeEffect i f s = .next s := by
  simp [takeEffect, h]

theorem State.inProcess_iff (s : State) (i : Instr) :
    s.inProcess i = true ↔ s.inReset = false ∧ s.link.state = .busy ∧ s.link.effect = none ∧
      ∃ b, s.link.request = some b ∧ decodeRequest b = .request i := by
  unfold State.inProcess
  cases s.link.request <;> simp [and_assoc]

/-- A request in process is accepted when its block answers OK. -/
theorem accepts_of_serve {c : Instr} {f : State → State × Response} {s t : State} {data : List Byte}
    (hx : exec c s = takeEffect c f s) (hp : s.inProcess c = true) (hf : f s = t.answer data) :
    Accepts c s t data := by
  rw [Accepts, hx, takeEffect_in hp, hf]; rfl

/-- A request in process is refused when its block refuses it. -/
theorem refuses_of_serve {c : Instr} {f : State → State × Response} {s : State} {st : Status}
    (hx : exec c s = takeEffect c f s) (hp : s.inProcess c = true) (hf : f s = s.refuse st) : Refuses c s st := by
  rw [Refuses, hx, takeEffect_in hp, hf]; rfl

@[simp] theorem State.answer_fst (s : State) (d : List Byte) : (s.answer d).1 = s := rfl

@[simp] theorem State.answer_snd (s : State) (d : List Byte) : (s.answer d).2 = { status := .ok, data := d } := rfl

@[simp] theorem State.refuse_fst (s : State) (st : Status) : (s.refuse st).1 = s := rfl

@[simp] theorem State.refuse_snd (s : State) (st : Status) : (s.refuse st).2 = { status := st, data := [] } := rfl

/-! ### Sampled inputs -/

theorem State.onEdge_rise {s : State} {l : LaneNo} {k : LaneInput} (ev : State → State)
    (h : s.inputLevel l k = some false) : State.onEdge l k true ev s = ev (s.keepLevel l k true) := by
  simp [State.onEdge, risingEdge, h]

theorem State.onEdge_none {s : State} {l : LaneNo} {k : LaneInput} {v : Bool} (ev : State → State)
    (h : s.inputLevel l k ≠ some false ∨ v = false) : State.onEdge l k v ev s = s.keepLevel l k v := by
  rcases h with h | h <;> simp [State.onEdge, risingEdge, h]

@[simp] theorem LaneInputs.level_sampled (i : LaneInputs) (k : LaneInput) (v : Bool) :
    (i.sampled k v).level k = some v := by
  cases k <;> rfl

theorem LaneInputs.level_sampled_ne (i : LaneInputs) {k m : LaneInput} (v : Bool) (h : m ≠ k) :
    (i.sampled k v).level m = i.level m := by
  cases k <;> cases m <;> first | rfl | exact absurd rfl h

/-! ### Flags and notices -/

theorem Flags.any_iff (f : Flags) : f.any = true ↔ f ≠ Flags.reset := by
  rcases f with ⟨a, b, c, d, e, g⟩
  cases a <;> cases b <;> cases c <;> cases d <;> cases e <;> cases g <;> simp [Flags.any, Flags.reset]

theorem Notices.any_iff (n : Notices) : n.any = true ↔ n ≠ noNotices := by
  rcases n with ⟨a, b, c, d, e, g⟩
  cases a <;> cases b <;> cases c <;> cases d <;> cases e <;> cases g <;> simp [Notices.any, noNotices]

/-! ### Raises -/

/-- A raise changes the hold list, TRUNCATED and notice HOLD_RAISED of its record, and nothing else of it. -/
theorem Panel.raise_frame (prm : Params) (m : HoldMask) (r : HoldReason) (p : Panel) :
    (p.raise prm m r).1 =
      { p with
        holds := (p.raise prm m r).1.holds
        truncated := (p.raise prm m r).1.truncated
        notices := { p.notices with holdRaised := true } } := by
  unfold Panel.raise
  simp only
  split
  · rfl
  · split
    · rfl
    · split
      · rfl
      · split <;> rfl

/-- A raise not passed on changes its record alone. -/
theorem State.raiseQuiet_eq (s : State) (r : HoldReason) (h : Nat) :
    s.raiseQuiet r h = s.modPanel h fun p => (p.raise s.params (s.holdMaskOf p) r).1 := by
  unfold State.raiseQuiet State.modPanel
  split <;> simp_all

/-- What a channel's hold question can do: nothing, or ABORTING. -/
theorem State.askAbort_cases (s : State) (l : LaneNo) :
    s.askAbort l = s ∨ s.askAbort l = s.modBch l fun c => { c with state := .aborting } := by
  unfold State.askAbort
  split
  · exact .inl rfl
  · split
    · exact .inr rfl
    · exact .inl rfl

theorem State.tellBooth_cases (s : State) (h : Nat) :
    s.tellBooth h = s ∨ ∃ l, s.tellBooth h = s.modBch l fun c => { c with state := .aborting } := by
  unfold State.tellBooth
  split
  · exact .inl rfl
  · split
    · rcases s.askAbort_cases (by assumption : Panel).lane with h | h
      · exact .inl h
      · exact .inr ⟨_, h⟩
    · exact .inl rfl

/-- A raise leaves everything but the record slots and the booth channels. -/
theorem State.raise_frame (s : State) (r : HoldReason) (h : Nat) :
    s.raise r h = { s with slots := (s.raise r h).slots, bch := (s.raise r h).bch } := by
  unfold State.raise
  rw [State.raiseQuiet_eq]
  rcases State.tellBooth_cases (s.modPanel h fun p => (p.raise s.params (s.holdMaskOf p) r).1) h with e | ⟨l, e⟩ <;>
    rw [e] <;> unfold State.modPanel <;> split <;> rfl

/-- A raise changes its record by R159 and R160, and no other. -/
theorem State.panel_raise (s : State) (r : HoldReason) (h k : Nat) :
    (s.raise r h).panel k =
      if k = h then (s.panel k).map fun p => (p.raise s.params (s.holdMaskOf p) r).1 else s.panel k := by
  unfold State.raise
  rw [State.raiseQuiet_eq]
  rcases State.tellBooth_cases (s.modPanel h fun p => (p.raise s.params (s.holdMaskOf p) r).1) h with e | ⟨l, e⟩ <;>
    rw [e] <;> simp [State.panel_modPanel]

end Sys2Proof.Machine
end

