-- ==== Sys2Proof/Laws/Frames.lean ====
section
/-! SUPPORT. Frames of the shared operations: which part of the state each one can change. `boothRest` is the state
without what a booth channel's operations write, `lineRest` the state without what the line's operations write; that
an operation leaves a field alone follows by `congrArg`. -/

namespace Sys2Proof.Machine

/-- The state with everything blanked that a booth channel's operations write: records, lanes, generators, channels
and the gantry port. -/
def State.boothRest (s : State) : State :=
  { s with slots := State.reset.slots, ltk := State.reset.ltk, pgn := State.reset.pgn, bch := State.reset.bch,
           port := none }

/-- The state with everything blanked that the line's operations write: also the mask verifier's lanes, the sticky
flags and the recipes' reference counts. -/
def State.lineRest (s : State) : State :=
  { s.boothRest with mvf := State.reset.mvf, flags := State.reset.flags, recipes := State.reset.recipes }

theorem State.lineRest_of_boothRest {s t : State} (h : t.boothRest = s.boothRest) : t.lineRest = s.lineRest := by
  simp only [State.lineRest, h]

/-! ### Named updates -/

section
variable (s : State)

@[simp] theorem State.modLtk_boothRest (l : LaneNo) (f : LaneTrack → LaneTrack) :
    (s.modLtk l f).boothRest = s.boothRest := rfl
@[simp] theorem State.modPgn_boothRest (l : LaneNo) (f : Generator → Generator) :
    (s.modPgn l f).boothRest = s.boothRest := rfl
@[simp] theorem State.modBch_boothRest (l : LaneNo) (f : Channel → Channel) :
    (s.modBch l f).boothRest = s.boothRest := rfl
@[simp] theorem State.setSlot_boothRest (h : Nat) (o : Option Panel) :
    (s.setSlot h o).boothRest = s.boothRest := rfl
@[simp] theorem State.modPanel_boothRest (h : Nat) (f : Panel → Panel) :
    (s.modPanel h f).boothRest = s.boothRest := by
  unfold State.modPanel; split <;> rfl
@[simp] theorem State.port_boothRest (o : Option GantryFrame) :
    { s with port := o }.boothRest = s.boothRest := rfl

@[simp] theorem State.modLtk_lineRest (l : LaneNo) (f : LaneTrack → LaneTrack) :
    (s.modLtk l f).lineRest = s.lineRest := rfl
@[simp] theorem State.modMvf_lineRest (l : LaneNo) (f : MaskLane → MaskLane) :
    (s.modMvf l f).lineRest = s.lineRest := rfl
@[simp] theorem State.modPgn_lineRest (l : LaneNo) (f : Generator → Generator) :
    (s.modPgn l f).lineRest = s.lineRest := rfl
@[simp] theorem State.modBch_lineRest (l : LaneNo) (f : Channel → Channel) :
    (s.modBch l f).lineRest = s.lineRest := rfl
@[simp] theorem State.setSlot_lineRest (h : Nat) (o : Option Panel) : (s.setSlot h o).lineRest = s.lineRest := rfl
@[simp] theorem State.raiseFlag_lineRest (fl : Flag) : (s.raiseFlag fl).lineRest = s.lineRest := rfl
@[simp] theorem State.modPanel_lineRest (h : Nat) (f : Panel → Panel) : (s.modPanel h f).lineRest = s.lineRest := by
  unfold State.modPanel; split <;> rfl
@[simp] theorem State.modRecipe_lineRest (r : Nat) (f : Recipe → Recipe) :
    (s.modRecipe r f).lineRest = s.lineRest := by
  unfold State.modRecipe; split <;> rfl

/-! ### Raises -/

@[simp] theorem State.raiseQuiet_boothRest (r : HoldReason) (h : Nat) :
    (s.raiseQuiet r h).boothRest = s.boothRest := by
  simp [State.raiseQuiet_eq]

@[simp] theorem State.askAbort_boothRest (l : LaneNo) : (s.askAbort l).boothRest = s.boothRest := by
  rcases s.askAbort_cases l with h | h <;> simp [h]

@[simp] theorem State.tellBooth_boothRest (h : Nat) : (s.tellBooth h).boothRest = s.boothRest := by
  rcases s.tellBooth_cases h with e | ⟨l, e⟩ <;> simp [e]

@[simp] theorem State.raise_boothRest (r : HoldReason) (h : Nat) : (s.raise r h).boothRest = s.boothRest := by
  simp [State.raise]

@[simp] theorem State.raise_lineRest (r : HoldReason) (h : Nat) : (s.raise r h).lineRest = s.lineRest :=
  State.lineRest_of_boothRest (s.raise_boothRest r h)

end

@[simp] theorem State.raiseAll_lineRest (r : HoldReason) (hs : List Nat) (s : State) :
    (s.raiseAll r hs).lineRest = s.lineRest := by
  unfold State.raiseAll
  induction hs generalizing s with
  | nil => rfl
  | cons h hs ih => simp [List.foldl_cons, ih]

/-! ### The generator and the booth channel -/

section
variable (s : State) (l : LaneNo)

@[simp] theorem State.nextOrder_boothRest : (s.nextOrder l).1.boothRest = s.boothRest := by
  unfold State.nextOrder
  simp only
  split
  · rfl
  · split
    · rfl
    · split
      · rfl
      · split <;> simp

@[simp] theorem State.parkOrder_boothRest : (s.parkOrder l).1.boothRest = s.boothRest := by
  simp [State.parkOrder]

@[simp] theorem State.startGenerator_boothRest (h coat : Nat) :
    (s.startGenerator l h coat).boothRest = s.boothRest := rfl

@[simp] theorem State.idleGenerator_boothRest : (s.idleGenerator l).boothRest = s.boothRest := rfl

@[simp] theorem State.send_boothRest : (s.send l).boothRest = s.boothRest := by
  unfold State.send
  split <;> rfl

@[simp] theorem State.offer_boothRest (o : MoveOrder) : (s.offer l o).boothRest = s.boothRest := by
  unfold State.offer
  simp only
  split <;> simp

@[simp] theorem State.portEnd_boothRest : s.portEnd.boothRest = s.boothRest := by
  unfold State.portEnd
  split
  · rfl
  · simp only
    split
    · simp
    · split <;> simp

@[simp] theorem State.channelIdle_boothRest : (s.channelIdle l).boothRest = s.boothRest := rfl

@[simp] theorem State.flashAfterPass_boothRest (h : Nat) : (s.flashAfterPass h).boothRest = s.boothRest := by
  unfold State.flashAfterPass
  split
  · rfl
  · split
    · rfl
    · split <;> simp

@[simp] theorem State.parkDone_boothRest : (s.parkDone l).boothRest = s.boothRest := by
  unfold State.parkDone
  split <;> simp

@[simp] theorem State.enterPark_boothRest : (s.enterPark l).boothRest = s.boothRest := by
  unfold State.enterPark
  simp only
  split <;> simp

@[simp] theorem State.askNext_boothRest : (s.askNext l).boothRest = s.boothRest := by
  unfold State.askNext
  simp only
  split <;> simp

@[simp] theorem State.startCoat_boothRest : (s.startCoat l).boothRest = s.boothRest := by
  unfold State.startCoat
  split
  · rfl
  · simp

@[simp] theorem State.nextCoat_boothRest : (s.nextCoat l).boothRest = s.boothRest := by
  unfold State.nextCoat
  split
  · rfl
  · split <;> simp

@[simp] theorem State.endCoat_boothRest : (s.endCoat l).boothRest = s.boothRest := by
  unfold State.endCoat
  split
  · rfl
  · split
    · rfl
    · split
      · rfl
      · simp only
        split <;> split <;> (try split) <;> simp

@[simp] theorem State.accountOrder_boothRest (h : Nat) (o : MoveOrder) (flow : Nat) :
    (s.accountOrder h o flow).boothRest = s.boothRest := by
  unfold State.accountOrder
  simp only
  split <;> split <;> simp

@[simp] theorem State.afterOrder_boothRest (h : Nat) (o : MoveOrder) :
    (s.afterOrder l h o).boothRest = s.boothRest := by
  unfold State.afterOrder
  split
  · simp
  · split <;> simp

@[simp] theorem State.completeOrder_boothRest : (s.completeOrder l).boothRest = s.boothRest := by
  unfold State.completeOrder
  simp only
  split
  · split <;> simp
  · rfl

@[simp] theorem State.enterFault_boothRest : (s.enterFault l).boothRest = s.boothRest := by
  unfold State.enterFault
  simp only
  split <;> simp

@[simp] theorem State.takeAtBooth_boothRest (h : Nat) : (s.takeAtBooth l h).boothRest = s.boothRest := by
  unfold State.takeAtBooth
  simp only
  split <;> simp

@[simp] theorem State.arriveBooth_boothRest (h : Nat) : (s.arriveBooth l h).boothRest = s.boothRest := by
  unfold State.arriveBooth
  split
  · rfl
  · split
    · split <;> simp
    · rfl

@[simp] theorem State.settled_boothRest : (s.settled l).boothRest = s.boothRest := by
  unfold State.settled
  split
  · rfl
  · split
    · split <;> simp
    · rfl

/-! ### The line -/

@[simp] theorem State.faultCause_lineRest : (s.faultCause l).lineRest = s.lineRest := by
  unfold State.faultCause
  simp only
  split <;> simp

@[simp] theorem State.divert_lineRest (g : DivertGate) (h : Nat) : (s.divert l g h).lineRest = s.lineRest := by
  simp [State.divert]

@[simp] theorem State.endWindow_lineRest (h : Nat) : (s.endWindow h).lineRest = s.lineRest := by
  unfold State.endWindow
  split
  · rfl
  · simp [State.leaveInspecting]

@[simp] theorem State.trigger_lineRest (h : Nat) : (s.trigger l h).lineRest = s.lineRest := by
  unfold State.trigger State.owePulse State.reuseTag
  simp only [State.modMvf_lineRest, State.modPanel_lineRest]
  split <;> simp

@[simp] theorem State.maskStation_lineRest (h : Nat) : (s.maskStation l h).lineRest = s.lineRest := by
  unfold State.maskStation
  split
  · rfl
  · split
    · simp
    · split <;> simp

@[simp] theorem State.exitDecision_lineRest (h : Nat) : (s.exitDecision h).lineRest = s.lineRest := by
  unfold State.exitDecision
  split
  · rfl
  · split
    · split <;> simp
    · rfl

@[simp] theorem State.arrive_lineRest (a : StationNo × Nat) : (s.arrive l a).lineRest = s.lineRest := by
  obtain ⟨st, h⟩ := a
  cases st <;> simp only [State.arrive]
  · unfold State.closeIdWindow State.leaveEntered
    split
    · rfl
    · split
      · simp only
        split <;> simp
      · rfl
  · unfold State.arriveMask State.addRef
    split
    · rfl
    · split
      · split
        · simp
        · split <;> simp
      · rfl
  · unfold State.arriveDivertA State.endOpenWindow
    simp only
    split <;> (try split) <;> (try split) <;> simp
  · exact State.lineRest_of_boothRest (s.arriveBooth_boothRest l h)
  · unfold State.arriveDivertB
    split
    · rfl
    · split
      · simp
      · split <;> simp
  · unfold State.arriveFlash
    split
    · rfl
    · split
      · rfl
      · split <;> simp
  · unfold State.missTransfer
    split <;> simp
  · unfold State.arriveOvenOut
    split
    · rfl
    · split <;> simp
  · unfold State.missUnload
    split <;> simp

end

end Sys2Proof.Machine
end

