-- ==== Sys2Proof/Laws/Line.lean ====
section
/-! SUPPORT. What the line's operations do to the records and the lists they stand in (`State.lineOk`): `lineView` is
all that the invariant reads, so an operation that leaves the view alone keeps it; the other operations have a lemma
each that says that they keep it. -/

namespace Sys2Proof.Machine

/-! ### What the invariant reads -/

/-- What the invariant reads of a record. -/
structure PanelKey where
  lane : LaneNo
  stage : Stage
  place : Option Place
  tag : Option (BitVec 4)
  flash : Option Tick

/-- The key of a record. -/
def panelKey (p : Panel) : PanelKey :=
  { lane := p.lane, stage := p.stage, place := p.place, tag := p.inspectTag, flash := p.flashEnd }

/-- What the invariant reads of a state. -/
structure LineView where
  inReset : Bool
  keys : Nat → Option PanelKey
  front : LaneNo → List Nat
  oven : LaneNo → List Nat
  reentry : LaneNo → List Nat
  inspecting : LaneNo → List Nat
  served : LaneNo → Option Nat
  offsets : Vector Nat 14
  tolerance : Nat
  mode : LineMode

/-- What the invariant reads of a state. -/
def State.lineView (s : State) : LineView :=
  { inReset := s.inReset
    keys := fun h => (s.panel h).map panelKey
    front := fun l => (s.ltk.get l).front
    oven := fun l => (s.ltk.get l).oven
    reentry := fun l => (s.ltk.get l).reentry
    inspecting := fun l => (s.mvf.get l).inspecting.map Window.handle
    served := fun l => (s.bch.get l).served
    offsets := s.params.offsets
    tolerance := s.params.eyeTolerance
    mode := s.mode }

section
variable {s t : State}

theorem key_of_view (h : t.lineView = s.lineView) (k : Nat) :
    (t.panel k).map panelKey = (s.panel k).map panelKey := congrFun (congrArg LineView.keys h) k

/-- Records of equal views answer to each other. -/
theorem panel_of_view (h : t.lineView = s.lineView) {k : Nat} {q : Panel} (hq : t.panel k = some q) :
    ∃ p, s.panel k = some p ∧ panelKey q = panelKey p := by
  have := key_of_view h k
  rw [hq] at this
  cases e : s.panel k with
  | none => simp [e] at this
  | some p => simp [e] at this; exact ⟨p, rfl, this⟩

theorem placedRight_of_key {p q : Panel} (h : panelKey q = panelKey p) : placedRight q ↔ placedRight p := by
  simp only [panelKey, PanelKey.mk.injEq] at h
  obtain ⟨-, h2, h3, h4, h5⟩ := h
  simp only [placedRight, h2, h3, h4, h5]

theorem standsOn_of_key {p q : Panel} (h : panelKey q = panelKey p) (sec : LineSection) (l : LaneNo) :
    standsOn sec l q ↔ standsOn sec l p := by
  simp only [panelKey, PanelKey.mk.injEq] at h
  simp only [standsOn, h.1, h.2.2.1]

theorem staged_of_key {p q : Panel} (h : panelKey q = panelKey p) (st : Stage) (l : LaneNo) :
    staged st l q ↔ staged st l p := by
  simp only [panelKey, PanelKey.mk.injEq] at h
  simp only [staged, h.1, h.2.1]

end

/-! ### The invariant with open arrivals -/

/-- The line's invariant out of reset, where the records of `ex` may stand at DIVERT_A while INSPECTING: their arrival
there is still to be handled (R90). -/
structure LineEx (s : State) (ex : Nat → Prop) : Prop where
  placed : ∀ h p, s.panel h = some p → placedRight p
  front : s.lists (fun l => (s.ltk.get l).front) (standsOn .front)
  oven : s.lists (fun l => (s.ltk.get l).oven) (standsOn .oven)
  reentry : s.lists (fun l => (s.ltk.get l).reentry) (staged .reentering)
  inspecting : s.lists (fun l => (s.mvf.get l).inspecting.map Window.handle) (staged .inspecting)
  tags : s.tagsDistinct
  served : s.servedInBooth
  before : ∀ h p pl, s.panel h = some p → p.stage = .inspecting → p.place = some pl →
    pl.pos < s.params.offset .divertA ∨ (pl.pos = s.params.offset .divertA ∧ ex h)
  stations : s.stationsInOrder

theorem lineOk_iff (s : State) : s.lineOk ↔ (s.inReset = false → LineEx s fun _ => False) := by
  constructor
  · intro h hr
    obtain ⟨h1, h2, h3, h4, h5, h6, h7, h8, h9⟩ := h hr
    exact ⟨h1, h2, h3, h4, h5, h6, h7, fun h p pl a b c => .inl (h8 h p pl a b c), h9⟩
  · intro h hr
    obtain ⟨h1, h2, h3, h4, h5, h6, h7, h8, h9⟩ := h hr
    exact ⟨h1, h2, h3, h4, h5, h6, h7, fun h p pl a b c => (h8 h p pl a b c).resolve_right fun x => x.2, h9⟩

theorem LineEx.mono {s : State} {ex ex' : Nat → Prop} (h : LineEx s ex) (hx : ∀ k, ex k → ex' k) : LineEx s ex' :=
  { h with before := fun k p pl a b c => (h.before k p pl a b c).imp_right fun x => ⟨x.1, hx k x.2⟩ }

theorem lists_of_view {s t : State} (h : t.lineView = s.lineView) {f : LaneNo → List Nat}
    {kind : LaneNo → Panel → Prop} (hk : ∀ l p q, panelKey q = panelKey p → (kind l q ↔ kind l p))
    (hs : s.lists f kind) : t.lists f kind := by
  intro l
  refine ⟨(hs l).1, fun k => ((hs l).2 k).trans ?_⟩
  constructor
  · rintro ⟨p, hp, hpk⟩
    obtain ⟨q, hq, e⟩ := panel_of_view h.symm hp
    exact ⟨q, hq, (hk l q p e).1 hpk⟩
  · rintro ⟨p, hp, hpk⟩
    obtain ⟨q, hq, e⟩ := panel_of_view h hp
    exact ⟨q, hq, (hk l q p e).1 hpk⟩

/-- An operation that leaves the view alone keeps the invariant. -/
theorem LineEx.of_view {s t : State} {ex : Nat → Prop} (h : t.lineView = s.lineView) (hs : LineEx s ex) :
    LineEx t ex := by
  have hf : (fun l => (t.ltk.get l).front) = fun l => (s.ltk.get l).front := congrArg LineView.front h
  have ho : (fun l => (t.ltk.get l).oven) = fun l => (s.ltk.get l).oven := congrArg LineView.oven h
  have hr : (fun l => (t.ltk.get l).reentry) = fun l => (s.ltk.get l).reentry := congrArg LineView.reentry h
  have hi : (fun l => (t.mvf.get l).inspecting.map Window.handle) =
      fun l => (s.mvf.get l).inspecting.map Window.handle := congrArg LineView.inspecting h
  have hv : ∀ l, (t.bch.get l).served = (s.bch.get l).served := fun l => congrFun (congrArg LineView.served h) l
  have hp : t.params.offsets = s.params.offsets := congrArg LineView.offsets h
  have ht : t.params.eyeTolerance = s.params.eyeTolerance := congrArg LineView.tolerance h
  have hm : t.mode = s.mode := congrArg LineView.mode h
  have hoff : ∀ o, t.params.offset o = s.params.offset o := fun o => by simp only [Params.offset, hp]
  refine ⟨?_, ?_, ?_, ?_, ?_, ?_, ?_, ?_, ?_⟩
  · intro k q hq
    obtain ⟨p, hp, e⟩ := panel_of_view h hq
    exact (placedRight_of_key e).2 (hs.placed k p hp)
  · rw [hf]; exact lists_of_view h (fun l p q e => standsOn_of_key e _ l) hs.front
  · rw [ho]; exact lists_of_view h (fun l p q e => standsOn_of_key e _ l) hs.oven
  · rw [hr]; exact lists_of_view h (fun l p q e => staged_of_key e _ l) hs.reentry
  · rw [hi]; exact lists_of_view h (fun l p q e => staged_of_key e _ l) hs.inspecting
  · intro a b p q ha hb h1 h2 h3 h4
    obtain ⟨p', hp', e⟩ := panel_of_view h ha
    obtain ⟨q', hq', e'⟩ := panel_of_view h hb
    simp only [panelKey, PanelKey.mk.injEq] at e e'
    exact hs.tags a b p' q' hp' hq' (e.2.1 ▸ h1) (e'.2.1 ▸ h2) (by rw [← e.1, ← e'.1]; exact h3)
      (by rw [← e.2.2.2.1, ← e'.2.2.2.1]; exact h4)
  · intro l k hk
    rw [hv] at hk
    obtain ⟨p, pl, h1, h2, h3, h4, h5, h6⟩ := hs.served l k hk
    obtain ⟨q, hq, e⟩ := panel_of_view h.symm h1
    simp only [panelKey, PanelKey.mk.injEq] at e
    exact ⟨q, pl, hq, e.1 ▸ h2, e.2.2.1 ▸ h3, h4, by rw [hoff]; exact h5, e.2.1 ▸ h6⟩
  · intro k q pl hq h1 h2
    obtain ⟨p, hp', e⟩ := panel_of_view h hq
    simp only [panelKey, PanelKey.mk.injEq] at e
    rw [hoff]
    exact hs.before k p pl hp' (e.2.1 ▸ h1) (e.2.2.1 ▸ h2)
  · intro hrun
    rw [hm] at hrun
    simp only [hoff, ht]
    exact hs.stations hrun

/-! ### Operations that leave the view alone -/

section
variable (s : State)

theorem lineView_modPanel (h : Nat) (f : Panel → Panel) (hf : ∀ p, s.panel h = some p → panelKey (f p) = panelKey p) :
    (s.modPanel h f).lineView = s.lineView := by
  have hk : (fun k => ((s.modPanel h f).panel k).map panelKey) = fun k => (s.panel k).map panelKey := by
    funext k
    rw [State.panel_modPanel]
    split
    · subst k
      cases e : s.panel h with
      | none => rfl
      | some p => simp [hf p e]
    · rfl
  unfold State.lineView
  rw [hk]
  unfold State.modPanel
  split <;> rfl

theorem lineView_modLtk (l : LaneNo) (f : LaneTrack → LaneTrack)
    (hf : (f (s.ltk.get l)).front = (s.ltk.get l).front ∧ (f (s.ltk.get l)).oven = (s.ltk.get l).oven ∧
      (f (s.ltk.get l)).reentry = (s.ltk.get l).reentry) : (s.modLtk l f).lineView = s.lineView := by
  have : ∀ k, ((s.modLtk l f).ltk.get k).front = (s.ltk.get k).front ∧
      ((s.modLtk l f).ltk.get k).oven = (s.ltk.get k).oven ∧
      ((s.modLtk l f).ltk.get k).reentry = (s.ltk.get k).reentry := by
    intro k
    simp only [State.modLtk, PerLane.get_set]
    split
    · subst k; exact hf
    · exact ⟨rfl, rfl, rfl⟩
  unfold State.lineView
  simp only [(this _).1, (this _).2.1, (this _).2.2]
  rfl

theorem lineView_modMvf (l : LaneNo) (f : MaskLane → MaskLane)
    (hf : (f (s.mvf.get l)).inspecting = (s.mvf.get l).inspecting) : (s.modMvf l f).lineView = s.lineView := by
  have : ∀ k, ((s.modMvf l f).mvf.get k).inspecting = (s.mvf.get k).inspecting := by
    intro k
    simp only [State.modMvf, PerLane.get_set]
    split
    · subst k; exact hf
    · rfl
  unfold State.lineView
  simp only [this]
  rfl

theorem lineView_modBch (l : LaneNo) (f : Channel → Channel)
    (hf : (f (s.bch.get l)).served = (s.bch.get l).served) : (s.modBch l f).lineView = s.lineView := by
  have : ∀ k, ((s.modBch l f).bch.get k).served = (s.bch.get k).served := by
    intro k
    simp only [State.modBch, PerLane.get_set]
    split
    · subst k; exact hf
    · rfl
  unfold State.lineView
  simp only [this]
  rfl

@[simp] theorem lineView_modPgn (l : LaneNo) (f : Generator → Generator) : (s.modPgn l f).lineView = s.lineView := rfl

@[simp] theorem lineView_raiseFlag (f : Flag) : (s.raiseFlag f).lineView = s.lineView := rfl

@[simp] theorem lineView_keepLevel (l : LaneNo) (k : LaneInput) (v : Bool) :
    (s.keepLevel l k v).lineView = s.lineView := rfl

@[simp] theorem lineView_modRecipe (r : Nat) (f : Recipe → Recipe) : (s.modRecipe r f).lineView = s.lineView := by
  unfold State.modRecipe; split <;> rfl

@[simp] theorem lineView_raiseQuiet (r : HoldReason) (h : Nat) : (s.raiseQuiet r h).lineView = s.lineView := by
  rw [State.raiseQuiet_eq]
  exact lineView_modPanel s h _ fun p _ => by rw [Panel.raise_frame]; rfl

@[simp] theorem lineView_tellBooth (h : Nat) : (s.tellBooth h).lineView = s.lineView := by
  rcases State.tellBooth_cases s h with e | ⟨l, e⟩ <;> rw [e]
  exact lineView_modBch s l _ rfl

@[simp] theorem lineView_raise (r : HoldReason) (h : Nat) : (s.raise r h).lineView = s.lineView := by
  unfold State.raise; simp

@[simp] theorem lineView_raiseAll (r : HoldReason) (hs : List Nat) (s : State) :
    (s.raiseAll r hs).lineView = s.lineView := by
  unfold State.raiseAll
  induction hs generalizing s with
  | nil => rfl
  | cons h hs ih => rw [List.foldl_cons, ih, lineView_raise]

@[simp] theorem lineView_faultCause (l : LaneNo) : (s.faultCause l).lineView = s.lineView := by
  unfold State.faultCause
  simp only
  split
  · rw [lineView_raiseAll, lineView_modLtk _ _ _ ⟨rfl, rfl, rfl⟩, lineView_raiseFlag]
  · rfl

end

/-! ### One record moves -/

/-- A list that holds exactly the records of a kind goes on doing so when one slot and the lists change together. -/
theorem lists_update {s t : State} {f g : LaneNo → List Nat} {kind : LaneNo → Panel → Prop} {h : Nat}
    (hs : s.lists f kind) (hp : ∀ k, k ≠ h → t.panel k = s.panel k) (hn : ∀ l, (g l).Nodup)
    (hk : ∀ l k, k ≠ h → (k ∈ g l ↔ k ∈ f l)) (hh : ∀ l, h ∈ g l ↔ ∃ p, t.panel h = some p ∧ kind l p) :
    t.lists g kind := by
  refine fun l => ⟨hn l, fun k => ?_⟩
  by_cases e : k = h
  · subst k; exact hh l
  · rw [hk l k e, hp k e]; exact (hs l).2 k

/-- The lists of a kind that the moved record neither leaves nor joins. -/
theorem lists_same {s t : State} {f : LaneNo → List Nat} {kind : LaneNo → Panel → Prop} {h : Nat}
    (hs : s.lists f kind) (hp : ∀ k, k ≠ h → t.panel k = s.panel k)
    (hh : ∀ l, (∃ p, s.panel h = some p ∧ kind l p) ↔ ∃ p, t.panel h = some p ∧ kind l p) : t.lists f kind :=
  lists_update hs hp (fun l => (hs l).1) (fun _ _ _ => Iff.rfl) fun l => ((hs l).2 h).trans (hh l)

/-- The invariant after one slot changes, with whatever lists change with it. -/
theorem LineEx.move {s t : State} {ex ex' : Nat → Prop} {h : Nat} (hs : LineEx s ex)
    (hex : ∀ k, k ≠ h → ex k → ex' k) (hp : ∀ k, k ≠ h → t.panel k = s.panel k) (hprm : t.params = s.params) (hm : t.mode = s.mode)
    (hfront : t.lists (fun l => (t.ltk.get l).front) (standsOn .front))
    (hoven : t.lists (fun l => (t.ltk.get l).oven) (standsOn .oven))
    (hre : t.lists (fun l => (t.ltk.get l).reentry) (staged .reentering))
    (hin : t.lists (fun l => (t.mvf.get l).inspecting.map Window.handle) (staged .inspecting))
    (hplaced : ∀ q, t.panel h = some q → placedRight q)
    (htag : ∀ q, t.panel h = some q → q.stage = .inspecting → ∀ k p, k ≠ h → s.panel k = some p →
      p.stage = .inspecting → p.lane = q.lane → p.inspectTag ≠ q.inspectTag)
    (hserved : ∀ l k, (t.bch.get l).served = some k → (k ≠ h → (s.bch.get l).served = some k) ∧
      (k = h → ∃ q pl, t.panel h = some q ∧ q.lane = l ∧ q.place = some pl ∧ pl.sect = .front ∧
        s.params.offset .booth ≤ pl.pos ∧ (q.stage = .verified ∨ q.stage = .spraying)))
    (hbefore : ∀ q pl, t.panel h = some q → q.stage = .inspecting → q.place = some pl →
      pl.pos < s.params.offset .divertA ∨ (pl.pos = s.params.offset .divertA ∧ ex' h)) : LineEx t ex' := by
  refine ⟨?_, hfront, hoven, hre, hin, ?_, ?_, ?_, ?_⟩
  · intro k p e
    by_cases hk : k = h
    · subst k; exact hplaced p e
    · rw [hp k hk] at e; exact hs.placed k p e
  · intro a b p q ha hb h1 h2 h3 h4
    by_cases ea : a = h <;> by_cases eb : b = h
    · rw [ea, eb]
    · subst a
      rw [hp b eb] at hb
      exact absurd h4.symm (htag p ha h1 b q eb hb h2 h3.symm)
    · subst b
      rw [hp a ea] at ha
      exact absurd h4 (htag q hb h2 a p ea ha h1 h3)
    · rw [hp a ea] at ha; rw [hp b eb] at hb
      exact hs.tags a b p q ha hb h1 h2 h3 h4
  · intro l k e
    obtain ⟨h1, h2⟩ := hserved l k e
    by_cases hk : k = h
    · subst k
      obtain ⟨q, pl, a, b, c, d, e, f⟩ := h2 rfl
      exact ⟨q, pl, a, b, c, d, by rw [hprm]; exact e, f⟩
    · obtain ⟨q, pl, a, b, c, d, e, f⟩ := hs.served l k (h1 hk)
      exact ⟨q, pl, by rw [hp k hk]; exact a, b, c, d, by rw [hprm]; exact e, f⟩
  · intro k p pl e h1 h2
    rw [hprm]
    by_cases hk : k = h
    · subst k; exact hbefore p pl e h1 h2
    · rw [hp k hk] at e
      exact (hs.before k p pl e h1 h2).imp_right fun x => ⟨x.1, hex k hk x.2⟩
  · intro hr
    rw [hprm]
    exact hs.stations (hm ▸ hr)

/-- What changing one record leaves. -/
theorem State.modPanel_rest (s : State) (h : Nat) (f : Panel → Panel) :
    (s.modPanel h f).params = s.params ∧ (s.modPanel h f).mode = s.mode ∧ (s.modPanel h f).ltk = s.ltk ∧
      (s.modPanel h f).mvf = s.mvf ∧ (s.modPanel h f).bch = s.bch := by
  unfold State.modPanel; split <;> exact ⟨rfl, rfl, rfl, rfl, rfl⟩

/-- A record on the front section that is not INSPECTING takes another stage of that section, not INSPECTING either,
with a flash end time exactly in FLASHING. A record being served may only become VERIFIED or SPRAYING. -/
theorem LineEx.restageFlash {s : State} {ex : Nat → Prop} {h : Nat} {p : Panel} (hs : LineEx s ex)
    (hp : s.panel h = some p) (f : Panel → Panel) (st : Stage)
    (hf : panelKey (f p) = { panelKey p with stage := st, flash := (f p).flashEnd })
    (hfl : (f p).flashEnd.isSome = true ↔ st = .flashing) (h1 : p.stage.onFront = true ∧ p.stage ≠ .inspecting)
    (h2 : st.onFront = true ∧ st ≠ .inspecting)
    (h3 : ∀ l, (s.bch.get l).served = some h → st = .verified ∨ st = .spraying) : LineEx (s.modPanel h f) ex := by
  have hq : (s.modPanel h f).panel h = some (f p) := by rw [State.panel_modPanel_self, hp]; rfl
  have hk : ∀ k, k ≠ h → (s.modPanel h f).panel k = s.panel k := fun k e => s.panel_modPanel_ne f e
  obtain ⟨e1, e2, e3, e4, e5⟩ := s.modPanel_rest h f
  simp only [panelKey, PanelKey.mk.injEq] at hf
  obtain ⟨k1, k2, k3, k4, -⟩ := hf
  have hnr : p.stage ≠ .reentering := fun e => by simp [e, Stage.onFront] at h1
  have hnr' : st ≠ .reentering := fun e => by simp [e, Stage.onFront] at h2
  have hno : p.stage.onOven = false := by revert h1; cases p.stage <;> simp [Stage.onFront, Stage.onOven]
  refine hs.move (fun _ _ x => x) hk e1 e2 ?_ ?_ ?_ ?_ ?_ ?_ ?_ ?_
  · rw [e3]; exact lists_same hs.front hk fun l => by simp [hp, hq, standsOn, k1, k3]
  · rw [e3]; exact lists_same hs.oven hk fun l => by simp [hp, hq, standsOn, k1, k3]
  · rw [e3]; exact lists_same hs.reentry hk fun l => by simp [hp, hq, staged, k2, hnr, hnr']
  · rw [e4]; exact lists_same hs.inspecting hk fun l => by simp [hp, hq, staged, k2, h1.2, h2.2]
  · intro q e
    rw [hq] at e
    obtain rfl := Option.some.inj e
    obtain ⟨a, b, c, d⟩ := hs.placed h p hp
    refine ⟨fun hn => ?_, fun pl hpl => ?_, ?_, ?_⟩
    · have := a (k3 ▸ hn)
      revert h1 this; cases p.stage <;> simp [Stage.onFront, Stage.offLane]
    · obtain ⟨x, y, z⟩ := b pl (k3 ▸ hpl)
      refine ⟨x, fun _ => k2 ▸ h2.1, fun e => ?_⟩
      simp [z e] at hno
    · rw [k4, c, k2]; simp [h1.2, h2.2]
    · rw [hfl, k2]
  · intro q e hst
    rw [hq] at e
    obtain rfl := Option.some.inj e
    exact absurd (k2 ▸ hst) h2.2
  · intro l k e
    rw [e5] at e
    refine ⟨fun _ => e, fun hkh => ?_⟩
    subst k
    obtain ⟨q, pl, a, b, c, d, f', g⟩ := hs.served l h e
    rw [hp] at a
    obtain rfl := Option.some.inj a
    exact ⟨f p, pl, hq, k1 ▸ b, k3 ▸ c, d, f', k2 ▸ h3 l e⟩
  · intro q pl e hst
    rw [hq] at e
    obtain rfl := Option.some.inj e
    exact absurd (k2 ▸ hst) h2.2

/-- A record on the front section takes another stage of that section, neither of the two INSPECTING or FLASHING. -/
theorem LineEx.restage {s : State} {ex : Nat → Prop} {h : Nat} {p : Panel} (hs : LineEx s ex)
    (hp : s.panel h = some p) (f : Panel → Panel) (st : Stage)
    (hf : panelKey (f p) = { panelKey p with stage := st })
    (h1 : p.stage.onFront = true ∧ p.stage ≠ .inspecting ∧ p.stage ≠ .flashing)
    (h2 : st.onFront = true ∧ st ≠ .inspecting ∧ st ≠ .flashing)
    (h3 : ∀ l, (s.bch.get l).served = some h → st = .verified ∨ st = .spraying) : LineEx (s.modPanel h f) ex := by
  have hf' := hf
  simp only [panelKey, PanelKey.mk.injEq] at hf'
  refine hs.restageFlash hp f st (by rw [hf]; simp [panelKey, hf'.2.2.2.2]) ?_ ⟨h1.1, h1.2.1⟩ ⟨h2.1, h2.2.1⟩ h3
  rw [hf'.2.2.2.2, (hs.placed h p hp).2.2.2]
  simp [h1.2.2, h2.2.2]

theorem LineEx.not_served {s : State} {ex : Nat → Prop} (hs : LineEx s ex) {h : Nat} {p : Panel}
    (hp : s.panel h = some p) (h1 : p.stage ≠ .verified) (h2 : p.stage ≠ .spraying) (l : LaneNo) :
    (s.bch.get l).served ≠ some h := by
  intro e
  obtain ⟨q, pl, a, -, -, -, -, g⟩ := hs.served l h e
  rw [hp] at a
  obtain rfl := Option.some.inj a
  exact g.elim h1 h2

/-- The record leaves ENTERED (R53, R54). -/
theorem LineEx.leaveEntered {s : State} {ex : Nat → Prop} {h : Nat} {p : Panel} (hs : LineEx s ex)
    (hp : s.panel h = some p) (h1 : p.stage = .entered) : LineEx (s.leaveEntered h) ex := by
  refine hs.restage hp _ (admittedStage p) rfl (by simp [h1, Stage.onFront]) ?_ fun l e =>
    absurd e (hs.not_served hp (by simp [h1]) (by simp [h1]) l)
  unfold admittedStage
  split <;> simp [Stage.onFront]

/-- An INSPECTING record leaves its lane's inspecting list and becomes VERIFIED (R84). -/
theorem LineEx.leaveList {s : State} {ex ex' : Nat → Prop} {h : Nat} {p : Panel} (hs : LineEx s ex)
    (hex : ∀ k, k ≠ h → ex k → ex' k) (hp : s.panel h = some p) (h1 : p.stage = .inspecting) (f : Panel → Panel)
    (hf : panelKey (f p) = { panelKey p with stage := .verified, tag := none }) :
    LineEx ((s.leaveInspecting p.lane h).modPanel h f) ex' := by
  have hl : (s.leaveInspecting p.lane h).panel h = some p := hp
  have hq : ((s.leaveInspecting p.lane h).modPanel h f).panel h = some (f p) := by
    rw [State.panel_modPanel_self, hl]; rfl
  have hk : ∀ k, k ≠ h → ((s.leaveInspecting p.lane h).modPanel h f).panel k = s.panel k := fun k e => by
    rw [State.panel_modPanel_ne _ _ e]; rfl
  obtain ⟨e1, e2, e3, e4, e5⟩ := (s.leaveInspecting p.lane h).modPanel_rest h f
  simp only [panelKey, PanelKey.mk.injEq] at hf
  obtain ⟨k1, k2, k3, k4, k5⟩ := hf
  obtain ⟨a, b, c, d⟩ := hs.placed h p hp
  refine hs.move hex hk e1 e2 ?_ ?_ ?_ ?_ ?_ ?_ ?_ ?_
  · rw [e3]; exact lists_same hs.front hk fun l => by simp [hp, hq, standsOn, k1, k3]
  · rw [e3]; exact lists_same hs.oven hk fun l => by simp [hp, hq, standsOn, k1, k3]
  · rw [e3]; exact lists_same hs.reentry hk fun l => by simp [hp, hq, staged, k2, h1]
  · rw [e4]
    have hm : ∀ l, ((s.leaveInspecting p.lane h).mvf.get l).inspecting.map Window.handle =
        if l = p.lane then ((s.mvf.get l).inspecting.map Window.handle).filter (· != h)
        else (s.mvf.get l).inspecting.map Window.handle := by
      intro l
      simp only [State.leaveInspecting, State.modMvf, PerLane.get_set]
      split
      · simp only [List.filter_map]; subst l; rfl
      · rfl
    simp only [hm]
    refine lists_update hs.inspecting hk (fun l => ?_) (fun l k e => ?_) fun l => ?_
    · split
      · exact (hs.inspecting l).1.filter _
      · exact (hs.inspecting l).1
    · split
      · simp [e]
      · rfl
    · constructor
      · intro hm
        split at hm
        · simp at hm
        · obtain ⟨q, x, y⟩ := ((hs.inspecting l).2 h).1 hm
          rw [hp] at x
          obtain rfl := Option.some.inj x
          exact absurd y.1.symm (by assumption)
      · rintro ⟨q, x, y⟩
        rw [hq] at x
        obtain rfl := Option.some.inj x
        simp [staged, k2] at y
  · intro q e
    rw [hq] at e
    obtain rfl := Option.some.inj e
    refine ⟨fun hn => ?_, fun pl hpl => ?_, ?_, ?_⟩
    · have := a (k3 ▸ hn)
      simp [h1, Stage.offLane] at this
    · obtain ⟨x, y, z⟩ := b pl (k3 ▸ hpl)
      refine ⟨x, fun _ => by simp [k2, Stage.onFront], fun e => ?_⟩
      have := z e
      simp [h1, Stage.onOven] at this
    · simp [k4, k2]
    · rw [k5, d, k2]; simp [h1]
  · intro q e hst
    rw [hq] at e
    obtain rfl := Option.some.inj e
    simp [k2] at hst
  · intro l k e
    rw [e5] at e
    exact ⟨fun _ => e, fun hkh => absurd (hkh ▸ e) (hs.not_served hp (by simp [h1]) (by simp [h1]) l)⟩
  · intro q pl e hst
    rw [hq] at e
    obtain rfl := Option.some.inj e
    simp [k2] at hst

/-- A window ends without a report (R86 step 1, R89, R90). -/
theorem LineEx.endWindow {s : State} {ex ex' : Nat → Prop} {h : Nat} {p : Panel} (hs : LineEx s ex)
    (hex : ∀ k, k ≠ h → ex k → ex' k) (hp : s.panel h = some p) (h1 : p.stage = .inspecting) :
    LineEx (s.endWindow h) ex' := by
  unfold State.endWindow
  rw [hp]
  refine LineEx.of_view (lineView_raise _ _ _) (hs.leaveList hex hp h1 _ rfl)

/-- A report's outcome is applied (R95). -/
theorem LineEx.applyReport {s : State} {ex : Nat → Prop} {h : Nat} {p : Panel} (hs : LineEx s ex)
    (hp : s.panel h = some p) (h1 : p.stage = .inspecting) (pairs : List (Nat × ZoneStatus)) :
    LineEx (s.applyReport h pairs) ex := by
  unfold State.applyReport
  rw [hp]
  simp only
  generalize hu : State.raiseOpt _ h _ = u
  have hv : u.lineView = s.lineView := by
    rw [← hu]
    unfold State.raiseOpt
    split
    · exact lineView_modPanel s h _ fun _ _ => rfl
    · rw [lineView_raise]; exact lineView_modPanel s h _ fun _ _ => rfl
  obtain ⟨q, hq, hk⟩ := panel_of_view hv.symm hp
  have hk' := hk
  simp only [panelKey, PanelKey.mk.injEq] at hk'
  rw [hk'.1]
  exact (hs.of_view hv).leaveList (fun _ _ x => x) hq (hk'.2.1 ▸ h1) _ rfl

/-- The tag reuse of R86 step 1: afterwards no record that the lane inspects holds the counter's tag. -/
theorem LineEx.reuseTag {s : State} {ex : Nat → Prop} (hs : LineEx s ex) (l : LaneNo) :
    LineEx (s.reuseTag l) ex ∧
      (∀ k q, (s.reuseTag l).panel k = some q → q.stage = .inspecting → q.lane = l →
        q.inspectTag ≠ some (s.mvf.get l).tag) ∧
      (∀ k q, s.panel k = some q → q.stage ≠ .inspecting → (s.reuseTag l).panel k = some q) := by
  unfold State.reuseTag
  cases e : s.inspectingWithTag l (s.mvf.get l).tag with
  | none =>
    refine ⟨hs, fun k q hq h1 h2 h3 => ?_, fun k q hq _ => hq⟩
    unfold State.inspectingWithTag at e
    rw [List.find?_eq_none] at e
    have := e k (((hs.inspecting l).2 k).2 ⟨q, hq, h2, h1⟩)
    simp [hq, h3] at this
  | some h =>
    have hf := List.find?_some e
    have hmem := List.mem_of_find?_eq_some e
    obtain ⟨p, hp, hl, hst⟩ := ((hs.inspecting l).2 h).1 hmem
    simp only [hp, beq_iff_eq] at hf
    have hpan : ∀ k, (s.endWindow h).panel k = if k = h then (s.panel k).map fun p =>
        ((({ p with inspectTag := none, mask := none, stage := .verified } : Panel).raise s.params
          (s.holdMaskOf { p with inspectTag := none, mask := none, stage := .verified }) .inspectTimeout).1)
        else s.panel k := by
      intro k
      simp only [State.endWindow, hp, State.panel_raise, State.panel_modPanel]
      split
      · simp only [Option.map_map]
        congr 1
        funext q
        have hr := ((s.leaveInspecting p.lane h).modPanel_rest h fun p =>
          { p with inspectTag := none, mask := none, stage := .verified }).1
        have hh : ∀ q, State.holdMaskOf ((s.leaveInspecting p.lane h).modPanel h fun p =>
            { p with inspectTag := none, mask := none, stage := .verified }) q = s.holdMaskOf q := by
          intro q; unfold State.modPanel; split <;> rfl
        simp only [Function.comp, hr, hh]
        rfl
      · rfl
    refine ⟨hs.endWindow (fun _ _ x => x) hp hst, fun k q hq h1 h2 h3 => ?_, fun k q hq hn => ?_⟩
    · show False
      simp only [hpan] at hq
      split at hq
      · subst k
        rw [hp] at hq
        simp only [Option.map_some, Option.some.injEq] at hq
        rw [← hq, Panel.raise_frame] at h1
        simp at h1
      · have := hs.tags k h q p hq hp h1 hst (by rw [h2, hl]) (by rw [h3, hf])
        contradiction
    · simp only [hpan]
      split
      · subst k; rw [hp] at hq; obtain rfl := Option.some.inj hq; exact absurd hst hn
      · exact hq

/-- A trigger of a record that is not INSPECTING and stands before DIVERT_A (R86). -/
theorem LineEx.trigger {s : State} {ex : Nat → Prop} {l : LaneNo} {h : Nat} {p : Panel} {pl : Place}
    (hs : LineEx s ex) (hp : s.panel h = some p) (h1 : p.stage = .admitted) (hl : p.lane = l)
    (hpl : p.place = some pl) (hpos : pl.pos < s.params.offset .divertA) : LineEx (s.trigger l h) ex := by
  obtain ⟨hu, hno, hkeep⟩ := hs.reuseTag l
  have hprm : (s.reuseTag l).params = s.params := by
    unfold State.reuseTag
    split
    · rfl
    · unfold State.endWindow
      split
      · rfl
      · rw [State.raise_frame]; exact (State.modPanel_rest _ _ _).1
  have hpu := hkeep h p hp (by simp [h1])
  unfold State.trigger
  simp only
  generalize hue : s.reuseTag l = u at *
  generalize hte : (s.mvf.get l).tag = tag at *
  generalize hfe : (fun p : Panel => { p with inspectTag := some tag, stage := .inspecting }) = f
  have hv : ∀ x : State, (x.owePulse l).lineView = x.lineView := fun x =>
    lineView_modMvf _ _ _ (by split <;> rfl)
  refine LineEx.of_view (hv _) ?_
  obtain ⟨e1, e2, e3, e4, e5⟩ := u.modPanel_rest h f
  have hq : (u.modPanel h f).panel h = some (f p) := by rw [State.panel_modPanel_self, hpu]; rfl
  have hk : ∀ k, k ≠ h → (u.modPanel h f).panel k = u.panel k := fun k e => u.panel_modPanel_ne f e
  obtain ⟨a, b, c, d⟩ := hu.placed h p hpu
  have k1 : (f p).lane = p.lane ∧ (f p).stage = .inspecting ∧ (f p).place = p.place ∧
      (f p).inspectTag = some tag ∧ (f p).flashEnd = p.flashEnd := by rw [← hfe]; exact ⟨rfl, rfl, rfl, rfl, rfl⟩
  obtain ⟨k1, k2, k3, k4, k5⟩ := k1
  refine hu.move (fun _ _ x => x) hk e1 e2 ?_ ?_ ?_ ?_ ?_ ?_ ?_ ?_
  · simp only [State.modMvf_ltk, e3]; exact lists_same hu.front hk fun m => by simp [hpu, hq, standsOn, k1, k3]
  · simp only [State.modMvf_ltk, e3]; exact lists_same hu.oven hk fun m => by simp [hpu, hq, standsOn, k1, k3]
  · simp only [State.modMvf_ltk, e3]
    exact lists_same hu.reentry hk fun m => by simp [hpu, hq, staged, k2, h1]
  · have hm : ∀ m, (((u.modPanel h f).modMvf l fun m =>
        { m with
          tag := m.tag + 1
          inspecting := m.inspecting ++
            [{ handle := h, expiry := (u.modPanel h f).later (u.modPanel h f).params.inspectTimeout }] }).mvf.get
        m).inspecting.map Window.handle =
        if m = l then (u.mvf.get m).inspecting.map Window.handle ++ [h]
        else (u.mvf.get m).inspecting.map Window.handle := by
      intro m
      simp only [State.modMvf, PerLane.get_set, e4]
      split
      · subst m; simp
      · rfl
    have hnot : ∀ m, h ∉ (u.mvf.get m).inspecting.map Window.handle := by
      intro m hm
      obtain ⟨q, x, y⟩ := ((hu.inspecting m).2 h).1 hm
      rw [hpu] at x
      obtain rfl := Option.some.inj x
      simp [staged, h1] at y
    simp only [hm]
    refine lists_update hu.inspecting hk (fun m => ?_) (fun m k e => ?_) fun m => ?_
    · split
      · rw [List.nodup_append]
        refine ⟨(hu.inspecting m).1, by simp, fun x hx y hy => ?_⟩
        simp only [List.mem_singleton] at hy
        rintro rfl
        exact hnot m (hy ▸ hx)
      · exact (hu.inspecting m).1
    · split
      · simp [e]
      · rfl
    · constructor
      · intro hm
        split at hm
        · exact ⟨f p, hq, by rw [k1, hl]; symm; assumption, k2⟩
        · exact absurd hm (hnot m)
      · rintro ⟨q, x, y⟩
        have x' : (u.modPanel h f).panel h = some q := x
        rw [hq] at x'
        obtain rfl := Option.some.inj x'
        rw [if_pos (by rw [← y.1, k1, hl])]
        simp
  · intro q e
    have e' : (u.modPanel h f).panel h = some q := e
    rw [hq] at e'
    obtain rfl := Option.some.inj e'
    refine ⟨fun hn => ?_, fun pl' hpl' => ?_, ?_, ?_⟩
    · rw [k3, hpl] at hn; simp at hn
    · obtain ⟨x, y, z⟩ := b pl' (k3 ▸ hpl')
      refine ⟨x, fun _ => by simp [k2, Stage.onFront], fun e => ?_⟩
      have := z e
      simp [h1, Stage.onOven] at this
    · simp [k4, k2]
    · rw [k5, d, k2]; simp [h1]
  · intro q e hst k p' hkh hp' hst' hlane htag
    have e' : (u.modPanel h f).panel h = some q := e
    rw [hq] at e'
    obtain rfl := Option.some.inj e'
    exact hno k p' hp' hst' (by rw [hlane, k1, hl]) (by rw [htag, k4])
  · intro m k e
    have e' : (u.bch.get m).served = some k := by rw [← e5]; exact e
    refine ⟨fun _ => e', fun hkh => absurd (hkh ▸ e') (hu.not_served hpu (by simp [h1]) (by simp [h1]) m)⟩
  · intro q pl' e hst hpl'
    have e' : (u.modPanel h f).panel h = some q := e
    rw [hq] at e'
    obtain rfl := Option.some.inj e'
    rw [k3, hpl] at hpl'
    obtain rfl := Option.some.inj hpl'
    exact .inl (by rw [hprm]; exact hpos)

/-- A record on a queue, or already off every list, leaves the queues of its lane for an off-lane stage (R56, R65). -/
theorem LineEx.leaveQueues {s t : State} {ex : Nat → Prop} {l : LaneNo} {h : Nat} {p : Panel} (hs : LineEx s ex)
    (hp : s.panel h = some p) (hl : p.lane = l ∨ p.place = none) (h1 : p.stage ≠ .inspecting)
    (h2 : p.stage ≠ .reentering) (h3 : ∀ m, (s.bch.get m).served ≠ some h) (f : Panel → Panel)
    (hf : (f p).stage = .parked ∨ (f p).stage = .done)
    (hfp : (f p).place = none ∧ (f p).inspectTag = p.inspectTag ∧ (f p).flashEnd = none)
    (hq : t.panel h = some (f p)) (hk : ∀ k, k ≠ h → t.panel k = s.panel k) (hprm : t.params = s.params)
    (hm : t.mode = s.mode) (hmvf : t.mvf = s.mvf) (hbch : t.bch = s.bch)
    (hltk : ∀ m, (t.ltk.get m).front = (if m = l then (s.ltk.get m).front.filter (· != h) else (s.ltk.get m).front) ∧
      (h ∉ (t.ltk.get m).oven) ∧ (t.ltk.get m).oven.Nodup ∧
      (∀ k, k ≠ h → (k ∈ (t.ltk.get m).oven ↔ k ∈ (s.ltk.get m).oven)) ∧
      (t.ltk.get m).reentry = (s.ltk.get m).reentry) : LineEx t ex := by
  obtain ⟨a, b, c, d⟩ := hs.placed h p hp
  have hst := hf
  have hfront : ∀ m, h ∈ (s.ltk.get m).front → m = l := by
    intro m hm
    obtain ⟨q, x, y⟩ := ((hs.front m).2 h).1 hm
    rw [hp] at x
    obtain rfl := Option.some.inj x
    rcases hl with hl | hl
    · exact y.1.symm.trans hl
    · simp [standsOn, hl] at y
  refine hs.move (fun _ _ x => x) hk hprm hm ?_ ?_ ?_ ?_ ?_ ?_ ?_ ?_
  · refine lists_update hs.front hk (fun m => ?_) (fun m k e => ?_) fun m => ?_
    · simp only [(hltk m).1]; split
      · exact (hs.front m).1.filter _
      · exact (hs.front m).1
    · simp only [(hltk m).1]; split
      · simp [e]
      · rfl
    · constructor
      · intro hm
        simp only [(hltk m).1] at hm
        split at hm
        · simp at hm
        · exact absurd (hfront m hm) (by assumption)
      · rintro ⟨q, x, y⟩
        rw [hq] at x
        obtain rfl := Option.some.inj x
        simp [standsOn, hfp.1] at y
  · refine lists_update hs.oven hk (fun m => (hltk m).2.2.1) (fun m k e => (hltk m).2.2.2.1 k e) fun m => ?_
    refine ⟨fun hm => absurd hm (hltk m).2.1, ?_⟩
    rintro ⟨q, x, y⟩
    rw [hq] at x
    obtain rfl := Option.some.inj x
    simp [standsOn, hfp.1] at y
  · simp only [(hltk _).2.2.2.2]
    refine lists_same hs.reentry hk fun m => ?_
    rcases hst with e | e <;> simp [hp, hq, staged, e, h2]
  · rw [hmvf]
    refine lists_same hs.inspecting hk fun m => ?_
    rcases hst with e | e <;> simp [hp, hq, staged, e, h1]
  · intro q e
    rw [hq] at e
    obtain rfl := Option.some.inj e
    refine ⟨fun _ => ?_, fun pl hpl => ?_, ?_, ?_⟩
    · rcases hst with e | e <;> simp [e, Stage.offLane]
    · rw [hfp.1] at hpl; simp at hpl
    · rw [hfp.2.1, c]
      rcases hst with e | e <;> simp [e, h1]
    · rw [hfp.2.2]
      rcases hst with e | e <;> simp [e]
  · intro q e hsti
    rw [hq] at e
    obtain rfl := Option.some.inj e
    rcases hst with e | e <;> simp [e] at hsti
  · intro m k e
    rw [hbch] at e
    exact ⟨fun _ => e, fun hkh => absurd (hkh ▸ e) (h3 m)⟩
  · intro q pl e hsti
    rw [hq] at e
    obtain rfl := Option.some.inj e
    rcases hst with e | e <;> simp [e] at hsti

/-- A divert (R56). -/
theorem LineEx.divert {s : State} {ex : Nat → Prop} {l : LaneNo} {h : Nat} {p : Panel} (hs : LineEx s ex)
    (hp : s.panel h = some p) (hl : p.lane = l ∨ p.place = none) (h1 : p.stage ≠ .inspecting)
    (h2 : p.stage ≠ .reentering) (h3 : ∀ m, (s.bch.get m).served ≠ some h) (g : DivertGate) :
    LineEx (s.divert l g h) ex := by
  obtain ⟨e1, e2, e3, e4, e5⟩ := (s.modLtk l fun t =>
    (t.without h).pulse g (s.later s.params.divertPulse)).modPanel_rest h parked
  have hov : ∀ m, h ∈ (s.ltk.get m).oven → m = l := by
    intro m hm
    obtain ⟨q, x, y⟩ := ((hs.oven m).2 h).1 hm
    rw [hp] at x
    obtain rfl := Option.some.inj x
    rcases hl with hl | hl
    · exact y.1.symm.trans hl
    · simp [standsOn, hl] at y
  refine hs.leaveQueues (t := s.divert l g h) hp hl h1 h2 h3 parked (.inl rfl) ⟨rfl, rfl, rfl⟩
    ?_ ?_ e1 e2 e4 e5 fun m => ?_
  · simp [State.divert, State.panel_modPanel_self, hp]
  · intro k e
    simp [State.divert, State.panel_modPanel_ne _ _ e]
  · have hg : (s.divert l g h).ltk.get m =
        if m = l then ((s.ltk.get m).without h).pulse g (s.later s.params.divertPulse) else s.ltk.get m := by
      unfold State.divert
      rw [e3]
      simp only [State.modLtk, PerLane.get_set]
      split
      · subst m; rfl
      · rfl
    rw [hg]
    split
    · subst m
      cases g <;> simp [LaneTrack.pulse, LaneTrack.without, (hs.oven _).1.filter] <;> intro k e <;> simp [e]
    · rename_i e
      exact ⟨rfl, fun x => e (hov m x), (hs.oven m).1, fun _ _ => Iff.rfl, rfl⟩

/-- The oven head becomes DONE (R65). -/
theorem LineEx.finish {s : State} {ex : Nat → Prop} {l : LaneNo} {h : Nat} {p : Panel} (hs : LineEx s ex)
    (hp : s.panel h = some p) (hl : p.lane = l) (h1 : p.stage = .exited) : LineEx (s.finish l h) ex := by
  obtain ⟨a, b, c, d⟩ := hs.placed h p hp
  have hfl : p.flashEnd = none := by
    have : ¬p.flashEnd.isSome = true := fun e => by simp [d.1 e] at h1
    simpa using this
  obtain ⟨e1, e2, e3, e4, e5⟩ := (s.modLtk l fun t => { t with oven := t.oven.filter (· != h) }).modPanel_rest h
    fun p => { p with stage := .done, place := none }.notify .unloaded
  have hnf : h ∉ (s.ltk.get l).front := by
    intro hm
    obtain ⟨q, x, y⟩ := ((hs.front l).2 h).1 hm
    rw [hp] at x
    obtain rfl := Option.some.inj x
    obtain ⟨pl, hpl, hsec⟩ := Option.map_eq_some_iff.1 y.2
    have := (b pl hpl).2.1 hsec
    simp [h1, Stage.onFront] at this
  refine hs.leaveQueues (t := s.finish l h) (l := l) hp (.inl hl) (by simp [h1]) (by simp [h1])
    (hs.not_served hp (by simp [h1]) (by simp [h1]))
    (fun p => { p with stage := .done, place := none }.notify .unloaded) (.inr rfl)
    ⟨rfl, rfl, hfl⟩ ?_ ?_ e1 e2 e4 e5 fun m => ?_
  · simp [State.finish, State.panel_modPanel_self, hp]
  · intro k e
    simp [State.finish, State.panel_modPanel_ne _ _ e]
  · have hg : (s.finish l h).ltk.get m =
        if m = l then { s.ltk.get m with oven := (s.ltk.get m).oven.filter (· != h) } else s.ltk.get m := by
      unfold State.finish
      rw [e3]
      simp only [State.modLtk, PerLane.get_set]
      split
      · subst m; rfl
      · rfl
    rw [hg]
    split
    · subst m
      refine ⟨?_, by simp, (hs.oven _).1.filter _, fun k e => by simp [e], rfl⟩
      symm
      rw [List.filter_eq_self]
      intro x hx
      simp only [bne_iff_ne]
      rintro rfl
      exact hnf hx
    · rename_i e
      refine ⟨rfl, fun x => ?_, (hs.oven m).1, fun _ _ => Iff.rfl, rfl⟩
      obtain ⟨q, x, y⟩ := ((hs.oven m).2 h).1 x
      rw [hp] at x
      obtain rfl := Option.some.inj x
      exact e (y.1.symm.trans hl)

/-- A record that stands in no list but perhaps a re-entry list joins the front queue at the tail (R2, R49). -/
theorem LineEx.enter {s t : State} {ex : Nat → Prop} {l : LaneNo} {h : Nat} {q : Panel} (hs : LineEx s ex)
    (hp : ∀ p, s.panel h = some p → p.stage = .reentering) (hq : t.panel h = some q) (h1 : q.stage = .entered)
    (h2 : q.lane = l ∧ q.place = some { sect := .front, pos := 0 } ∧ q.inspectTag = none ∧ q.flashEnd = none)
    (hk : ∀ k, k ≠ h → t.panel k = s.panel k) (hprm : t.params = s.params) (hm : t.mode = s.mode)
    (hmvf : t.mvf = s.mvf) (hbch : t.bch = s.bch)
    (hltk : ∀ m, (t.ltk.get m).front = (if m = l then (s.ltk.get m).front ++ [h] else (s.ltk.get m).front) ∧
      (t.ltk.get m).oven = (s.ltk.get m).oven ∧ h ∉ (t.ltk.get m).reentry ∧ (t.ltk.get m).reentry.Nodup ∧
      ∀ k, k ≠ h → (k ∈ (t.ltk.get m).reentry ↔ k ∈ (s.ltk.get m).reentry)) : LineEx t ex := by
  have off : ∀ p, s.panel h = some p → p.place = none := by
    intro p e
    obtain ⟨a, b, c, d⟩ := hs.placed h p e
    have hr := hp p e
    cases hpl : p.place with
    | none => rfl
    | some pl =>
      obtain ⟨-, x, y⟩ := b pl hpl
      cases hsec : pl.sect with
      | front => simp [hr, Stage.onFront] at x; exact absurd hsec x
      | oven => simp [hr, Stage.onOven] at y; exact absurd hsec y
  have hnf : ∀ m sec, ¬∃ p, s.panel h = some p ∧ standsOn sec m p := by
    rintro m sec ⟨p, x, y⟩
    simp [standsOn, off p x] at y
  refine hs.move (fun _ _ x => x) hk hprm hm ?_ ?_ ?_ ?_ ?_ ?_ ?_ ?_
  · refine lists_update hs.front hk (fun m => ?_) (fun m k e => ?_) fun m => ?_
    · simp only [(hltk m).1]; split
      · rw [List.nodup_append]
        refine ⟨(hs.front m).1, by simp, fun x hx y hy => ?_⟩
        simp only [List.mem_singleton] at hy
        rintro rfl
        exact hnf m _ (((hs.front m).2 h).1 (hy ▸ hx))
      · exact (hs.front m).1
    · simp only [(hltk m).1]; split
      · simp [e]
      · rfl
    · simp only [(hltk m).1]
      constructor
      · intro hm
        split at hm
        · exact ⟨q, hq, by rw [h2.1]; symm; assumption, by rw [h2.2.1]; rfl⟩
        · exact absurd (((hs.front m).2 h).1 hm) (hnf m _)
      · rintro ⟨q', x, y⟩
        rw [hq] at x
        obtain rfl := Option.some.inj x
        rw [if_pos (y.1.symm.trans h2.1)]
        simp
  · simp only [(hltk _).2.1]
    exact lists_same hs.oven hk fun m => ⟨fun x => absurd x (hnf m _), by
      rintro ⟨q', x, y⟩
      rw [hq] at x
      obtain rfl := Option.some.inj x
      simp [standsOn, h2.2.1] at y⟩
  · refine lists_update hs.reentry hk (fun m => (hltk m).2.2.2.1) (fun m => (hltk m).2.2.2.2) fun m => ?_
    refine ⟨fun x => absurd x (hltk m).2.2.1, ?_⟩
    rintro ⟨q', x, y⟩
    rw [hq] at x
    obtain rfl := Option.some.inj x
    simp [staged, h1] at y
  · rw [hmvf]
    refine lists_same hs.inspecting hk fun m => ⟨?_, ?_⟩
    · rintro ⟨p, x, y⟩
      simp [staged, hp p x] at y
    · rintro ⟨q', x, y⟩
      rw [hq] at x
      obtain rfl := Option.some.inj x
      simp [staged, h1] at y
  · intro q' e
    rw [hq] at e
    obtain rfl := Option.some.inj e
    refine ⟨by simp [h2.2.1], fun pl hpl => ?_, by simp [h2.2.2.1, h1], by simp [h2.2.2.2, h1]⟩
    rw [h2.2.1] at hpl
    obtain rfl := Option.some.inj hpl
    exact ⟨by simp, fun _ => by simp [h1, Stage.onFront], fun e => by simp at e⟩
  · intro q' e hst
    rw [hq] at e
    obtain rfl := Option.some.inj e
    simp [h1] at hst
  · intro m k e
    rw [hbch] at e
    refine ⟨fun _ => e, fun hkh => ?_⟩
    subst k
    obtain ⟨p, pl, x, -, y, -⟩ := hs.served m h e
    simp [off p x] at y
  · intro q' pl e hst
    rw [hq] at e
    obtain rfl := Option.some.inj e
    simp [h1] at hst

@[simp] theorem lineView_checkPlacement (s : State) (l : LaneNo) (h : Nat) (tail : Option Nat) :
    (s.checkPlacement l h tail).lineView = s.lineView := by
  unfold State.checkPlacement
  simp only
  split <;> split <;> simp

/-- An entry edge, with the free list in order (R49). -/
theorem LineEx.entryEdge {s : State} {ex : Nat → Prop} (hs : LineEx s ex) (hfree : s.freeListOk) (l : LaneNo) :
    LineEx (s.entryEdge l) ex := by
  unfold State.entryEdge
  simp only
  split
  · exact hs
  split
  · exact hs.of_view (lineView_faultCause _ _)
  split
  · rename_i h rest e
    obtain ⟨p, hp, hl, hst⟩ := ((hs.reentry l).2 h).1 (by show h ∈ (s.ltk.get l).reentry; rw [e]; simp)
    have hnd : (s.ltk.get l).reentry.Nodup := (hs.reentry l).1
    rw [e] at hnd
    unfold State.placeFront
    simp only
    refine LineEx.of_view (lineView_checkPlacement _ _ _ _) ?_
    generalize hfe : (fun p : Panel => { p with stage := .entered, place := some { sect := .front, pos := 0 } }) = f
    generalize hu : State.modLtk l _ (State.modLtk l _ s) = u
    have hup : ∀ k, u.panel k = s.panel k := fun k => by rw [← hu]; rfl
    obtain ⟨e1, e2, e3, e4, e5⟩ := u.modPanel_rest h f
    obtain ⟨-, -, c, d⟩ := hs.placed h p hp
    have htag : p.inspectTag = none := by
      have : ¬p.inspectTag.isSome = true := fun e => by simp [c.1 e] at hst
      simpa using this
    have hfl : p.flashEnd = none := by
      have : ¬p.flashEnd.isSome = true := fun e => by simp [d.1 e] at hst
      simpa using this
    refine hs.enter (l := l) (h := h) (q := f p) (fun p' x => ?_) ?_ (by rw [← hfe]) ?_ ?_ ?_ ?_ ?_ ?_ fun m => ?_
    · rw [hp] at x; obtain rfl := Option.some.inj x; exact hst
    · rw [State.panel_modPanel_self, hup, hp]; rfl
    · rw [← hfe]; exact ⟨hl, rfl, htag, hfl⟩
    · intro k e; rw [State.panel_modPanel_ne _ _ e, hup]
    · rw [e1, ← hu]; rfl
    · rw [e2, ← hu]; rfl
    · rw [e4, ← hu]; rfl
    · rw [e5, ← hu]; rfl
    · rw [e3, ← hu]
      simp only [State.modLtk, PerLane.get_set]
      split
      · subst m
        simp only [if_pos, e, List.mem_cons]
        rw [List.nodup_cons] at hnd
        exact ⟨trivial, trivial, hnd.1, hnd.2, fun k hk => by simp [hk]⟩
      · rename_i hml
        refine ⟨rfl, rfl, fun x => ?_, (hs.reentry m).1, fun _ _ => Iff.rfl⟩
        obtain ⟨p', x, y⟩ := ((hs.reentry m).2 h).1 x
        rw [hp] at x
        obtain rfl := Option.some.inj x
        exact hml (y.1.symm.trans hl)
  · split
    · rename_i hre h rest e
      split
      · have hmem : h ∈ s.freeList := by rw [e]; simp
        rw [hfree] at hmem
        simp only [List.mem_filter, List.mem_range, Option.isNone_iff_eq_none] at hmem
        unfold State.placeFront State.createRecord
        simp only
        refine LineEx.of_view (lineView_checkPlacement _ _ _ _) ?_
        generalize hfe : (fun p : Panel => { p with stage := .entered, place := some { sect := .front, pos := 0 } }) = f
        generalize hu : State.modLtk l _ _ = u
        have hus : u.panel h = some (newPanel l) := by
          rw [← hu]; exact State.panel_setSlot_self (s := { s with freeList := rest }) _ hmem.1
        have hup : ∀ k, k ≠ h → u.panel k = s.panel k := fun k hk => by
          rw [← hu]; exact State.panel_setSlot_ne (s := { s with freeList := rest }) _ hk
        obtain ⟨e1, e2, e3, e4, e5⟩ := u.modPanel_rest h f
        refine hs.enter (l := l) (h := h) (q := f (newPanel l)) (fun p' x => ?_) ?_ (by rw [← hfe]) ?_ ?_ ?_ ?_ ?_ ?_
          fun m => ?_
        · rw [hmem.2] at x; simp at x
        · rw [State.panel_modPanel_self, hus]; rfl
        · rw [← hfe]; exact ⟨rfl, rfl, rfl, rfl⟩
        · intro k e; rw [State.panel_modPanel_ne _ _ e, hup k e]
        · rw [e1, ← hu]; rfl
        · rw [e2, ← hu]; rfl
        · rw [e4, ← hu]; rfl
        · rw [e5, ← hu]; rfl
        · have hno : h ∉ (s.ltk.get m).reentry := by
            intro x
            obtain ⟨p', x, -⟩ := ((hs.reentry m).2 h).1 x
            rw [hmem.2] at x; simp at x
          rw [e3, ← hu]
          simp only [State.modLtk, State.setSlot, PerLane.get_set]
          split
          · subst m; exact ⟨by simp, rfl, hno, (hs.reentry _).1, fun _ _ => Iff.rfl⟩
          · exact ⟨rfl, rfl, hno, (hs.reentry m).1, fun _ _ => Iff.rfl⟩
      · exact hs.of_view (lineView_faultCause _ _)
    · exact hs.of_view (lineView_faultCause _ _)

end Sys2Proof.Machine
end

