-- ==== Sys2Proof/Laws/LineBooth.lean ====
section
/-! SUPPORT. What the booth channels' operations do to the line's invariant (`LineEx`): a served record only leaves
BOOTH by the end of its pass, and every other operation of a channel leaves the line's view alone. -/

namespace Sys2Proof.Machine

/-! ### Operations that leave the view alone -/

section
variable (s : State)

@[simp] theorem lineView_send (l : LaneNo) : (s.send l).lineView = s.lineView := by
  unfold State.send
  split
  · rfl
  · rename_i o _
    exact lineView_modBch s l
      (fun c => { c with inFlight := true, doneSeen := false, durationExpired := false, flow := 0 }) rfl

@[simp] theorem lineView_offer (l : LaneNo) (o : MoveOrder) : (s.offer l o).lineView = s.lineView := by
  unfold State.offer
  simp only
  split
  · rw [lineView_send]; exact lineView_modBch s l _ rfl
  · exact lineView_modBch s l _ rfl

@[simp] theorem lineView_portEnd : s.portEnd.lineView = s.lineView := by
  unfold State.portEnd
  split
  · rfl
  · simp only
    split
    · exact lineView_send _ _
    · split
      · exact lineView_send _ _
      · rfl

@[simp] theorem lineView_nextOrder (l : LaneNo) : (s.nextOrder l).1.lineView = s.lineView := by
  unfold State.nextOrder
  simp only
  split
  · rfl
  · split
    · rfl
    · split
      · rfl
      · split <;> rfl

@[simp] theorem lineView_askNext (l : LaneNo) : (s.askNext l).lineView = s.lineView := by
  unfold State.askNext
  simp only
  split
  · exact lineView_nextOrder s l
  · rw [lineView_offer]; exact lineView_nextOrder s l

@[simp] theorem lineView_startCoat (l : LaneNo) : (s.startCoat l).lineView = s.lineView := by
  unfold State.startCoat
  split
  · rfl
  · simp only
    rw [lineView_askNext, lineView_modBch _ _ _ rfl]
    unfold State.startGenerator
    rw [lineView_modPgn]
    exact lineView_modPanel s _ _ fun _ _ => rfl

@[simp] theorem lineView_accountOrder (h : Nat) (o : MoveOrder) (flow : Nat) :
    (s.accountOrder h o flow).lineView = s.lineView := by
  unfold State.accountOrder
  simp only
  generalize hu : (if nozzleBlocked o flow then s.raiseQuiet .nozzleBlock h else s) = u
  have hv : u.lineView = s.lineView := by
    rw [← hu]
    split
    · exact lineView_raiseQuiet s _ h
    · rfl
  split
  · refine Eq.trans ?_ hv
    exact lineView_modPanel u h _ fun _ _ => rfl
  · exact hv

@[simp] theorem lineView_enterFault (l : LaneNo) : (s.enterFault l).lineView = s.lineView := by
  unfold State.enterFault State.idleGenerator
  simp only
  split
  · rw [lineView_modPgn]; exact lineView_modBch s l _ rfl
  · rw [lineView_raise, lineView_modPgn]; exact lineView_modBch s l _ rfl

end

/-! ### The record served -/

/-- A change of a channel that serves what the invariant allows keeps it. -/
theorem LineEx.modBch {s : State} {ex : Nat → Prop} (hs : LineEx s ex) (l : LaneNo) (f : Channel → Channel)
    (hf : ∀ k, (f (s.bch.get l)).served = some k → ∃ p pl, s.panel k = some p ∧ p.lane = l ∧ p.place = some pl ∧
      pl.sect = .front ∧ s.params.offset .booth ≤ pl.pos ∧ (p.stage = .verified ∨ p.stage = .spraying)) :
    LineEx (s.modBch l f) ex := by
  refine { hs with served := fun m k e => ?_ }
  simp only [State.modBch, PerLane.get_set] at e
  split at e
  · subst m; exact hf k e
  · exact hs.served m k e

/-- The channel returns to IDLE (R116, R129). -/
theorem LineEx.channelIdle {s : State} {ex : Nat → Prop} (hs : LineEx s ex) (l : LaneNo) :
    LineEx (s.channelIdle l) ex := by
  unfold State.channelIdle
  refine LineEx.of_view (lineView_modLtk _ _ _ ⟨rfl, rfl, rfl⟩) (hs.modBch l _ fun k e => ?_)
  simp at e

/-- A channel's and a lane's change commute with a record's. -/
theorem State.channelIdle_modPanel (s : State) (l : LaneNo) (h : Nat) (f : Panel → Panel) :
    (s.modPanel h f).channelIdle l = (s.channelIdle l).modPanel h f := by
  have e : (s.channelIdle l).panel h = s.panel h := rfl
  unfold State.modPanel
  rw [e]
  cases s.panel h <;> rfl

theorem State.channelIdle_served (s : State) (l m : LaneNo) :
    ((s.channelIdle l).bch.get m).served = if m = l then none else (s.bch.get m).served := by
  simp only [State.channelIdle, State.modLtk, State.modBch, PerLane.get_set]
  split <;> rfl

/-- The end of a pass (R129). -/
theorem LineEx.parkDone {s : State} {ex : Nat → Prop} (hs : LineEx s ex) (l : LaneNo) : LineEx (s.parkDone l) ex := by
  unfold State.parkDone
  split
  · exact hs.channelIdle l
  · rename_i h hh
    obtain ⟨p, pl, hp, hl, hpl, hsec, hpos, hst⟩ := hs.served l h hh
    unfold State.flashAfterPass
    rw [hp]
    simp only
    split
    · exact hs.channelIdle l
    · split
      · rename_i b _ _
        rw [State.channelIdle_modPanel]
        have hp' : (s.channelIdle l).panel h = some p := hp
        refine (hs.channelIdle l).restageFlash hp' _ .flashing rfl (by simp) ?_ (by simp [Stage.onFront]) fun m e => ?_
        · rcases hst with e | e <;> simp [e, Stage.onFront]
        · rw [State.channelIdle_served] at e
          split at e
          · simp at e
          · obtain ⟨q, -, hq, hql, -⟩ := hs.served m h e
            rw [hp] at hq
            obtain rfl := Option.some.inj hq
            exact absurd (hql.symm.trans hl) (by assumption)
      · exact hs.channelIdle l

/-- Entry to PARKING (R129). -/
theorem LineEx.enterPark {s : State} {ex : Nat → Prop} (hs : LineEx s ex) (l : LaneNo) :
    LineEx (s.enterPark l) ex := by
  unfold State.enterPark
  have h1 : LineEx (s.modBch l fun c => { c with state := .parking, recoatExpiry := none }) ex :=
    hs.of_view (lineView_modBch s l _ rfl)
  have h2 : LineEx ((s.modBch l fun c => { c with state := .parking, recoatExpiry := none }).parkOrder l).1 ex :=
    h1.of_view (lineView_modPgn _ _ _)
  simp only
  split
  · exact h2.parkDone l
  · exact h2.of_view (lineView_offer _ _ _)

/-- A coat after the first (R119, R126). -/
theorem LineEx.nextCoat {s : State} {ex : Nat → Prop} (hs : LineEx s ex) (l : LaneNo) : LineEx (s.nextCoat l) ex := by
  unfold State.nextCoat
  split
  · exact hs
  · split
    · exact hs.enterPark l
    · exact hs.of_view (lineView_startCoat s l)

/-- The end of a coat (R125, R126). -/
theorem LineEx.endCoat {s : State} {ex : Nat → Prop} (hs : LineEx s ex) (l : LaneNo) : LineEx (s.endCoat l) ex := by
  unfold State.endCoat
  split
  · exact hs
  split
  · exact hs
  split
  · exact hs
  rename_i h _ _ p hp _ b _
  simp only
  have h1 : LineEx (s.setSlot h (some { p with
      coats := modLast (fun e => { e with completed := true }) p.coats, coatsApplied := p.coatsApplied + 1 })) ex := by
    rw [← State.modPanel_of_live hp fun p => { p with
      coats := modLast (fun e => { e with completed := true }) p.coats, coatsApplied := p.coatsApplied + 1 }]
    exact hs.of_view (lineView_modPanel s h _ fun _ _ => rfl)
  have h2 : ∀ c : Bool, ∀ u : State, LineEx u ex → LineEx (if c then u.raiseQuiet .coatVolume h else u) ex := by
    intro c u hu
    split
    · exact hu.of_view (lineView_raiseQuiet _ _ _)
    · exact hu
  have h3 := h2 (((modLast (fun e => { e with completed := true }) p.coats).getLast?.map
    (coatCheckFails b.flowTol)).getD false) _ h1
  split
  · split
    · exact LineEx.nextCoat (h3.of_view (lineView_modBch _ _ _ rfl)) l
    · exact h3.of_view (lineView_modBch _ _ _ rfl)
  · exact h3.enterPark l

/-- The completion of an order (R121, R124, R128, R129). -/
theorem LineEx.completeOrder {s : State} {ex : Nat → Prop} (hs : LineEx s ex) (l : LaneNo) :
    LineEx (s.completeOrder l) ex := by
  unfold State.completeOrder
  simp only
  split
  · rename_i o h _ _
    have h1 : LineEx (s.modBch l fun c => { c with order := none, inFlight := false }) ex :=
      hs.of_view (lineView_modBch s l _ rfl)
    have h2 := h1.of_view (lineView_accountOrder _ h o (s.bch.get l).flow)
    split
    · unfold State.afterOrder
      split
      · exact h2.endCoat l
      · split
        · exact h2.enterPark l
        · exact h2.of_view (lineView_askNext _ l)
    · exact h2.enterPark l
    · exact h1.parkDone l
    · exact h1
  · exact hs

/-- The settled event on the channel (R118). -/
theorem LineEx.settled {s : State} {ex : Nat → Prop} (hs : LineEx s ex) (l : LaneNo) : LineEx (s.settled l) ex := by
  unfold State.settled
  split
  · exact hs
  rename_i h hh
  split
  · split
    · exact hs.channelIdle l
    · simp only
      refine LineEx.of_view (lineView_startCoat _ l) (LineEx.of_view (lineView_modBch _ _ _ rfl) ?_)
      obtain ⟨p, pl, hp, hl, hpl, hsec, hpos, hst⟩ := hs.served l h hh
      refine hs.restage hp _ .spraying rfl ?_ (by simp [Stage.onFront]) fun _ _ => .inr rfl
      rcases hst with e | e <;> simp [e, Stage.onFront]
  · exact hs

/-- The channel takes a VERIFIED record that stands at BOOTH (R117, R122). -/
theorem LineEx.takeAtBooth {s : State} {ex : Nat → Prop} {l : LaneNo} {h : Nat} {p : Panel} {pl : Place}
    (hs : LineEx s ex) (hp : s.panel h = some p) (hl : p.lane = l) (hpl : p.place = some pl) (hsec : pl.sect = .front)
    (hpos : s.params.offset .booth ≤ pl.pos) (hst : p.stage = .verified) : LineEx (s.takeAtBooth l h) ex := by
  have h1 : LineEx ((s.modBch l fun c => { c with state := .settling, served := some h }).modLtk l
      fun t => { t with boothClaim := true }) ex := by
    refine LineEx.of_view (lineView_modLtk _ _ _ ⟨rfl, rfl, rfl⟩) (hs.modBch l _ fun k e => ?_)
    obtain rfl := Option.some.inj e
    exact ⟨p, pl, hp, hl, hpl, hsec, hpos, .inl hst⟩
  unfold State.takeAtBooth
  simp only
  split
  · exact h1.of_view (lineView_enterFault _ l)
  · exact h1

/-! ### The channels' events -/

theorem LineEx.moveDoneEdge {s : State} {ex : Nat → Prop} (hs : LineEx s ex) (l : LaneNo) :
    LineEx (s.moveDoneEdge l) ex := by
  unfold State.moveDoneEdge
  simp only
  have h1 : LineEx (s.modBch l fun c => { c with doneSeen := true }) ex := hs.of_view (lineView_modBch s l _ rfl)
  split
  · split
    · exact h1.completeOrder l
    · exact h1
  · exact hs

theorem LineEx.durationEnd {s : State} {ex : Nat → Prop} (hs : LineEx s ex) (l : LaneNo) :
    LineEx (s.durationEnd l) ex := by
  unfold State.durationEnd
  simp only
  have h1 : LineEx (s.modBch l fun c => { c with durationExpired := true }) ex :=
    hs.of_view (lineView_modBch s l _ rfl)
  split
  · exact hs
  · split
    · split
      · exact h1.completeOrder l
      · exact h1
    · exact hs

theorem LineEx.recoatEnd {s : State} {ex : Nat → Prop} (hs : LineEx s ex) (l : LaneNo) :
    LineEx (s.recoatEnd l) ex := by
  unfold State.recoatEnd
  split
  · exact LineEx.nextCoat (hs.of_view (lineView_modBch s l _ rfl)) l
  · exact hs

@[simp] theorem lineView_moveTimeoutEnd (s : State) (l : LaneNo) : (s.moveTimeoutEnd l).lineView = s.lineView := by
  unfold State.moveTimeoutEnd
  simp only
  split
  · rfl
  · split <;> simp

@[simp] theorem lineView_gantryErrSample (s : State) (l : LaneNo) (v : Bool) :
    (s.gantryErrSample l v).lineView = s.lineView := by
  unfold State.gantryErrSample
  simp only
  split <;> simp

@[simp] theorem lineView_countPulse (s : State) (l : LaneNo) : (s.countPulse l).lineView = s.lineView := by
  unfold State.countPulse
  simp only
  split
  · rfl
  · split
    · exact lineView_modBch s l _ rfl
    · rfl

end Sys2Proof.Machine
end

