-- ==== Sys2Proof/Laws/LineArrivals.lean ====
section
/-! SUPPORT. What arrivals do to the line's invariant (`LineEx`): each station keeps it for a record that stands at the
station's position, and leaves every other pending arrival pending (`Settles`, `Pending`). -/

namespace Sys2Proof.Machine

/-! ### What an arrival leaves of every record -/

/-- Stations, mode, every record's lane, and its place unless the record is parked, are as they were. -/
structure Settles (s t : State) : Prop where
  offsets : t.params.offsets = s.params.offsets
  tolerance : t.params.eyeTolerance = s.params.eyeTolerance
  mode : t.mode = s.mode
  panels : ∀ k p, s.panel k = some p → ∃ q, t.panel k = some q ∧ q.lane = p.lane ∧
    (p.stage = .parked → q.stage = .parked) ∧ (q.place = p.place ∨ q.stage = .parked)

theorem Settles.refl (s : State) : Settles s s :=
  ⟨rfl, rfl, rfl, fun _ p h => ⟨p, h, rfl, id, .inl rfl⟩⟩

theorem Settles.trans {s t u : State} (h : Settles s t) (g : Settles t u) : Settles s u := by
  refine ⟨g.offsets.trans h.offsets, g.tolerance.trans h.tolerance, g.mode.trans h.mode, fun k p hp => ?_⟩
  obtain ⟨q, hq, h1, h2, h3⟩ := h.panels k p hp
  obtain ⟨r, hr, g1, g2, g3⟩ := g.panels k q hq
  refine ⟨r, hr, g1.trans h1, fun e => g2 (h2 e), ?_⟩
  rcases g3 with e | e
  · rcases h3 with e' | e'
    · exact .inl (e.trans e')
    · exact .inr (g2 e')
  · exact .inr e

theorem Settles.of_view {s t : State} (h : t.lineView = s.lineView) : Settles s t := by
  refine ⟨congrArg LineView.offsets h, congrArg LineView.tolerance h, congrArg LineView.mode h, fun k p hp => ?_⟩
  obtain ⟨q, hq, e⟩ := panel_of_view h.symm hp
  simp only [panelKey, PanelKey.mk.injEq] at e
  exact ⟨q, hq, e.1.symm, fun hst => e.2.1 ▸ hst, .inl e.2.2.1.symm⟩

/-- A change that keeps slots, parameters and mode. -/
theorem Settles.of_slots {s t : State} (h : t.slots = s.slots ∧ t.params = s.params ∧ t.mode = s.mode) :
    Settles s t := by
  refine ⟨by rw [h.2.1], by rw [h.2.1], h.2.2, fun k p hp => ⟨p, ?_, rfl, id, .inl rfl⟩⟩
  unfold State.panel at hp ⊢
  rw [h.1]; exact hp

/-- A change of one record that keeps its lane, and its place unless it is parked. -/
theorem Settles.modPanel (s : State) (h : Nat) (f : Panel → Panel)
    (hf : ∀ p, s.panel h = some p → (f p).lane = p.lane ∧ (p.stage = .parked → (f p).stage = .parked) ∧
      ((f p).place = p.place ∨ (f p).stage = .parked)) : Settles s (s.modPanel h f) := by
  obtain ⟨e1, e2, -⟩ := s.modPanel_rest h f
  refine ⟨by rw [e1], by rw [e1], e2, fun k p hp => ?_⟩
  by_cases hk : k = h
  · subst k
    exact ⟨f p, by rw [State.panel_modPanel_self, hp]; rfl, (hf p hp).1, (hf p hp).2.1, (hf p hp).2.2⟩
  · exact ⟨p, by rw [State.panel_modPanel_ne _ _ hk]; exact hp, rfl, id, .inl rfl⟩

theorem Settles.endWindow {s : State} {h : Nat} {p : Panel} (hp : s.panel h = some p) (hst : p.stage ≠ .parked) :
    Settles s (s.endWindow h) := by
  unfold State.endWindow
  rw [hp]
  refine Settles.trans ?_ (Settles.of_view (lineView_raise _ _ _))
  refine Settles.trans (Settles.of_slots (t := s.leaveInspecting p.lane h) ⟨rfl, rfl, rfl⟩) ?_
  refine Settles.modPanel _ _ _ fun q hq => ⟨rfl, fun e => ?_, .inl rfl⟩
  have hq' : s.panel h = some q := hq
  rw [hp] at hq'
  obtain rfl := Option.some.inj hq'
  exact absurd e hst

theorem Settles.reuseTag {s : State} {ex : Nat → Prop} (hs : LineEx s ex) (l : LaneNo) :
    Settles s (s.reuseTag l) := by
  unfold State.reuseTag
  split
  · exact Settles.refl s
  · rename_i h e
    have hmem := List.mem_of_find?_eq_some e
    obtain ⟨p, hp, -, hst⟩ := ((hs.inspecting l).2 h).1 hmem
    exact Settles.endWindow hp (by rw [hst]; simp)

theorem Settles.trigger {s : State} {ex : Nat → Prop} (hs : LineEx s ex) (l : LaneNo) {h : Nat} {p : Panel}
    (hp : s.panel h = some p) (h1 : p.stage = .admitted) : Settles s (s.trigger l h) := by
  have hkeep := (hs.reuseTag l).2.2 h p hp (by simp [h1])
  refine (Settles.reuseTag hs l).trans ?_
  unfold State.trigger State.owePulse
  simp only
  generalize hue : s.reuseTag l = u at *
  refine Settles.trans (Settles.modPanel u h
    (fun p => { p with inspectTag := some (s.mvf.get l).tag, stage := .inspecting }) fun q hq => ⟨rfl, fun e => ?_, .inl rfl⟩)
    (Settles.of_slots ⟨rfl, rfl, rfl⟩)
  rw [hkeep] at hq
  obtain rfl := Option.some.inj hq
  simp [h1] at e

theorem Settles.divert (s : State) (l : LaneNo) (g : DivertGate) (h : Nat) : Settles s (s.divert l g h) := by
  unfold State.divert
  refine Settles.trans (t := s.modLtk l fun t => (t.without h).pulse g (s.later s.params.divertPulse))
    (Settles.of_slots ⟨rfl, rfl, rfl⟩) ?_
  exact Settles.modPanel _ _ _ fun _ _ => ⟨rfl, fun _ => rfl, .inr rfl⟩

/-! ### Pending arrivals -/

/-- An arrival waits to be handed over: the record stands at the station's position, or has been parked since. -/
def Pending (s : State) (l : LaneNo) (a : StationNo × Nat) : Prop :=
  ∃ p, s.panel a.2 = some p ∧ (p.stage = .parked ∨
    (p.lane = l ∧ ∃ pl, p.place = some pl ∧ (a.1, pl.pos) ∈ stationTable s.params pl.sect))

theorem Pending.settles {s t : State} {l : LaneNo} {a : StationNo × Nat} (h : Settles s t) (hp : Pending s l a) :
    Pending t l a := by
  obtain ⟨p, hp, hc⟩ := hp
  obtain ⟨q, hq, h1, h2, h3⟩ := h.panels _ _ hp
  have htab : ∀ sec, stationTable t.params sec = stationTable s.params sec := by
    intro sec
    cases sec <;> simp only [stationTable, Params.offset, h.offsets, h.tolerance]
  refine ⟨q, hq, ?_⟩
  rcases hc with e | ⟨e1, pl, e2, e3⟩
  · exact .inl (h2 e)
  · rcases h3 with e | e
    · exact .inr ⟨h1.trans e1, pl, e.trans e2, by rw [htab]; exact e3⟩
    · exact .inl e

/-- What a pending arrival at a front station whose record is not parked says. -/
theorem Pending.front {s : State} {l : LaneNo} {st : StationNo} {h : Nat} {p : Panel} (hp : Pending s l (st, h))
    (e : s.panel h = some p) (hst : p.stage ≠ .parked) : p.lane = l ∧ ∃ pl, p.place = some pl ∧
      (st = .mask → pl.sect = .front ∧ pl.pos = s.params.offset .mask) ∧
      (st = .divertA → pl.sect = .front ∧ pl.pos = s.params.offset .divertA) ∧
      (st = .booth → pl.sect = .front ∧ pl.pos = s.params.offset .booth) ∧
      (st = .divertB → pl.sect = .front ∧ pl.pos = s.params.offset .divertB) := by
  obtain ⟨q, hq, hc⟩ := hp
  obtain rfl : p = q := Option.some.inj (e.symm.trans hq)
  obtain ⟨h1, pl, h2, h3⟩ := hc.resolve_left hst
  refine ⟨h1, pl, h2, ?_⟩
  cases hs : pl.sect <;> cases st <;> simp [stationTable, hs] at h3 ⊢ <;> exact h3

/-! ### Stations -/

section
variable {s : State} {ex : Nat → Prop} {l : LaneNo} {h : Nat}

theorem LineEx.closeIdWindow (hs : LineEx s ex) :
    LineEx (s.closeIdWindow h) ex ∧ Settles s (s.closeIdWindow h) := by
  unfold State.closeIdWindow
  split
  · exact ⟨hs, Settles.refl s⟩
  · rename_i p hp
    split
    · rename_i hst
      have h1 := hs.leaveEntered hp hst
      have h2 : Settles s (s.leaveEntered h) := Settles.modPanel _ _ _ fun q hq => by
        rw [hp] at hq
        obtain rfl := Option.some.inj hq
        exact ⟨rfl, fun e => absurd (e.symm.trans hst) (by simp), .inl rfl⟩
      simp only
      split
      · exact ⟨h1.of_view (lineView_raise _ _ _), h2.trans (Settles.of_view (lineView_raise _ _ _))⟩
      · exact ⟨h1, h2⟩
    · exact ⟨hs, Settles.refl s⟩

@[simp] theorem lineView_addRef (s : State) (r : Nat) : (s.addRef r).lineView = s.lineView := lineView_modRecipe s r _

/-- The mask verifier's station, for an ADMITTED record before DIVERT_A (R85, R86). -/
theorem LineEx.maskStation {p : Panel} {pl : Place} (hs : LineEx s ex) (hp : s.panel h = some p)
    (h1 : p.stage = .admitted) (hl : p.lane = l) (hpl : p.place = some pl)
    (hpos : pl.pos < s.params.offset .divertA) :
    LineEx (s.maskStation l h) ex ∧ Settles s (s.maskStation l h) := by
  unfold State.maskStation
  rw [hp]
  have hv : ∀ f : Panel → Panel, panelKey (f p) = { panelKey p with stage := .verified } →
      LineEx (s.modPanel h f) ex ∧ Settles s (s.modPanel h f) := by
    intro f hf
    refine ⟨hs.restage hp f .verified hf (by simp [h1, Stage.onFront]) (by simp [Stage.onFront]) fun m e =>
      absurd e (hs.not_served hp (by simp [h1]) (by simp [h1]) m), Settles.modPanel _ _ _ fun q hq => ?_⟩
    rw [hp] at hq
    obtain rfl := Option.some.inj hq
    simp only [panelKey, PanelKey.mk.injEq] at hf
    exact ⟨hf.1, fun e => absurd (e.symm.trans h1) (by simp), .inl hf.2.2.1⟩
  simp only
  split
  · exact hv _ rfl
  · split
    · have := hv (fun p => { p with stage := .verified, mask := none }) rfl
      exact ⟨this.1.of_view (lineView_raise _ _ _), this.2.trans (Settles.of_view (lineView_raise _ _ _))⟩
    · exact ⟨hs.trigger hp h1 hl hpl hpos, Settles.trigger hs l hp h1⟩

theorem LineEx.arriveMask (hs : LineEx s ex) (hr : s.mode = .run) (ha : Pending s l (.mask, h)) :
    LineEx (s.arriveMask l h) ex ∧ Settles s (s.arriveMask l h) := by
  unfold State.arriveMask
  split
  · exact ⟨hs, Settles.refl s⟩
  rename_i p hp
  split
  · rename_i hst
    obtain ⟨hl, pl, hpl, hm, -⟩ := ha.front hp (by simp [hst])
    obtain ⟨hsec, hpos⟩ := hm rfl
    have hlt := (hs.stations hr).1
    split
    · exact hs.maskStation hp hst hl hpl (by omega)
    · split
      · rename_i r _
        have hv : ((s.modPanel h fun p => { p with recipe := some r }).addRef r).lineView = s.lineView := by
          rw [lineView_addRef]; exact lineView_modPanel s h _ fun _ _ => rfl
        obtain ⟨q, hq, hk⟩ := panel_of_view hv.symm hp
        simp only [panelKey, PanelKey.mk.injEq] at hk
        have hoff : ((s.modPanel h fun p => { p with recipe := some r }).addRef r).params.offsets = s.params.offsets :=
          congrArg LineView.offsets hv
        obtain ⟨g1, g2⟩ := (hs.of_view hv).maskStation (l := l) hq (hk.2.1 ▸ hst) (hk.1 ▸ hl) (hk.2.2.1 ▸ hpl)
          (by simp only [Params.offset, hoff] at hpos hlt ⊢; omega)
        exact ⟨g1, (Settles.of_view hv).trans g2⟩
      · exact ⟨hs.of_view (lineView_raise _ _ _), Settles.of_view (lineView_raise _ _ _)⟩
  · exact ⟨hs, Settles.refl s⟩

theorem LineEx.endOpenWindow (hs : LineEx s ex) :
    LineEx (s.endOpenWindow h) (fun k => ex k ∧ k ≠ h) ∧ Settles s (s.endOpenWindow h) ∧
      ∀ p, (s.endOpenWindow h).panel h = some p → p.stage ≠ .inspecting := by
  unfold State.endOpenWindow
  have close : (∀ p, s.panel h = some p → p.stage ≠ .inspecting) → LineEx s fun k => ex k ∧ k ≠ h := fun hn =>
    { hs with before := fun k p pl a b c => (hs.before k p pl a b c).imp_right fun x =>
        ⟨x.1, x.2, fun e => hn p (e ▸ a) b⟩ }
  split
  · rename_i e
    exact ⟨close fun p hp => by simp [e] at hp, Settles.refl s, fun p hp => by simp [e] at hp⟩
  · rename_i p hp
    split
    · rename_i hst
      refine ⟨hs.endWindow (fun k hk x => ⟨x, hk⟩) hp hst, Settles.endWindow hp (by simp [hst]), fun q hq => ?_⟩
      unfold State.endWindow at hq
      rw [hp] at hq
      simp only [State.panel_raise, State.panel_modPanel, if_true] at hq
      have : (s.leaveInspecting p.lane h).panel h = some p := hp
      rw [this] at hq
      simp only [Option.map_some, Option.some.injEq] at hq
      rw [← hq, Panel.raise_frame]
      simp
    · rename_i hst
      have hn : ∀ q, s.panel h = some q → q.stage ≠ .inspecting := fun q hq => by
        rw [hp] at hq; obtain rfl := Option.some.inj hq; exact hst
      exact ⟨close hn, Settles.refl s, hn⟩

theorem LineEx.arriveDivertA (hs : LineEx s ex) (hr : s.mode = .run) (ha : Pending s l (.divertA, h)) :
    LineEx (s.arriveDivertA l h) (fun k => ex k ∧ k ≠ h) ∧ Settles s (s.arriveDivertA l h) := by
  obtain ⟨h1, h2, h3⟩ := hs.endOpenWindow (h := h)
  unfold State.arriveDivertA
  simp only
  generalize s.endOpenWindow h = u at *
  split
  · have ha' := ha.settles h2
    obtain ⟨p, hp, hc⟩ := ha'
    have hlane : p.lane = l ∨ p.place = none := by
      rcases hc with e | e
      · right
        obtain ⟨-, b, -⟩ := h1.placed h p hp
        cases hpl : p.place with
        | none => rfl
        | some pl =>
          obtain ⟨-, x, y⟩ := b pl hpl
          cases hsec : pl.sect with
          | front => simp [e, Stage.onFront] at x; exact absurd hsec x
          | oven => simp [e, Stage.onOven] at y; exact absurd hsec y
      · exact .inl e.1
    have hre : p.stage ≠ .reentering := by
      intro e
      rcases hc with e' | ⟨-, pl, hpl, -⟩
      · simp [e] at e'
      · obtain ⟨-, b, -⟩ := h1.placed h p hp
        obtain ⟨-, x, y⟩ := b pl hpl
        cases hsec : pl.sect with
        | front => simp [e, Stage.onFront] at x; exact absurd hsec x
        | oven => simp [e, Stage.onOven] at y; exact absurd hsec y
    refine ⟨h1.divert hp hlane (h3 p hp) hre (fun m e => ?_) .a, h2.trans (Settles.divert u l .a h)⟩
    obtain ⟨q, pl, hq, g1, g2, g3, g4, g5⟩ := h1.served m h e
    obtain rfl : p = q := Option.some.inj (hp.symm.trans hq)
    have hnp : p.stage ≠ .parked := fun e => by rcases g5 with x | x <;> simp [e] at x
    obtain ⟨-, pl', hpl', -, hA, -⟩ := Pending.front (ha.settles h2) hp hnp
    obtain rfl : pl = pl' := Option.some.inj (g2.symm.trans hpl')
    have hst := h1.stations (h2.mode.trans hr)
    have := (hA rfl).2
    omega
  · exact ⟨h1, h2⟩

theorem LineEx.arriveBooth (hs : LineEx s ex) (ha : Pending s l (.booth, h)) :
    LineEx (s.arriveBooth l h) ex ∧ Settles s (s.arriveBooth l h) := by
  unfold State.arriveBooth
  split
  · exact ⟨hs, Settles.refl s⟩
  rename_i p hp
  split
  · rename_i hst
    obtain ⟨hl, pl, hpl, -, -, hb, -⟩ := ha.front hp (by simp [hst])
    obtain ⟨hsec, hpos⟩ := hb rfl
    split
    · refine ⟨hs.takeAtBooth hp hl hpl hsec (by omega) hst, ?_⟩
      unfold State.takeAtBooth
      simp only
      split
      · exact Settles.trans (Settles.of_slots (t := (s.modBch l _).modLtk l _) ⟨rfl, rfl, rfl⟩)
          (Settles.of_view (lineView_enterFault _ _))
      · exact Settles.of_slots ⟨rfl, rfl, rfl⟩
    · exact ⟨hs.of_view (lineView_raise _ _ _), Settles.of_view (lineView_raise _ _ _)⟩
    · exact ⟨hs.of_view (lineView_raise _ _ _), Settles.of_view (lineView_raise _ _ _)⟩
  · exact ⟨hs, Settles.refl s⟩

theorem LineEx.arriveDivertB (hs : LineEx s ex) (hr : s.mode = .run) (ha : Pending s l (.divertB, h)) :
    LineEx (s.arriveDivertB l h) ex ∧ Settles s (s.arriveDivertB l h) := by
  unfold State.arriveDivertB
  split
  · exact ⟨hs, Settles.refl s⟩
  rename_i p hp
  split
  · exact ⟨hs.of_view (lineView_faultCause _ _), Settles.of_view (lineView_faultCause _ _)⟩
  rename_i hserved
  split
  · refine ⟨?_, Settles.divert s l .b h⟩
    obtain ⟨-, b, -⟩ := hs.placed h p hp
    by_cases hpk : p.stage = .parked
    · refine hs.divert hp (.inr ?_) (by simp [hpk]) (by simp [hpk])
        (hs.not_served hp (by simp [hpk]) (by simp [hpk])) .b
      cases hpl : p.place with
      | none => rfl
      | some pl =>
        obtain ⟨-, x, y⟩ := b pl hpl
        cases hsec : pl.sect with
        | front => simp [hpk, Stage.onFront] at x; exact absurd hsec x
        | oven => simp [hpk, Stage.onOven] at y; exact absurd hsec y
    · obtain ⟨hl, pl, hpl, -, -, -, hB⟩ := ha.front hp hpk
      obtain ⟨hsec, hpos⟩ := hB rfl
      have hst := hs.stations hr
      refine hs.divert hp (.inl hl) (fun e => ?_) (fun e => ?_) (fun m e => ?_) .b
      · have := hs.before h p pl hp e hpl
        omega
      · have := (b pl hpl).2.1 hsec
        simp [e, Stage.onFront] at this
      · obtain ⟨q, -, hq, g1, -⟩ := hs.served m h e
        obtain rfl : p = q := Option.some.inj (hp.symm.trans hq)
        rw [hl] at g1
        subst m
        exact hserved e
  · exact ⟨hs, Settles.refl s⟩

@[simp] theorem lineView_arriveFlash (s : State) (l : LaneNo) (h : Nat) : (s.arriveFlash l h).lineView = s.lineView := by
  unfold State.arriveFlash
  split
  · rfl
  · split
    · rfl
    · split
      · exact lineView_modLtk _ _ _ ⟨rfl, rfl, rfl⟩
      · rfl

@[simp] theorem lineView_missTransfer (s : State) (l : LaneNo) (h : Nat) :
    (s.missTransfer l h).lineView = s.lineView := by
  unfold State.missTransfer; split <;> simp

@[simp] theorem lineView_missUnload (s : State) (l : LaneNo) (h : Nat) :
    (s.missUnload l h).lineView = s.lineView := by
  unfold State.missUnload; split <;> simp

@[simp] theorem lineView_exitDecision (s : State) (h : Nat) : (s.exitDecision h).lineView = s.lineView := by
  unfold State.exitDecision
  split
  · rfl
  · rename_i p hp
    split
    · rename_i c prof _ _
      have hv : ∀ x : Panel, panelKey x = panelKey p → (s.setSlot h (some x)).lineView = s.lineView := fun x hx => by
        rw [← State.modPanel_of_live hp fun _ => x]
        refine lineView_modPanel s h _ fun q hq => ?_
        rw [hp] at hq
        obtain rfl := Option.some.inj hq
        exact hx
      split
      · exact hv _ rfl
      · rw [lineView_raise]; exact hv _ rfl
    · rfl

/-- A record on the oven section takes the other stage of that section (R64). -/
theorem LineEx.restageOven {p : Panel} (hs : LineEx s ex) (hp : s.panel h = some p) (f : Panel → Panel) (st : Stage)
    (hf : panelKey (f p) = { panelKey p with stage := st }) (h1 : p.stage.onOven = true) (h2 : st.onOven = true) :
    LineEx (s.modPanel h f) ex := by
  have hq : (s.modPanel h f).panel h = some (f p) := by rw [State.panel_modPanel_self, hp]; rfl
  have hk : ∀ k, k ≠ h → (s.modPanel h f).panel k = s.panel k := fun k e => s.panel_modPanel_ne f e
  obtain ⟨e1, e2, e3, e4, e5⟩ := s.modPanel_rest h f
  simp only [panelKey, PanelKey.mk.injEq] at hf
  obtain ⟨k1, k2, k3, k4, k5⟩ := hf
  have n1 : ∀ x : Stage, x.onOven = true → x ≠ .reentering ∧ x ≠ .inspecting ∧ x ≠ .flashing ∧ x ≠ .verified ∧
      x ≠ .spraying ∧ x.onFront = false ∧ x.offLane = false := by
    intro x; cases x <;> simp [Stage.onOven, Stage.onFront, Stage.offLane]
  obtain ⟨p1, p2, p3, p4, p5, p6, p7⟩ := n1 _ h1
  obtain ⟨q1, q2, q3, -⟩ := n1 _ h2
  refine hs.move (fun _ _ x => x) hk e1 e2 ?_ ?_ ?_ ?_ ?_ ?_ ?_ ?_
  · rw [e3]; exact lists_same hs.front hk fun l => by simp [hp, hq, standsOn, k1, k3]
  · rw [e3]; exact lists_same hs.oven hk fun l => by simp [hp, hq, standsOn, k1, k3]
  · rw [e3]; exact lists_same hs.reentry hk fun l => by simp [hp, hq, staged, k2, p1, q1]
  · rw [e4]; exact lists_same hs.inspecting hk fun l => by simp [hp, hq, staged, k2, p2, q2]
  · intro q e
    rw [hq] at e
    obtain rfl := Option.some.inj e
    obtain ⟨a, b, c, d⟩ := hs.placed h p hp
    refine ⟨fun hn => ?_, fun pl hpl => ?_, ?_, ?_⟩
    · have := a (k3 ▸ hn)
      simp [p7] at this
    · obtain ⟨x, y, z⟩ := b pl (k3 ▸ hpl)
      refine ⟨x, fun e => ?_, fun _ => k2 ▸ h2⟩
      simp [y e] at p6
    · rw [k4, c, k2]; simp [p2, q2]
    · rw [k5, d, k2]; simp [p3, q3]
  · intro q e hst
    rw [hq] at e
    obtain rfl := Option.some.inj e
    exact absurd (k2 ▸ hst) q2
  · intro m k e
    rw [e5] at e
    exact ⟨fun _ => e, fun hkh => absurd (hkh ▸ e) (hs.not_served hp p4 p5 m)⟩
  · intro q pl e hst
    rw [hq] at e
    obtain rfl := Option.some.inj e
    exact absurd (k2 ▸ hst) q2

theorem LineEx.arriveOvenOut (hs : LineEx s ex) : LineEx (s.arriveOvenOut h) ex ∧ Settles s (s.arriveOvenOut h) := by
  unfold State.arriveOvenOut
  split
  · exact ⟨hs, Settles.refl s⟩
  rename_i p hp
  split
  · rename_i hst
    have hv := lineView_exitDecision s h
    obtain ⟨q, hq, hk⟩ := panel_of_view hv.symm hp
    simp only [panelKey, PanelKey.mk.injEq] at hk
    have hq' : q.stage = .curing := hk.2.1.symm.trans hst
    refine ⟨(hs.of_view hv).restageOven hq _ .exited rfl (by simp [hq', Stage.onOven]) rfl,
      (Settles.of_view hv).trans (Settles.modPanel _ _ _ fun r hr => ?_)⟩
    rw [hq] at hr
    obtain rfl := Option.some.inj hr
    exact ⟨rfl, fun e => absurd (e.symm.trans hq') (by simp), .inl rfl⟩
  · exact ⟨hs, Settles.refl s⟩

/-- One arrival handed to its station (R44). -/
theorem LineEx.arrive (hs : LineEx s ex) (hr : s.mode = .run) (a : StationNo × Nat) (ha : Pending s l a) :
    LineEx (s.arrive l a) (fun k => ex k ∧ ¬(a.1 = .divertA ∧ k = a.2)) ∧ Settles s (s.arrive l a) := by
  obtain ⟨st, h⟩ := a
  have open' : ∀ {t : State}, st ≠ .divertA → LineEx t ex ∧ Settles s t →
      LineEx t (fun k => ex k ∧ ¬(st = .divertA ∧ k = h)) ∧ Settles s t := fun hn x =>
    ⟨x.1.mono fun k hk => ⟨hk, fun e => hn e.1⟩, x.2⟩
  have view : ∀ {t : State}, t.lineView = s.lineView → LineEx t ex ∧ Settles s t := fun e =>
    ⟨hs.of_view e, Settles.of_view e⟩
  unfold State.arrive
  cases st
  · exact open' (by simp) hs.closeIdWindow
  · exact open' (by simp) (hs.arriveMask hr ha)
  · obtain ⟨h1, h2⟩ := hs.arriveDivertA hr ha
    exact ⟨h1.mono fun k hk => ⟨hk.1, fun e => hk.2 e.2⟩, h2⟩
  · exact open' (by simp) (hs.arriveBooth ha)
  · exact open' (by simp) (hs.arriveDivertB hr ha)
  · exact open' (by simp) (view (lineView_arriveFlash s l h))
  · exact open' (by simp) (view (lineView_missTransfer s l h))
  · exact open' (by simp) hs.arriveOvenOut
  · exact open' (by simp) (view (lineView_missUnload s l h))

end

/-- A count's arrivals handed over one after another leave no arrival at DIVERT_A open. -/
theorem LineEx.arrivals {s : State} {l : LaneNo} (as : List (StationNo × Nat))
    (hs : LineEx s fun k => (.divertA, k) ∈ as) (hr : s.mode = .run) (ha : ∀ a ∈ as, Pending s l a) :
    LineEx (as.foldl (fun s a => s.arrive l a) s) fun _ => False := by
  induction as generalizing s with
  | nil => exact hs.mono fun k hk => by simp at hk
  | cons a as ih =>
    obtain ⟨h1, h2⟩ := hs.arrive hr a (ha a List.mem_cons_self)
    refine ih (h1.mono fun k hk => ?_) (h2.mode.trans hr) fun b hb => (ha b (List.mem_cons_of_mem _ hb)).settles h2
    obtain ⟨hm, hn⟩ := hk
    rcases List.mem_cons.1 hm with e | e
    · exact absurd ⟨by rw [← e], by rw [← e]⟩ hn
    · exact e

end Sys2Proof.Machine
end

