-- ==== Sys2Proof/Laws/LineEvents.lean ====
section
/-! SUPPORT. What the line's events and requests do to its invariant (`LineEx`): counts, the eyes, identification,
reports, CLEAR_LANE, REENTER, WITHDRAW, RETIRE, START_LINE, STOP_LINE and the parameters; and the requests that leave the
line's view alone. -/

namespace Sys2Proof.Machine

/-! ### Counts (R43, R44) -/

/-- What advancing the records of a list by one count leaves and changes. -/
theorem State.advanceAll (q : List Nat) (hq : q.Nodup) (s : State) :
    (q.foldl (fun s h => s.advance h) s) = { s with slots := (q.foldl (fun s h => s.advance h) s).slots } ∧
    ∀ k, (q.foldl (fun s h => s.advance h) s).panel k =
      if k ∈ q then (s.panel k).map fun p => { p with place := p.place.map Place.advanced } else s.panel k := by
  induction q generalizing s with
  | nil => exact ⟨rfl, fun k => by simp⟩
  | cons h hs ih =>
    rw [List.nodup_cons] at hq
    obtain ⟨i1, i2⟩ := ih hq.2 (s.advance h)
    have hf := (s.modPanel_frame h fun p => { p with place := p.place.map Place.advanced }).1
    refine ⟨?_, fun k => ?_⟩
    · rw [List.foldl_cons, i1]
      unfold State.sameButSlots at hf
      unfold State.advance
      rw [hf]
    · rw [List.foldl_cons, i2]
      unfold State.advance
      rw [State.panel_modPanel]
      by_cases e : k = h
      · subst k; simp [hq.1]
      · simp [e]

theorem mem_insertArrival (n : Nat) (a b : StationNo × Nat) (as : List (StationNo × Nat)) :
    b ∈ insertArrival n a as ↔ b = a ∨ b ∈ as := by
  induction as with
  | nil => simp [insertArrival]
  | cons x xs ih =>
    simp only [insertArrival]
    split
    · simp
    · simp only [List.mem_cons, ih]; tauto

theorem mem_orderArrivals (n : Nat) (b : StationNo × Nat) (as : List (StationNo × Nat)) :
    b ∈ orderArrivals n as ↔ b ∈ as := by
  induction as with
  | nil => rfl
  | cons x xs ih =>
    show b ∈ insertArrival n x (orderArrivals n xs) ↔ _
    rw [mem_insertArrival, ih]; simp

/-- The arrivals of a record: at each station whose position it reaches (R43, R44). -/
theorem State.mem_arrivalsOf (s : State) (sec : LineSection) (h : Nat) (a : StationNo × Nat) :
    a ∈ s.arrivalsOf sec h ↔ a.2 = h ∧ ∃ p pl, s.panel h = some p ∧ p.place = some pl ∧ pl.pos < 32767 ∧
      (a.1, pl.pos + 1) ∈ stationTable s.params sec := by
  obtain ⟨st, k⟩ := a
  unfold State.arrivalsOf State.posOf
  cases hp : s.panel h with
  | none => simp
  | some p =>
    cases hpl : p.place with
    | none => simp [hpl]
    | some pl =>
      simp only [Option.bind_some, hpl, Option.map_some]
      split
      · rename_i hlt
        simp only [List.mem_map, Prod.mk.injEq, stationsAt, List.mem_filter, beq_iff_eq, Option.some.injEq]
        constructor
        · rintro ⟨x, ⟨y, ⟨hy, e⟩, rfl⟩, rfl, rfl⟩
          exact ⟨rfl, p, pl, rfl, hpl, hlt, by rw [← e]; exact hy⟩
        · rintro ⟨rfl, p', pl', rfl, hpl', -, hm⟩
          obtain rfl : pl = pl' := Option.some.inj (hpl.symm.trans hpl')
          exact ⟨st, ⟨(st, pl.pos + 1), ⟨hm, rfl⟩, rfl⟩, rfl, rfl⟩
      · rename_i hlt
        simp only [List.not_mem_nil, false_iff]
        rintro ⟨-, p', pl', e, hpl', hlt', -⟩
        obtain rfl : p = p' := Option.some.inj e
        obtain rfl : pl = pl' := Option.some.inj (hpl.symm.trans hpl')
        exact hlt hlt'

theorem Place.advanced_sect (pl : Place) : pl.advanced.sect = pl.sect := by
  unfold Place.advanced; split <;> rfl

theorem Place.advanced_pos (pl : Place) : pl.advanced.pos = if pl.pos < 32767 then pl.pos + 1 else pl.pos := by
  unfold Place.advanced; split <;> rfl

/-- The records of a list advance: the invariant holds with the arrivals at DIVERT_A open (R43, R90). -/
theorem LineEx.advance {s t : State} {ex : Nat → Prop} {q : List Nat} (hs : LineEx s fun _ => False)
    (ht : t = { s with slots := t.slots })
    (hp : ∀ k, t.panel k = if k ∈ q then (s.panel k).map fun p => { p with place := p.place.map Place.advanced }
      else s.panel k)
    (hex : ∀ k ∈ q, ∀ p pl, s.panel k = some p → p.place = some pl → pl.sect = .front →
      pl.pos < 32767 → pl.pos + 1 = s.params.offset .divertA → ex k) : LineEx t ex := by
  have hltk : t.ltk = s.ltk := by rw [ht]
  have hmvf : t.mvf = s.mvf := by rw [ht]
  have hbch : t.bch = s.bch := by rw [ht]
  have hprm : t.params = s.params := by rw [ht]
  have hm : t.mode = s.mode := by rw [ht]
  -- each record is as it was, but for a place advanced
  have hto : ∀ k r, t.panel k = some r → ∃ p, s.panel k = some p ∧
      (r = p ∨ (k ∈ q ∧ r = { p with place := p.place.map Place.advanced })) := by
    intro k r e
    rw [hp] at e
    split at e
    · rename_i hk
      obtain ⟨p, e1, e2⟩ := Option.map_eq_some_iff.1 e
      exact ⟨p, e1, .inr ⟨hk, e2.symm⟩⟩
    · exact ⟨r, e, .inl rfl⟩
  have hof : ∀ k p, s.panel k = some p → ∃ r, t.panel k = some r ∧
      (r = p ∨ (k ∈ q ∧ r = { p with place := p.place.map Place.advanced })) := by
    intro k p e
    rw [hp]
    split
    · rename_i hk
      exact ⟨_, by rw [e]; rfl, .inr ⟨hk, rfl⟩⟩
    · exact ⟨p, e, .inl rfl⟩
  have hsec : ∀ p : Panel, (p.place.map Place.advanced).map Place.sect = p.place.map Place.sect := by
    intro p; cases p.place <;> simp [Place.advanced_sect]
  have hlists : ∀ {f : LaneNo → List Nat} {kind : LaneNo → Panel → Prop},
      (∀ l p, kind l { p with place := p.place.map Place.advanced } ↔ kind l p) → s.lists f kind → t.lists f kind := by
    intro f kind hk hf l
    refine ⟨(hf l).1, fun h => ((hf l).2 h).trans ⟨?_, ?_⟩⟩
    · rintro ⟨p, e, hkp⟩
      obtain ⟨r, er, hr⟩ := hof h p e
      rcases hr with rfl | ⟨-, rfl⟩
      · exact ⟨_, er, hkp⟩
      · exact ⟨_, er, (hk l p).2 hkp⟩
    · rintro ⟨r, er, hkr⟩
      obtain ⟨p, e, hr⟩ := hto h r er
      rcases hr with rfl | ⟨-, rfl⟩
      · exact ⟨_, e, hkr⟩
      · exact ⟨p, e, (hk l p).1 hkr⟩
  refine ⟨?_, ?_, ?_, ?_, ?_, ?_, ?_, ?_, ?_⟩
  · intro k r er
    obtain ⟨p, e, hr⟩ := hto k r er
    obtain ⟨a, b, c, d⟩ := hs.placed k p e
    rcases hr with rfl | ⟨-, rfl⟩
    · exact ⟨a, b, c, d⟩
    · refine ⟨fun hn => a (by simpa using hn), fun pl hpl => ?_, c, d⟩
      obtain ⟨pl0, h0, h1⟩ := Option.map_eq_some_iff.1 hpl
      obtain ⟨x, y, z⟩ := b pl0 h0
      subst h1
      rw [Place.advanced_sect, Place.advanced_pos]
      refine ⟨?_, y, z⟩
      split <;> omega
  · rw [hltk]; exact hlists (fun l p => by simp only [standsOn, hsec]) hs.front
  · rw [hltk]; exact hlists (fun l p => by simp only [standsOn, hsec]) hs.oven
  · rw [hltk]; exact hlists (fun l p => Iff.rfl) hs.reentry
  · rw [hmvf]; exact hlists (fun l p => Iff.rfl) hs.inspecting
  · intro a b p r ha hb h1 h2 h3 h4
    obtain ⟨p', ep, hp'⟩ := hto a p ha
    obtain ⟨r', er, hr'⟩ := hto b r hb
    have k1 : p.stage = p'.stage ∧ p.lane = p'.lane ∧ p.inspectTag = p'.inspectTag := by
      rcases hp' with rfl | ⟨-, rfl⟩ <;> exact ⟨rfl, rfl, rfl⟩
    have k2 : r.stage = r'.stage ∧ r.lane = r'.lane ∧ r.inspectTag = r'.inspectTag := by
      rcases hr' with rfl | ⟨-, rfl⟩ <;> exact ⟨rfl, rfl, rfl⟩
    exact hs.tags a b p' r' ep er (k1.1 ▸ h1) (k2.1 ▸ h2) (by rw [← k1.2.1, ← k2.2.1]; exact h3)
      (by rw [← k1.2.2, ← k2.2.2]; exact h4)
  · intro l k e
    rw [hbch] at e
    obtain ⟨p, pl, g1, g2, g3, g4, g5, g6⟩ := hs.served l k e
    obtain ⟨r, er, hr⟩ := hof k p g1
    rw [hprm]
    rcases hr with rfl | ⟨-, rfl⟩
    · exact ⟨_, pl, er, g2, g3, g4, g5, g6⟩
    · refine ⟨_, pl.advanced, er, g2, by simp [g3], by rw [Place.advanced_sect]; exact g4, ?_, g6⟩
      rw [Place.advanced_pos]; split <;> omega
  · intro k r pl er h1 h2
    rw [hprm]
    obtain ⟨p, e, hr⟩ := hto k r er
    rcases hr with rfl | ⟨hk, rfl⟩
    · exact .inl ((hs.before k _ pl e h1 h2).resolve_right fun x => x.2)
    · obtain ⟨pl0, h0, rfl⟩ := Option.map_eq_some_iff.1 h2
      have hlt := (hs.before k p pl0 e h1 h0).resolve_right fun x => x.2
      have hfront : pl0.sect = .front := by
        obtain ⟨-, b, -⟩ := hs.placed k p e
        obtain ⟨-, -, y⟩ := b pl0 h0
        cases hsec : pl0.sect with
        | front => rfl
        | oven =>
          have hst : p.stage = .inspecting := h1
          have := y hsec
          simp [hst, Stage.onOven] at this
      rw [Place.advanced_pos]
      split
      · rename_i hp0
        by_cases e2 : pl0.pos + 1 = s.params.offset .divertA
        · exact .inr ⟨e2, hex k hk p pl0 e h0 hfront hp0 e2⟩
        · exact .inl (by omega)
      · exact .inl hlt
  · intro hr
    rw [hprm]
    exact hs.stations (hm ▸ hr)

/-- A count, with the lanes idle in CONFIG (R43, R44). -/
theorem LineEx.count {s : State} (hs : LineEx s fun _ => False) (hm : s.modeOk) (l : LaneNo) (sec : LineSection) :
    LineEx (s.count l sec) fun _ => False := by
  unfold State.count
  split
  · exact hs
  rename_i hid
  have hr : s.mode = .run := by
    cases e : s.mode with
    | run => rfl
    | config => exact absurd (hm.1 e l).1 hid
  simp only
  generalize hq : (s.ltk.get l).queue sec = q
  have hqs : ∀ h, h ∈ q ↔ ∃ p, s.panel h = some p ∧ standsOn sec l p := by
    intro h; rw [← hq]
    cases sec
    · exact (hs.front l).2 h
    · exact (hs.oven l).2 h
  have hnd : q.Nodup := by
    rw [← hq]
    cases sec
    · exact (hs.front l).1
    · exact (hs.oven l).1
  generalize hu : ({ s.restartQuiet l sec with free := s.free + 1 } : State) = u
  have huv : u.lineView = s.lineView := by
    rw [← hu]
    cases sec
    · exact lineView_modLtk s l (fun t => { t with quiet := some (s.later s.params.settleTime) }) ⟨rfl, rfl, rfl⟩
    · rfl
  have hup : u.slots = s.slots ∧ u.params = s.params := by
    rw [← hu]; cases sec <;> exact ⟨rfl, rfl⟩
  have hpan : ∀ k, u.panel k = s.panel k := fun k => by unfold State.panel; rw [hup.1]
  have hus := hs.of_view huv
  obtain ⟨a1, a2⟩ := State.advanceAll q hnd u
  generalize q.foldl (fun s h => s.advance h) u = v at a1 a2
  have hmem : ∀ a, a ∈ orderArrivals s.free (q.flatMap (s.arrivalsOf sec)) ↔ a.2 ∈ q ∧ a ∈ s.arrivalsOf sec a.2 := by
    intro a
    rw [mem_orderArrivals, List.mem_flatMap]
    constructor
    · rintro ⟨h, hh, ha⟩
      have := ((s.mem_arrivalsOf sec h a).1 ha).1
      subst this
      exact ⟨hh, ha⟩
    · rintro ⟨hh, ha⟩
      exact ⟨a.2, hh, ha⟩
  have hv : LineEx v fun k => (.divertA, k) ∈ orderArrivals s.free (q.flatMap (s.arrivalsOf sec)) := by
    refine hus.advance a1 a2 fun k hk p pl hp hpl hsec hlt he => ?_
    rw [hpan] at hp
    rw [hup.2] at he
    rw [hmem]
    refine ⟨hk, (s.mem_arrivalsOf sec k _).2 ⟨rfl, p, pl, hp, hpl, hlt, ?_⟩⟩
    obtain ⟨p', hp', hst⟩ := (hqs k).1 hk
    obtain rfl : p = p' := Option.some.inj (hp.symm.trans hp')
    have : sec = .front := by
      have := hst.2
      rw [hpl] at this
      simp only [Option.map_some, Option.some.injEq] at this
      rw [← this, hsec]
    subst sec
    simp [stationTable, he]
  refine hv.arrivals _ ?_ fun a ha => ?_
  · rw [a1]
    show u.mode = _
    rw [← hu]
    cases sec <;> exact hr
  · obtain ⟨hq', harr⟩ := (hmem a).1 ha
    obtain ⟨-, p, pl, hp, hpl, hlt, htab⟩ := (s.mem_arrivalsOf sec a.2 a).1 harr
    obtain ⟨p', hp', hst⟩ := (hqs a.2).1 hq'
    obtain rfl : p = p' := Option.some.inj (hp.symm.trans hp')
    refine ⟨{ p with place := p.place.map Place.advanced }, by rw [a2, if_pos hq', hpan, hp]; rfl, .inr ⟨hst.1,
      pl.advanced, by simp [hpl], ?_⟩⟩
    have hsec : pl.sect = sec := by
      have := hst.2
      rw [hpl] at this
      simpa using this
    have hvp : v.params = s.params := by rw [a1]; exact hup.2
    rw [hvp, Place.advanced_sect, Place.advanced_pos, if_pos hlt, hsec]
    exact htab

/-! ### The eyes -/

/-- The front head is transferred to the oven section (R62). -/
theorem LineEx.transfer {s : State} {ex : Nat → Prop} {l : LaneNo} {h : Nat} {rest : List Nat} {p : Panel}
    (hs : LineEx s ex) (hfr : (s.ltk.get l).front = h :: rest) (hp : s.panel h = some p)
    (h1 : p.stage ≠ .inspecting) (h2 : ∀ m, (s.bch.get m).served ≠ some h) : LineEx (s.transfer l h rest) ex := by
  obtain ⟨p', hp', hl, hsec⟩ := ((hs.front l).2 h).1 (by show h ∈ (s.ltk.get l).front; rw [hfr]; simp)
  obtain rfl : p = p' := Option.some.inj (hp.symm.trans hp')
  obtain ⟨a, b, c, d⟩ := hs.placed h p hp
  obtain ⟨pl, hpl, hsf⟩ := Option.map_eq_some_iff.1 hsec
  have hon := (b pl hpl).2.1 hsf
  have hnd : (s.ltk.get l).front.Nodup := (hs.front l).1
  rw [hfr, List.nodup_cons] at hnd
  have hno : ∀ m, h ∉ (s.ltk.get m).oven := by
    intro m hm
    obtain ⟨q, x, y⟩ := ((hs.oven m).2 h).1 hm
    obtain rfl : p = q := Option.some.inj (hp.symm.trans x)
    rw [standsOn, hsec] at y
    simp at y
  unfold State.transfer
  simp only
  generalize hu : State.modLtk l (fun t => { t with front := rest, oven := t.oven ++ [h] }) s = u
  have hup : ∀ k, u.panel k = s.panel k := fun k => by rw [← hu]; rfl
  generalize hfe : transferred u.params.ambient u.tick = f
  have hf : (f p).lane = p.lane ∧ (f p).stage = .curing ∧ (f p).place = some { sect := .oven, pos := 0 } ∧
      (f p).inspectTag = p.inspectTag ∧ (f p).flashEnd = none := by rw [← hfe]; exact ⟨rfl, rfl, rfl, rfl, rfl⟩
  obtain ⟨k1, k2, k3, k4, k5⟩ := hf
  suffices hm : LineEx (u.modPanel h f) ex by
    split
    · exact hm.of_view (lineView_raise _ _ _)
    · exact hm
  obtain ⟨e1, e2, e3, e4, e5⟩ := u.modPanel_rest h f
  have hq : (u.modPanel h f).panel h = some (f p) := by rw [State.panel_modPanel_self, hup, hp]; rfl
  have hk : ∀ k, k ≠ h → (u.modPanel h f).panel k = s.panel k := fun k e => by
    rw [State.panel_modPanel_ne _ _ e, hup]
  have hltk : ∀ m, ((u.modPanel h f).ltk.get m).front = (if m = l then rest else (s.ltk.get m).front) ∧
      ((u.modPanel h f).ltk.get m).oven = (if m = l then (s.ltk.get m).oven ++ [h] else (s.ltk.get m).oven) ∧
      ((u.modPanel h f).ltk.get m).reentry = (s.ltk.get m).reentry := by
    intro m
    rw [e3, ← hu]
    simp only [State.modLtk, PerLane.get_set]
    split
    · subst m; exact ⟨rfl, rfl, rfl⟩
    · exact ⟨rfl, rfl, rfl⟩
  refine hs.move (fun _ _ x => x) hk (by rw [e1, ← hu]; rfl) (by rw [e2, ← hu]; rfl) ?_ ?_ ?_ ?_ ?_ ?_ ?_ ?_
  · simp only [(hltk _).1]
    refine lists_update hs.front hk (fun m => ?_) (fun m k e => ?_) fun m => ?_
    · split
      · exact hnd.2
      · exact (hs.front m).1
    · split
      · subst m; rw [hfr]; simp [e]
      · rfl
    · constructor
      · intro hm
        split at hm
        · exact absurd hm hnd.1
        · obtain ⟨q, x, y⟩ := ((hs.front m).2 h).1 hm
          obtain rfl : p = q := Option.some.inj (hp.symm.trans x)
          exact absurd (y.1.symm.trans hl) (by assumption)
      · rintro ⟨q, x, y⟩
        rw [hq] at x
        obtain rfl := Option.some.inj x
        simp [standsOn, k3] at y
  · simp only [(hltk _).2.1]
    refine lists_update hs.oven hk (fun m => ?_) (fun m k e => ?_) fun m => ?_
    · split
      · rw [List.nodup_append]
        refine ⟨(hs.oven m).1, by simp, fun x hx y hy => ?_⟩
        simp only [List.mem_singleton] at hy
        rintro rfl
        exact hno m (hy ▸ hx)
      · exact (hs.oven m).1
    · split
      · simp [e]
      · rfl
    · constructor
      · intro hm
        split at hm
        · exact ⟨f p, hq, by rw [k1, hl]; symm; assumption, by rw [k3]; rfl⟩
        · exact absurd hm (hno m)
      · rintro ⟨q, x, y⟩
        rw [hq] at x
        obtain rfl := Option.some.inj x
        rw [if_pos (y.1.symm.trans (k1.trans hl))]
        simp
  · simp only [(hltk _).2.2]
    refine lists_same hs.reentry hk fun m => ?_
    have : p.stage ≠ .reentering := fun e => by simp [e, Stage.onFront] at hon
    simp [hp, hq, staged, k2, this]
  · have e4' : (u.modPanel h f).mvf = s.mvf := by rw [e4, ← hu]; rfl
    rw [e4']
    exact lists_same hs.inspecting hk fun m => by simp [hp, hq, staged, k2, h1]
  · intro q e
    rw [hq] at e
    obtain rfl := Option.some.inj e
    refine ⟨by simp [k3], fun pl' hpl' => ?_, by rw [k4, c, k2]; simp [h1], by rw [k5, k2]; simp⟩
    rw [k3] at hpl'
    obtain rfl := Option.some.inj hpl'
    exact ⟨by simp, by simp, fun _ => by rw [k2]; rfl⟩
  · intro q e hst
    rw [hq] at e
    obtain rfl := Option.some.inj e
    simp [k2] at hst
  · intro m k e
    rw [e5, ← hu] at e
    exact ⟨fun _ => e, fun hkh => absurd (hkh ▸ e) (h2 m)⟩
  · intro q pl' e hst
    rw [hq] at e
    obtain rfl := Option.some.inj e
    simp [k2] at hst

/-- An EYE_OVEN edge (R62). -/
theorem LineEx.ovenEdge {s : State} {ex : Nat → Prop} (hs : LineEx s ex) (hm : s.modeOk) (l : LaneNo) :
    LineEx (s.ovenEdge l) ex := by
  unfold State.ovenEdge
  split
  · exact hs
  rename_i hid
  have hr : s.mode = .run := by
    cases e : s.mode with
    | run => rfl
    | config => exact absurd (hm.1 e l).1 hid
  split
  · exact hs.of_view (lineView_faultCause _ _)
  rename_i h rest e
  split
  · rename_i ht
    obtain ⟨p, hp, hl, hsec⟩ := ((hs.front l).2 h).1 (by show h ∈ (s.ltk.get l).front; rw [e]; simp)
    obtain ⟨pl, hpl, hsf⟩ := Option.map_eq_some_iff.1 hsec
    unfold State.transferable State.posOf at ht
    simp only [hp, Option.bind_some, hpl, Option.map_some, withinEye, Bool.and_eq_true, decide_eq_true_eq,
      bne_iff_ne, ne_eq] at ht
    obtain ⟨⟨⟨hlo, -⟩, hns⟩, -⟩ := ht
    have hst := hs.stations hr
    refine hs.transfer e hp (fun hi => ?_) fun m hsv => ?_
    · have := hs.before h p pl hp hi hpl
      omega
    · obtain ⟨q, -, x, y, -⟩ := hs.served m h hsv
      obtain rfl : p = q := Option.some.inj (hp.symm.trans x)
      rw [hl] at y
      subst m
      exact hns hsv
  · exact hs.of_view (lineView_faultCause _ _)

/-- An EYE_UNLOAD edge (R65). -/
theorem LineEx.unloadEdge {s : State} {ex : Nat → Prop} (hs : LineEx s ex) (l : LaneNo) :
    LineEx (s.unloadEdge l) ex := by
  unfold State.unloadEdge
  split
  · exact hs
  split
  · exact hs.of_view (lineView_faultCause _ _)
  rename_i h rest e
  obtain ⟨p, hp, hl, hsec⟩ := ((hs.oven l).2 h).1 (by show h ∈ (s.ltk.get l).oven; rw [e]; simp)
  obtain ⟨pl, hpl, hso⟩ := Option.map_eq_some_iff.1 hsec
  have hon := ((hs.placed h p hp).2.1 pl hpl).2.2 hso
  have hpos : s.posOf h = some pl.pos := by simp [State.posOf, hp, hpl]
  rw [hp, hpos]
  simp only
  split
  · split
    · rename_i hf
      unfold State.mayFinish at hf
      simp only [Bool.and_eq_true, beq_iff_eq] at hf
      exact hs.finish hp hl hf.1.1
    · have ho : p.stage ≠ .inspecting ∧ p.stage ≠ .reentering ∧ p.stage ≠ .verified ∧ p.stage ≠ .spraying := by
        revert hon; cases p.stage <;> simp [Stage.onOven]
      exact hs.divert hp (.inl hl) ho.1 ho.2.1 (hs.not_served hp ho.2.2.1 ho.2.2.2) .u
  · exact hs.of_view (lineView_faultCause _ _)

/-! ### Timers, identification and reports -/

theorem LineEx.quietEnd {s : State} {ex : Nat → Prop} (hs : LineEx s ex) (l : LaneNo) :
    LineEx (s.quietEnd l) ex := by
  unfold State.quietEnd
  split
  · exact LineEx.settled (hs.of_view (lineView_modLtk s l (fun t => { t with quiet := none }) ⟨rfl, rfl, rfl⟩)) l
  · exact hs

@[simp] theorem lineView_claimEnd (s : State) (l : LaneNo) : (s.claimEnd l).lineView = s.lineView := by
  unfold State.claimEnd
  split
  · exact lineView_modLtk _ _ _ ⟨rfl, rfl, rfl⟩
  · rfl

@[simp] theorem lineView_pulseEnd (s : State) (l : LaneNo) (g : DivertGate) : (s.pulseEnd l g).lineView = s.lineView := by
  unfold State.pulseEnd
  split
  · refine lineView_modLtk _ _ _ ?_
    cases g <;> exact ⟨rfl, rfl, rfl⟩
  · rfl

@[simp] theorem lineView_trigPulseEnd (s : State) (l : LaneNo) : (s.trigPulseEnd l).lineView = s.lineView := by
  unfold State.trigPulseEnd
  split
  · split
    · exact lineView_modMvf _ _ _ rfl
    · rfl
  · rfl

@[simp] theorem lineView_trigRecoveryEnd (s : State) (l : LaneNo) : (s.trigRecoveryEnd l).lineView = s.lineView := by
  unfold State.trigRecoveryEnd
  split
  · split
    · exact lineView_modMvf _ _ _ (by split <;> rfl)
    · rfl
  · rfl

@[simp] theorem lineView_bindRead (s : State) (h : Nat) (p : Panel) (id : PanelId) :
    (s.bindRead h p id).lineView = s.lineView := by
  unfold State.bindRead
  split
  · split
    · rfl
    · exact lineView_raise _ _ _
  · split
    · exact lineView_raise _ _ _
    · refine Eq.trans (lineView_modPanel (s.storeId h id) h (Panel.notify .identified) fun _ _ => rfl) ?_
      exact lineView_modPanel s h (fun p => { p with id := some id }) fun _ _ => rfl

/-- ID_READ (R53). -/
theorem LineEx.takeRead {s : State} {ex : Nat → Prop} (hs : LineEx s ex) : LineEx s.takeRead ex := by
  unfold State.takeRead
  split
  · rename_i l id _
    have h1 : LineEx s.resumeAssembler ex := LineEx.of_view (s := s) rfl hs
    generalize s.resumeAssembler = u at h1
    unfold State.acceptRead
    split
    · exact h1.of_view (lineView_raiseFlag u _)
    · rename_i h e
      split
      · exact h1
      · rename_i p hp
        have hst : p.stage = .entered := by
          have := List.find?_some e
          simpa [hp] using this
        have hv := lineView_bindRead u h p id
        obtain ⟨q, hq, hk⟩ := panel_of_view hv.symm hp
        simp only [panelKey, PanelKey.mk.injEq] at hk
        exact (h1.of_view hv).leaveEntered hq (hk.2.1.symm.trans hst)
  · exact hs

/-- MASK_REPORT (R91, R95). -/
theorem LineEx.takeReport {s : State} {ex : Nat → Prop} (hs : LineEx s ex) : LineEx s.takeReport ex := by
  unfold State.takeReport
  split
  · rename_i l tag pairs _
    have h1 : LineEx s.resumeAssembler ex := LineEx.of_view (s := s) rfl hs
    generalize s.resumeAssembler = u at h1
    unfold State.acceptReport
    split
    · exact h1.of_view (lineView_raiseFlag u _)
    · rename_i h e
      obtain ⟨p, hp, -, hst⟩ := ((h1.inspecting l).2 h).1 (List.mem_of_find?_eq_some e)
      exact h1.applyReport hp hst pairs
  · exact hs

/-- INSPECT_WINDOW_EXPIRY (R89). -/
theorem LineEx.windowTimeout {s : State} {ex : Nat → Prop} (hs : LineEx s ex) (h : Nat) :
    LineEx (s.windowTimeout h) ex := by
  unfold State.windowTimeout
  split
  · exact hs
  · rename_i p hp
    split
    · rename_i hw
      simp only [State.windowExpired, List.any_eq_true, Bool.and_eq_true, beq_iff_eq] at hw
      obtain ⟨w, hw, he, -⟩ := hw
      obtain ⟨q, hq, -, hst⟩ := ((hs.inspecting p.lane).2 h).1 (List.mem_map.2 ⟨w, hw, he⟩)
      obtain rfl : p = q := Option.some.inj (hp.symm.trans hq)
      exact hs.endWindow (fun _ _ x => x) hp hst
    · exact hs

end Sys2Proof.Machine
end

