-- ==== Sys2Proof/Laws/LineRequests.lean ====
section
/-! SUPPORT. What the requests and the oven's events do to the line's invariant (`LineEx`): one lemma says it for every
request (`LineEx.serve`), the others are its cases. -/

namespace Sys2Proof.Machine

/-! ### Records that stand in no list -/

section
variable {s : State} {ex : Nat → Prop} {h : Nat} {p : Panel}

/-- A record off the sections has no place. -/
theorem LineEx.offLane_place (hs : LineEx s ex) (hp : s.panel h = some p) (h1 : p.stage.offLane = true) :
    p.place = none := by
  obtain ⟨-, b, -⟩ := hs.placed h p hp
  cases hpl : p.place with
  | none => rfl
  | some pl =>
    obtain ⟨-, x, y⟩ := b pl hpl
    have hn : p.stage.onFront = false ∧ p.stage.onOven = false := by
      revert h1; cases p.stage <;> simp [Stage.offLane, Stage.onFront, Stage.onOven]
    cases hsec : pl.sect with
    | front => simp [x hsec] at hn
    | oven => simp [y hsec] at hn

/-- A slot becomes FREE whose record is off the sections and awaits no re-entry (R23). -/
theorem LineEx.free {t : State} (hs : LineEx s ex) (hp : s.panel h = some p)
    (h1 : p.stage = .done ∨ p.stage = .parked) (ht : t.panel h = none) (hk : ∀ k, k ≠ h → t.panel k = s.panel k)
    (hltk : t.ltk = s.ltk) (hmvf : t.mvf = s.mvf) (hbch : t.bch = s.bch) (hprm : t.params = s.params)
    (hm : t.mode = s.mode) : LineEx t ex := by
  have hst : p.stage.offLane = true ∧ p.stage ≠ .reentering ∧ p.stage ≠ .inspecting ∧ p.stage ≠ .verified ∧
      p.stage ≠ .spraying := by rcases h1 with e | e <;> simp [e, Stage.offLane]
  have hpl := hs.offLane_place hp hst.1
  have none_ : ∀ {kind : LaneNo → Panel → Prop}, (∀ l, ¬kind l p) →
      ∀ l, (∃ q, s.panel h = some q ∧ kind l q) ↔ ∃ q, t.panel h = some q ∧ kind l q := by
    intro kind hn l
    simp [ht, hp, hn l]
  refine hs.move (fun _ _ x => x) hk hprm hm ?_ ?_ ?_ ?_ ?_ ?_ ?_ ?_
  · rw [hltk]; exact lists_same hs.front hk (none_ fun l => by simp [standsOn, hpl])
  · rw [hltk]; exact lists_same hs.oven hk (none_ fun l => by simp [standsOn, hpl])
  · rw [hltk]; exact lists_same hs.reentry hk (none_ fun l => by simp [staged, hst.2.1])
  · rw [hmvf]; exact lists_same hs.inspecting hk (none_ fun l => by simp [staged, hst.2.2.1])
  · intro q e; simp [ht] at e
  · intro q e; simp [ht] at e
  · intro l k e
    rw [hbch] at e
    exact ⟨fun _ => e, fun hkh => absurd (hkh ▸ e) (hs.not_served hp hst.2.2.2.1 hst.2.2.2.2 l)⟩
  · intro q pl e; simp [ht] at e

/-- A record goes between PARKED and a re-entry list, its lane with it (R169, R171). -/
theorem LineEx.moveReentry {t : State} (hs : LineEx s ex) (hp : s.panel h = some p)
    (h1 : p.stage = .parked ∨ p.stage = .reentering) (f : Panel → Panel)
    (hf : ((f p).stage = .parked ∨ (f p).stage = .reentering) ∧ (f p).place = p.place ∧
      (f p).inspectTag = p.inspectTag ∧ (f p).flashEnd = p.flashEnd)
    (hq : t.panel h = some (f p)) (hk : ∀ k, k ≠ h → t.panel k = s.panel k)
    (hltk : ∀ m, (t.ltk.get m).front = (s.ltk.get m).front ∧ (t.ltk.get m).oven = (s.ltk.get m).oven ∧
      (t.ltk.get m).reentry.Nodup ∧ (∀ k, k ≠ h → (k ∈ (t.ltk.get m).reentry ↔ k ∈ (s.ltk.get m).reentry)) ∧
      (h ∈ (t.ltk.get m).reentry ↔ (f p).lane = m ∧ (f p).stage = .reentering))
    (hmvf : t.mvf = s.mvf) (hbch : t.bch = s.bch) (hprm : t.params = s.params) (hm : t.mode = s.mode) :
    LineEx t ex := by
  obtain ⟨hf1, hf2, hf3, hf4⟩ := hf
  have hst : p.stage.offLane = true ∧ p.stage ≠ .inspecting ∧ p.stage ≠ .verified ∧ p.stage ≠ .spraying ∧
      p.stage ≠ .flashing := by rcases h1 with e | e <;> simp [e, Stage.offLane]
  have hft : (f p).stage.offLane = true ∧ (f p).stage ≠ .inspecting ∧ (f p).stage ≠ .flashing := by
    rcases hf1 with e | e <;> simp [e, Stage.offLane]
  have hpl := hs.offLane_place hp hst.1
  obtain ⟨-, -, c, d⟩ := hs.placed h p hp
  refine hs.move (fun _ _ x => x) hk hprm hm ?_ ?_ ?_ ?_ ?_ ?_ ?_ ?_
  · simp only [(hltk _).1]; exact lists_same hs.front hk fun l => by simp [hp, hq, standsOn, hf2, hpl]
  · simp only [(hltk _).2.1]; exact lists_same hs.oven hk fun l => by simp [hp, hq, standsOn, hf2, hpl]
  · refine lists_update hs.reentry hk (fun l => (hltk l).2.2.1) (fun l => (hltk l).2.2.2.1) fun l => ?_
    refine (hltk l).2.2.2.2.trans ?_
    simp [hq, staged]
  · rw [hmvf]; exact lists_same hs.inspecting hk fun l => by simp [hp, hq, staged, hst.2.1, hft.2.1]
  · intro q e
    rw [hq] at e
    obtain rfl := Option.some.inj e
    refine ⟨fun _ => hft.1, fun pl e => ?_, by rw [hf3, c]; simp [hst.2.1, hft.2.1],
      by rw [hf4, d]; simp [hst.2.2.2.2, hft.2.2]⟩
    rw [hf2, hpl] at e; simp at e
  · intro q e hst'
    rw [hq] at e
    obtain rfl := Option.some.inj e
    exact absurd hst' hft.2.1
  · intro l k e
    rw [hbch] at e
    exact ⟨fun _ => e, fun hkh => absurd (hkh ▸ e) (hs.not_served hp hst.2.2.1 hst.2.2.2.1 l)⟩
  · intro q pl e hst'
    rw [hq] at e
    obtain rfl := Option.some.inj e
    exact absurd hst' hft.2.1

theorem LineEx.serveReenter (hs : LineEx s ex) (h lane point : Nat) : LineEx (serveReenter h lane point s).1 ex := by
  unfold Machine.serveReenter
  split
  · exact hs
  rename_i p hp
  split
  · rename_i l r _ _
    unfold State.reenterChecked
    split; · exact hs
    rename_i hst
    split; · exact hs
    split; · exact hs
    split; · exact hs
    split; · exact hs
    split; · exact hs
    split; · exact hs
    simp only [ne_eq, Decidable.not_not] at hst
    simp only [State.answer_fst]
    obtain ⟨e1, e2, e3, e4, e5⟩ := s.modPanel_rest h (reentered l r)
    have hno : ∀ m, h ∉ (s.ltk.get m).reentry := by
      intro m hm
      obtain ⟨q, x, y⟩ := ((hs.reentry m).2 h).1 hm
      obtain rfl : p = q := Option.some.inj (hp.symm.trans x)
      simp [staged, hst] at y
    refine hs.moveReentry hp (.inl hst) (reentered l r) ⟨.inr rfl, ?_, ?_, ?_⟩ ?_ (fun k e => ?_) (fun m => ?_)
      e4 e5 e1 e2
    · cases r <;> rfl
    · cases r <;> rfl
    · cases r <;> rfl
    · show (s.modPanel h (reentered l r)).panel h = _
      rw [State.panel_modPanel_self, hp]; rfl
    · show (s.modPanel h (reentered l r)).panel k = _
      rw [State.panel_modPanel_ne _ _ e]
    · have hg : (((s.modPanel h (reentered l r)).modLtk l fun t => { t with reentry := t.reentry ++ [h] }).ltk.get m) =
          if m = l then { s.ltk.get m with reentry := (s.ltk.get m).reentry ++ [h] } else s.ltk.get m := by
        simp only [State.modLtk, PerLane.get_set, e3]
        split
        · subst m; rfl
        · rfl
      rw [hg]
      split
      · subst m
        refine ⟨rfl, rfl, ?_, fun k e => by simp [e], by simp [reentered, Panel.notify]⟩
        show ((s.ltk.get l).reentry ++ [h]).Nodup
        rw [List.nodup_append]
        refine ⟨(hs.reentry l).1, by simp, fun x hx y hy => ?_⟩
        simp only [List.mem_singleton] at hy
        rintro rfl
        exact hno l (hy ▸ hx)
      · rename_i hml
        refine ⟨rfl, rfl, (hs.reentry m).1, fun _ _ => Iff.rfl, ?_⟩
        simp only [hno m, false_iff, reentered, Panel.notify]
        exact fun e => hml e.1.symm
  · exact hs

theorem LineEx.serveWithdraw (hs : LineEx s ex) (h : Nat) : LineEx (serveWithdraw h s).1 ex := by
  unfold Machine.serveWithdraw
  split
  · exact hs
  rename_i p hp
  split
  · rename_i hst
    simp only [State.answer_fst]
    generalize hu : s.modLtk p.lane (fun t => { t with reentry := t.reentry.filter (· != h) }) = u
    have hup : ∀ k, u.panel k = s.panel k := fun k => by rw [← hu]; rfl
    obtain ⟨e1, e2, e3, e4, e5⟩ := u.modPanel_rest h fun p => { p with resume := none, stage := .parked }
    refine hs.moveReentry hp (.inr hst) (fun p => { p with resume := none, stage := .parked }) ⟨.inl rfl, rfl, rfl, rfl⟩
      ?_ (fun k e => ?_) (fun m => ?_) (by rw [e4, ← hu]; rfl) (by rw [e5, ← hu]; rfl) (by rw [e1, ← hu]; rfl)
      (by rw [e2, ← hu]; rfl)
    · rw [State.panel_modPanel_self, hup, hp]; rfl
    · rw [State.panel_modPanel_ne _ _ e, hup]
    · have hg : u.ltk.get m =
          if m = p.lane then { s.ltk.get m with reentry := (s.ltk.get m).reentry.filter (· != h) } else s.ltk.get m := by
        rw [← hu]
        simp only [State.modLtk, PerLane.get_set]
        split
        · rename_i e; subst e; rfl
        · rfl
      rw [e3, hg]
      split
      · exact ⟨rfl, rfl, (hs.reentry m).1.filter _, fun k e => by simp [e], by simp⟩
      · rename_i hml
        refine ⟨rfl, rfl, (hs.reentry m).1, fun _ _ => Iff.rfl, ?_⟩
        simp only [reduceCtorEq, and_false, iff_false]
        intro hm
        obtain ⟨q, x, y⟩ := ((hs.reentry m).2 h).1 hm
        obtain rfl : p = q := Option.some.inj (hp.symm.trans x)
        exact hml y.1.symm
  · exact hs

@[simp] theorem lineView_dropRef (s : State) (r : Nat) : (s.dropRef r).lineView = s.lineView := lineView_modRecipe s r _

/-- A change of a recipe leaves slots, lanes, parameters and mode. -/
theorem State.modRecipe_rest (s : State) (r : Nat) (f : Recipe → Recipe) :
    (s.modRecipe r f).slots = s.slots ∧ (s.modRecipe r f).ltk = s.ltk ∧ (s.modRecipe r f).mvf = s.mvf ∧
      (s.modRecipe r f).bch = s.bch ∧ (s.modRecipe r f).params = s.params ∧ (s.modRecipe r f).mode = s.mode := by
  unfold State.modRecipe; split <;> exact ⟨rfl, rfl, rfl, rfl, rfl, rfl⟩

theorem LineEx.serveRetire (hs : LineEx s ex) (h d : Nat) : LineEx (serveRetire h d s).1 ex := by
  unfold Machine.serveRetire
  split
  · exact hs
  rename_i p hp
  split; · exact hs
  split; · exact hs
  rename_i ha
  split; · exact hs
  simp only [State.answer_fst]
  have hst : p.stage = .done ∨ p.stage = .parked := by
    simp only [retireAllowed, Bool.not_eq_true', Bool.not_eq_false, Bool.or_eq_true, Bool.and_eq_true, beq_iff_eq] at ha
    exact ha.imp_left And.left
  have hlt := State.panel_lt hp
  have hu : ∀ u : State, u.slots = s.slots ∧ u.ltk = s.ltk ∧ u.mvf = s.mvf ∧ u.bch = s.bch ∧ u.params = s.params ∧
      u.mode = s.mode → LineEx { u.setSlot h none with
        freeList := insertHandle h (u.setSlot h none).freeList
        idMap := (u.setSlot h none).idMap.filter fun e => e.2 != h } ex := by
    rintro u ⟨g1, g2, g3, g4, g5, g6⟩
    refine hs.free hp hst (State.panel_setSlot_self none hlt) (fun k e => ?_) g2 g3 g4 g5 g6
    refine (State.panel_setSlot_ne (s := u) none e).trans ?_
    unfold State.panel
    rw [g1]
  unfold State.retireRecord
  simp only
  split
  · exact hu _ (State.modRecipe_rest s _ _)
  · exact hu s ⟨rfl, rfl, rfl, rfl, rfl, rfl⟩

end

/-! ### CLEAR_LANE (R68, R96, R132) -/

theorem panel_foldl_modPanel (f : Panel → Panel) (hf : ∀ p, f (f p) = f p) (hs : List Nat) (s : State) (k : Nat) :
    (hs.foldl (fun s h => s.modPanel h f) s).panel k = if k ∈ hs then (s.panel k).map f else s.panel k := by
  induction hs generalizing s with
  | nil => simp
  | cons h hs ih =>
    rw [List.foldl_cons, ih, State.panel_modPanel]
    by_cases e : k = h
    · subst k
      by_cases hm : h ∈ hs
      · simp only [hm, if_true, List.mem_cons, true_or]
        cases s.panel h <;> simp [hf]
      · simp [hm]
    · simp [e]

theorem rest_foldl_modPanel {α : Type} (g : α → Nat) (f : Panel → Panel) (hs : List α) (s : State) :
    (hs.foldl (fun s h => s.modPanel (g h) f) s).params = s.params ∧
    (hs.foldl (fun s h => s.modPanel (g h) f) s).mode = s.mode ∧
    (hs.foldl (fun s h => s.modPanel (g h) f) s).ltk = s.ltk ∧
    (hs.foldl (fun s h => s.modPanel (g h) f) s).mvf = s.mvf ∧
    (hs.foldl (fun s h => s.modPanel (g h) f) s).bch = s.bch := by
  induction hs generalizing s with
  | nil => exact ⟨rfl, rfl, rfl, rfl, rfl⟩
  | cons h hs ih =>
    obtain ⟨e1, e2, e3, e4, e5⟩ := s.modPanel_rest (g h) f
    obtain ⟨i1, i2, i3, i4, i5⟩ := ih (s.modPanel (g h) f)
    exact ⟨i1.trans e1, i2.trans e2, i3.trans e3, i4.trans e4, i5.trans e5⟩

/-- The state that CLEAR_LANE of a lane in FAULT leaves (R68, R96, R132). -/
def State.cleared (l : LaneNo) (s : State) : State :=
  (((s.parkQueued l).clearInspecting l).clearBooth l).modLtk l fun t => { t with flashClaim := none, state := .tracking }

/-- What CLEAR_LANE does to each record: parked if queued, its tag removed if inspected. -/
theorem State.panel_cleared (s : State) (l : LaneNo) (k : Nat) :
    (s.cleared l).panel k =
      let a := if k ∈ (s.ltk.get l).queued then (s.panel k).map parked else s.panel k
      if k ∈ (s.mvf.get l).inspecting.map Window.handle then a.map fun p => { p with inspectTag := none } else a := by
  have h1 : ∀ u : State, (u.clearBooth l).panel k = u.panel k := by
    intro u
    unfold State.clearBooth
    simp only
    split <;> rfl
  have h2 : (s.parkQueued l).panel k = if k ∈ (s.ltk.get l).queued then (s.panel k).map parked else s.panel k := by
    refine Eq.trans ?_ (panel_foldl_modPanel parked (fun p => rfl) (s.ltk.get l).queued s k)
    rfl
  have h3 : (s.parkQueued l).mvf = s.mvf := (rest_foldl_modPanel id parked (s.ltk.get l).queued s).2.2.2.1
  have h4 : ∀ u : State, (u.clearInspecting l).panel k =
      if k ∈ (u.mvf.get l).inspecting.map Window.handle then (u.panel k).map fun p => { p with inspectTag := none }
      else u.panel k := by
    intro u
    refine Eq.trans ?_ (panel_foldl_modPanel (fun p => { p with inspectTag := none }) (fun p => rfl)
      ((u.mvf.get l).inspecting.map Window.handle) u k)
    rw [List.foldl_map]
    rfl
  show (((s.parkQueued l).clearInspecting l).clearBooth l).panel k = _
  rw [h1, h4, h3, h2]

/-- CLEAR_LANE of a lane in FAULT (R68). -/
theorem LineEx.cleared {s : State} {ex : Nat → Prop} (hs : LineEx s ex) (hb : s.boothOk) (l : LaneNo) :
    LineEx (s.cleared l) ex := by
  have hpan := s.panel_cleared l
  have hqm : ∀ h, h ∈ (s.ltk.get l).queued ↔ h ∈ (s.ltk.get l).front ∨ h ∈ (s.ltk.get l).oven := fun h => by
    simp [LaneTrack.queued]
  -- the blocks besides the records
  obtain ⟨p1, p2, p3, p4, p5⟩ := rest_foldl_modPanel id parked (s.ltk.get l).queued s
  have q : ∀ u : State, (u.clearInspecting l).params = u.params ∧ (u.clearInspecting l).mode = u.mode ∧
      (u.clearInspecting l).ltk = u.ltk ∧ (u.clearInspecting l).bch = u.bch ∧
      (u.clearInspecting l).mvf = u.mvf.set l { u.mvf.get l with inspecting := [] } := by
    intro u
    obtain ⟨e1, e2, e3, e4, e5⟩ := rest_foldl_modPanel Window.handle (fun p => { p with inspectTag := none })
      (u.mvf.get l).inspecting u
    refine ⟨e1, e2, e3, e5, ?_⟩
    simp only [State.clearInspecting, State.modMvf, e4]
  have b : ∀ u : State, (u.clearBooth l).params = u.params ∧ (u.clearBooth l).mode = u.mode ∧
      (u.clearBooth l).mvf = u.mvf ∧
      (∀ m, ((u.clearBooth l).ltk.get m).front = (u.ltk.get m).front ∧
        ((u.clearBooth l).ltk.get m).oven = (u.ltk.get m).oven ∧
        ((u.clearBooth l).ltk.get m).reentry = (u.ltk.get m).reentry) ∧
      (∀ m, ((u.clearBooth l).bch.get m).served =
        if m = l ∧ (u.bch.get l).state ≠ .idle then none else (u.bch.get m).served) := by
    intro u
    unfold State.clearBooth
    simp only
    split
    · rename_i e
      refine ⟨rfl, rfl, rfl, fun _ => ⟨rfl, rfl, rfl⟩, fun m => ?_⟩
      have e' : (u.bch.get l).state = .idle := e
      simp [e', State.modPgn]
    · rename_i e
      have e' : (u.bch.get l).state ≠ .idle := e
      refine ⟨rfl, rfl, rfl, fun m => ?_, fun m => ?_⟩
      · simp only [State.channelIdle, State.modLtk, State.modBch, State.modPgn, PerLane.get_set]
        split
        · subst m; exact ⟨rfl, rfl, rfl⟩
        · exact ⟨rfl, rfl, rfl⟩
      · simp only [State.channelIdle, State.modLtk, State.modBch, State.modPgn, PerLane.get_set]
        by_cases hm : m = l <;> simp [hm, e']
  obtain ⟨q1, q2, q3, q4, q5⟩ := q (s.parkQueued l)
  obtain ⟨b1, b2, b3, b4, b5⟩ := b ((s.parkQueued l).clearInspecting l)
  have hbp : (s.parkQueued l).bch = s.bch := p5
  have hprm : (s.cleared l).params = s.params := (b1.trans q1).trans p1
  have hmode : (s.cleared l).mode = s.mode := (b2.trans q2).trans p2
  have hltk : ∀ m, ((s.cleared l).ltk.get m).front = (if m = l then [] else (s.ltk.get m).front) ∧
      ((s.cleared l).ltk.get m).oven = (if m = l then [] else (s.ltk.get m).oven) ∧
      ((s.cleared l).ltk.get m).reentry = (s.ltk.get m).reentry := by
    intro m
    have h1 : ((s.cleared l).ltk.get m).front =
        ((((s.parkQueued l).clearInspecting l).clearBooth l).ltk.get m).front ∧
        ((s.cleared l).ltk.get m).oven = ((((s.parkQueued l).clearInspecting l).clearBooth l).ltk.get m).oven ∧
        ((s.cleared l).ltk.get m).reentry = ((((s.parkQueued l).clearInspecting l).clearBooth l).ltk.get m).reentry := by
      unfold State.cleared
      simp only [State.modLtk, PerLane.get_set]
      split
      · subst m; exact ⟨rfl, rfl, rfl⟩
      · exact ⟨rfl, rfl, rfl⟩
    have h2 : (s.parkQueued l).ltk.get m =
        if m = l then { s.ltk.get m with front := [], oven := [] } else s.ltk.get m := by
      unfold State.parkQueued
      simp only [State.modLtk, PerLane.get_set]
      have p3' : ((s.ltk.get l).queued.foldl (fun s h => s.modPanel h parked) s).ltk = s.ltk := p3
      rw [p3']
      split
      · subst m; rfl
      · rfl
    rw [h1.1, h1.2.1, h1.2.2, (b4 m).1, (b4 m).2.1, (b4 m).2.2, q3, h2]
    split <;> exact ⟨rfl, rfl, rfl⟩
  have hmvf : ∀ m, ((s.cleared l).mvf.get m).inspecting = if m = l then [] else (s.mvf.get m).inspecting := by
    intro m
    have h1 : (s.cleared l).mvf = (s.parkQueued l).mvf.set l { (s.parkQueued l).mvf.get l with inspecting := [] } :=
      b3.trans q5
    have h2 : (s.parkQueued l).mvf = s.mvf := p4
    rw [h1, h2, PerLane.get_set]
    split <;> rfl
  have hbch : ∀ m, ((s.cleared l).bch.get m).served = if m = l then none else (s.bch.get m).served := by
    intro m
    have h1 : ((s.cleared l).bch.get m).served =
        ((((s.parkQueued l).clearInspecting l).clearBooth l).bch.get m).served := rfl
    rw [h1, b5, q4, hbp]
    by_cases hm : m = l
    · subst m
      by_cases e : (s.bch.get l).state = .idle
      · have hn : (s.bch.get l).served = none := by
          have := (hb l).1
          simp only [e, ne_eq, not_true_eq_false, iff_false] at this
          simpa using this
        simp [e, hn]
      · simp [e]
    · simp [hm]
  -- which records are parked
  have hst : ∀ h p, s.panel h = some p → h ∈ (s.ltk.get l).queued → p.lane = l ∧ p.stage ≠ .reentering := by
    intro h p hp hm
    rcases (hqm h).1 hm with hm | hm
    · obtain ⟨q, x, y⟩ := ((hs.front l).2 h).1 hm
      obtain rfl : p = q := Option.some.inj (hp.symm.trans x)
      obtain ⟨pl, hpl, hsec⟩ := Option.map_eq_some_iff.1 y.2
      have := ((hs.placed h p hp).2.1 pl hpl).2.1 hsec
      exact ⟨y.1, fun e => by simp [e, Stage.onFront] at this⟩
    · obtain ⟨q, x, y⟩ := ((hs.oven l).2 h).1 hm
      obtain rfl : p = q := Option.some.inj (hp.symm.trans x)
      obtain ⟨pl, hpl, hsec⟩ := Option.map_eq_some_iff.1 y.2
      have := ((hs.placed h p hp).2.1 pl hpl).2.2 hsec
      exact ⟨y.1, fun e => by simp [e, Stage.onOven] at this⟩
  have hins : ∀ h p, s.panel h = some p → (h ∈ (s.mvf.get l).inspecting.map Window.handle ↔
      p.lane = l ∧ p.stage = .inspecting) := by
    intro h p hp
    refine ((hs.inspecting l).2 h).trans ⟨?_, fun e => ⟨p, hp, e⟩⟩
    rintro ⟨q, x, y⟩
    obtain rfl : p = q := Option.some.inj (hp.symm.trans x)
    exact y
  have hinq : ∀ h p, s.panel h = some p → p.lane = l → p.stage = .inspecting → h ∈ (s.ltk.get l).queued := by
    intro h p hp h1 h2
    obtain ⟨a, b', -⟩ := hs.placed h p hp
    cases hpl : p.place with
    | none => have := a hpl; simp [h2, Stage.offLane] at this
    | some pl =>
      have hsec : pl.sect = .front := by
        obtain ⟨-, -, y⟩ := b' pl hpl
        cases e : pl.sect with
        | front => rfl
        | oven => have := y e; simp [h2, Stage.onOven] at this
      exact (hqm h).2 (.inl (((hs.front l).2 h).2 ⟨p, hp, h1, by rw [hpl]; simp [hsec]⟩))
  have hback : ∀ h r, (s.cleared l).panel h = some r → ∃ p, s.panel h = some p ∧
      ((h ∉ (s.ltk.get l).queued ∧ r = p) ∨ (h ∈ (s.ltk.get l).queued ∧ p.lane = l ∧ r.lane = l ∧ r.stage = .parked ∧
        r.place = none ∧ r.inspectTag = none ∧ r.flashEnd = none)) := by
    intro h r e
    rw [hpan] at e
    simp only at e
    cases hp : s.panel h with
    | none => simp [hp] at e
    | some p =>
      refine ⟨p, rfl, ?_⟩
      by_cases hq : h ∈ (s.ltk.get l).queued
      · right
        obtain ⟨h1, h2⟩ := hst h p hp hq
        simp only [hp, hq, if_true, Option.map_some] at e
        by_cases hi : h ∈ (s.mvf.get l).inspecting.map Window.handle
        · simp only [hi, if_true, Option.some.injEq] at e
          subst r
          exact ⟨hq, h1, h1, rfl, rfl, rfl, rfl⟩
        · simp only [hi, if_false, Option.some.injEq] at e
          subst r
          have hn : p.inspectTag = none := by
            have h3 : ¬p.inspectTag.isSome = true := fun e =>
              hi ((hins h p hp).2 ⟨h1, (hs.placed h p hp).2.2.1.1 e⟩)
            simpa using h3
          exact ⟨hq, h1, h1, rfl, rfl, hn, rfl⟩
      · left
        have hi : h ∉ (s.mvf.get l).inspecting.map Window.handle := fun hi =>
          hq (hinq h p hp ((hins h p hp).1 hi).1 ((hins h p hp).1 hi).2)
        simp only [hp, hq, if_false, hi, Option.some.injEq] at e
        exact ⟨hq, e.symm⟩
  have hforth : ∀ h p, s.panel h = some p → h ∉ (s.ltk.get l).queued → (s.cleared l).panel h = some p := by
    intro h p hp hq
    rw [hpan]
    have hi : h ∉ (s.mvf.get l).inspecting.map Window.handle := fun hi =>
      hq (hinq h p hp ((hins h p hp).1 hi).1 ((hins h p hp).1 hi).2)
    simp [hp, hq, hi]
  have hlive : ∀ h p, s.panel h = some p → ∃ r, (s.cleared l).panel h = some r := by
    intro h p hp
    rw [hpan, hp]
    simp only
    split <;> split <;> exact ⟨_, rfl⟩
  have hlists : ∀ {f g : LaneNo → List Nat} {kind : LaneNo → Panel → Prop}, s.lists f kind →
      (∀ m, g m = f m ∨ (m = l ∧ g m = [])) →
      (∀ m h p, s.panel h = some p → kind m p → h ∈ (s.ltk.get l).queued → m = l ∧ g m = []) →
      (∀ m h p, s.panel h = some p → kind m p → m = l → g m = [] → h ∈ (s.ltk.get l).queued) →
      (∀ m r, r.stage = .parked → r.place = none → ¬kind m r) → (s.cleared l).lists g kind := by
    intro f g kind hf hg hk1 hk2 hk3 m
    refine ⟨?_, fun h => ?_⟩
    · rcases hg m with e | ⟨-, e⟩ <;> rw [e]
      · exact (hf m).1
      · exact List.nodup_nil
    · constructor
      · intro hm
        rcases hg m with e | ⟨-, e⟩
        · obtain ⟨p, hp, hkp⟩ := ((hf m).2 h).1 (e ▸ hm)
          by_cases hq : h ∈ (s.ltk.get l).queued
          · obtain ⟨-, e'⟩ := hk1 m h p hp hkp hq
            rw [e'] at hm; simp at hm
          · exact ⟨p, hforth h p hp hq, hkp⟩
        · rw [e] at hm; simp at hm
      · rintro ⟨r, hr, hkr⟩
        obtain ⟨p, hp, hc⟩ := hback h r hr
        rcases hc with ⟨hq, rfl⟩ | ⟨-, -, -, h1, h2, -⟩
        · rcases hg m with e | ⟨e1, e2⟩
          · rw [e]; exact ((hf m).2 h).2 ⟨_, hp, hkr⟩
          · exact absurd (hk2 m h _ hp hkr e1 e2) hq
        · exact absurd hkr (hk3 m r h1 h2)
  have hqf : ∀ m h p, s.panel h = some p → p.lane = m → h ∈ (s.ltk.get l).queued → m = l := fun m h p hp hl hq =>
    hl.symm.trans (hst h p hp hq).1
  refine ⟨?_, ?_, ?_, ?_, ?_, ?_, ?_, ?_, ?_⟩
  · intro h r hr
    obtain ⟨p, hp, hc⟩ := hback h r hr
    rcases hc with ⟨-, rfl⟩ | ⟨-, -, -, h1, h2, h3, h4⟩
    · exact hs.placed h _ hp
    · exact ⟨fun _ => by rw [h1]; rfl, fun pl e => by simp [h2] at e, by simp [h3, h1], by simp [h4, h1]⟩
  · refine hlists hs.front (fun m => ?_) (fun m h p hp hk hq => ?_) (fun m h p hp hk e _ => ?_)
      (fun m r _ h2 hk => by simp [standsOn, h2] at hk)
    · rw [(hltk m).1]; split
      · exact .inr ⟨by assumption, rfl⟩
      · exact .inl rfl
    · have := hqf m h p hp hk.1 hq
      exact ⟨this, by rw [(hltk m).1, if_pos this]⟩
    · subst m
      exact (hqm h).2 (.inl (((hs.front l).2 h).2 ⟨p, hp, hk⟩))
  · refine hlists hs.oven (fun m => ?_) (fun m h p hp hk hq => ?_) (fun m h p hp hk e _ => ?_)
      (fun m r _ h2 hk => by simp [standsOn, h2] at hk)
    · rw [(hltk m).2.1]; split
      · exact .inr ⟨by assumption, rfl⟩
      · exact .inl rfl
    · have := hqf m h p hp hk.1 hq
      exact ⟨this, by rw [(hltk m).2.1, if_pos this]⟩
    · subst m
      exact (hqm h).2 (.inr (((hs.oven l).2 h).2 ⟨p, hp, hk⟩))
  · simp only [(hltk _).2.2]
    intro m
    refine ⟨(hs.reentry m).1, fun h => ((hs.reentry m).2 h).trans ⟨?_, ?_⟩⟩
    · rintro ⟨p, hp, hk⟩
      exact ⟨p, hforth h p hp fun hq => (hst h p hp hq).2 hk.2, hk⟩
    · rintro ⟨r, hr, hk⟩
      obtain ⟨p, hp, hc⟩ := hback h r hr
      rcases hc with ⟨-, rfl⟩ | ⟨-, -, -, h1, -⟩
      · exact ⟨_, hp, hk⟩
      · simp [staged, h1] at hk
  · refine hlists hs.inspecting (fun m => ?_) (fun m h p hp hk hq => ?_) (fun m h p hp hk e _ => ?_)
      (fun m r h1 _ hk => by simp [staged, h1] at hk)
    · rw [hmvf m]; split
      · exact .inr ⟨by assumption, rfl⟩
      · exact .inl rfl
    · have := hqf m h p hp hk.1 hq
      exact ⟨this, by rw [hmvf m, if_pos this]; rfl⟩
    · subst m
      exact hinq h p hp hk.1 hk.2
  · intro a c p r ha hc h1 h2 h3 h4
    obtain ⟨p', hp', ep⟩ := hback a p ha
    obtain ⟨r', hr', er⟩ := hback c r hc
    rcases ep with ⟨-, rfl⟩ | ⟨-, -, -, e, -⟩
    · rcases er with ⟨-, rfl⟩ | ⟨-, -, -, e, -⟩
      · exact hs.tags a c _ _ hp' hr' h1 h2 h3 h4
      · simp [e] at h2
    · simp [e] at h1
  · intro m k e
    rw [hbch] at e
    split at e
    · simp at e
    · rename_i hm
      obtain ⟨p, pl, g1, g2, g3, g4, g5, g6⟩ := hs.served m k e
      refine ⟨p, pl, hforth k p g1 fun hq => hm (g2.symm.trans (hst k p g1 hq).1), g2, g3, g4, by rw [hprm]; exact g5, g6⟩
  · intro h r pl hr h1 h2
    rw [hprm]
    obtain ⟨p, hp, hc⟩ := hback h r hr
    rcases hc with ⟨-, rfl⟩ | ⟨-, -, -, e, -⟩
    · exact hs.before h _ pl hp h1 h2
    · simp [e] at h1
  · intro hr
    rw [hprm]
    exact hs.stations (hmode ▸ hr)

/-! ### START_LINE, STOP_LINE and the parameters -/

/-- In CONFIG no record is served and none is INSPECTING (R47, R84, R116). -/
theorem LineEx.config {s : State} {ex : Nat → Prop} (hs : LineEx s ex) (hb : s.boothOk) (hm : s.modeOk)
    (hc : s.mode = .config) : (∀ l, (s.bch.get l).served = none) ∧
      ∀ h p, s.panel h = some p → p.stage ≠ .inspecting := by
  refine ⟨fun l => ?_, fun h p hp e => ?_⟩
  · have h1 := (hb l).1
    have h2 := (hm.1 hc l).2.2.2.2.2
    simp only [h2, ne_eq, not_true_eq_false, iff_false] at h1
    simpa using h1
  · obtain ⟨a, b, -⟩ := hs.placed h p hp
    cases hpl : p.place with
    | none => have := a hpl; simp [e, Stage.offLane] at this
    | some pl =>
      have hsec : pl.sect = .front := by
        obtain ⟨-, -, y⟩ := b pl hpl
        cases e' : pl.sect with
        | front => rfl
        | oven => have := y e'; simp [e, Stage.onOven] at this
      have : h ∈ (s.ltk.get p.lane).front := ((hs.front p.lane).2 h).2 ⟨p, hp, rfl, by rw [hpl]; simp [hsec]⟩
      rw [(hm.1 hc p.lane).2.1] at this
      simp at this

/-- Any stations and any mode, with no record served and none INSPECTING. -/
theorem LineEx.restation {s t : State} {ex : Nat → Prop} (hs : LineEx s ex)
    (hn : (∀ l, (s.bch.get l).served = none) ∧ ∀ h p, s.panel h = some p → p.stage ≠ .inspecting)
    (ht : t.slots = s.slots ∧ t.mvf = s.mvf ∧ t.bch = s.bch)
    (hltk : ∀ m, (t.ltk.get m).front = (s.ltk.get m).front ∧ (t.ltk.get m).oven = (s.ltk.get m).oven ∧
      (t.ltk.get m).reentry = (s.ltk.get m).reentry) (hst : t.stationsInOrder) : LineEx t ex := by
  obtain ⟨h1, h2, h3⟩ := ht
  have hp : ∀ k, t.panel k = s.panel k := fun k => by unfold State.panel; rw [h1]
  have hl : ∀ {f : LaneNo → List Nat} {kind : LaneNo → Panel → Prop}, s.lists f kind → t.lists f kind := by
    intro f kind hf l
    refine ⟨(hf l).1, fun h => ((hf l).2 h).trans ?_⟩
    rw [hp]
  refine ⟨fun h p e => hs.placed h p (hp h ▸ e), ?_, ?_, ?_, ?_, ?_, ?_, ?_, hst⟩
  · simp only [(hltk _).1]; exact hl hs.front
  · simp only [(hltk _).2.1]; exact hl hs.oven
  · simp only [(hltk _).2.2]; exact hl hs.reentry
  · rw [h2]; exact hl hs.inspecting
  · intro a b p q ha hb
    exact hs.tags a b p q (hp a ▸ ha) (hp b ▸ hb)
  · intro l k e
    rw [h3, hn.1 l] at e
    simp at e
  · intro h p pl e e1 _
    exact absurd e1 (hn.2 h p (hp h ▸ e))

/-- What START_LINE's geometry checks say of the stations (R46). -/
theorem stationsInOrder_of_startFailure {s : State} (h : startFailure s.params = none) : s.stationsInOrder := by
  intro _
  unfold startFailure startChecks at h
  simp only [Option.map_eq_none_iff, List.find?_eq_none] at h
  have g3 := h (decide (s.params.offset .mask < s.params.offset .divertA), 0x03) (by simp)
  have g4 := h (decide (s.params.offset .divertA < s.params.offset .booth), 0x04) (by simp)
  have g5 := h (decide (s.params.offset .booth < s.params.offset .divertB), 0x05) (by simp)
  have g6 := h (decide (s.params.offset .divertB < s.params.offset .flashApproach), 0x06) (by simp)
  have g7 := h (decide (s.params.offset .flashApproach + s.params.eyeTolerance < s.params.offset .transfer), 0x07)
    (by simp)
  simp at g3 g4 g5 g6 g7
  exact ⟨g3, g4, g5, by omega⟩

theorem LineEx.serveStartLine {s : State} {ex : Nat → Prop} (hs : LineEx s ex) (hb : s.boothOk) (hm : s.modeOk) :
    LineEx (serveStartLine s).1 ex := by
  unfold Machine.serveStartLine
  split
  · exact hs
  · rename_i hc
    split
    · exact hs
    · rename_i hf
      refine hs.restation (hs.config hb hm hc) ⟨rfl, rfl, rfl⟩ (fun m => ?_) ?_
      · cases m <;> exact ⟨rfl, rfl, rfl⟩
      · exact fun _ => stationsInOrder_of_startFailure (s := { s with mode := .run }) hf rfl

theorem LineEx.serveStopLine {s : State} {ex : Nat → Prop} (hs : LineEx s ex) : LineEx (serveStopLine s).1 ex := by
  unfold Machine.serveStopLine
  split
  · exact hs
  · split
    · have hv : ∀ m, (((({ s with mode := .config } : State).modLtk .zero LaneTrack.stopped).modLtk .one
          LaneTrack.stopped).ltk.get m).front = (s.ltk.get m).front ∧
          (((({ s with mode := .config } : State).modLtk .zero LaneTrack.stopped).modLtk .one
          LaneTrack.stopped).ltk.get m).oven = (s.ltk.get m).oven ∧
          (((({ s with mode := .config } : State).modLtk .zero LaneTrack.stopped).modLtk .one
          LaneTrack.stopped).ltk.get m).reentry = (s.ltk.get m).reentry := by
        intro m; cases m <;> exact ⟨rfl, rfl, rfl⟩
      simp only [State.answer_fst]
      refine { hs with front := ?_, oven := ?_, reentry := ?_, stations := fun e => ?_ }
      · simp only [(hv _).1]; exact hs.front
      · simp only [(hv _).2.1]; exact hs.oven
      · simp only [(hv _).2.2]; exact hs.reentry
      · exact absurd (show LineMode.config = .run from e) (by simp)
    · exact hs

/-- A parameter that leaves the stations as they are. -/
theorem LineEx.setParam {s : State} {ex : Nat → Prop} (hs : LineEx s ex) (modes : ParamModes) (valid : Bool)
    (write : State → State) (hw : (write s).lineView = s.lineView) : LineEx (s.setParam modes valid write).1 ex := by
  unfold State.setParam
  split
  · exact hs
  · split
    · exact hs.of_view hw
    · exact hs

/-- A parameter of the stations, taken in CONFIG only (R45). -/
theorem LineEx.setStation {s : State} {ex : Nat → Prop} (hs : LineEx s ex) (hb : s.boothOk) (hm : s.modeOk)
    (valid : Bool) (f : Params → Params) : LineEx (s.setParam .configOnly valid (State.writeParams f)).1 ex := by
  unfold State.setParam
  split
  · exact hs
  · rename_i hc
    have hcfg : s.mode = .config := by
      cases e : s.mode with
      | config => rfl
      | run => rw [e] at hc; exact absurd rfl hc
    split
    · refine hs.restation (hs.config hb hm hcfg) ⟨rfl, rfl, rfl⟩ (fun m => ⟨rfl, rfl, rfl⟩) fun e => ?_
      have e' : s.mode = .run := e
      simp [hcfg] at e'
    · exact hs

@[simp] theorem lineView_askAbort (s : State) (l : LaneNo) : (s.askAbort l).lineView = s.lineView := by
  rcases s.askAbort_cases l with e | e <;> rw [e]
  exact lineView_modBch s l _ rfl

@[simp] theorem lineView_modZone (s : State) (z : Nat) (f : Zone → Zone) : (s.modZone z f).lineView = s.lineView := by
  unfold State.modZone; split <;> rfl

@[simp] theorem lineView_alarmIfInvalid (s : State) (b : ZoneState) (z : Nat) :
    (s.alarmIfInvalid b z).lineView = s.lineView := by
  unfold State.alarmIfInvalid
  split
  · rfl
  · split <;> rfl

@[simp] theorem lineView_relimitAt (s : State) (z : Nat) : (s.relimitAt z).lineView = s.lineView := by
  unfold State.relimitAt; split <;> simp

/-! ### The oven's events -/

@[simp] theorem lineView_applyReplyAt (s : State) (r : SensorReply) (z : Nat) :
    (s.applyReplyAt r z).lineView = s.lineView := by
  unfold State.applyReplyAt; split <;> simp

@[simp] theorem lineView_raiseEach (s : State) (h : Nat) (rs : List HoldReason) :
    (s.raiseEach h rs).lineView = s.lineView := by
  unfold State.raiseEach
  induction rs generalizing s with
  | nil => rfl
  | cons r rs ih => rw [List.foldl_cons, ih, lineView_raise]

@[simp] theorem lineView_updateCuring (s : State) (h : Nat) : (s.updateCuring h).lineView = s.lineView := by
  unfold State.updateCuring
  split
  · rfl
  · split
    · rfl
    · rw [lineView_raiseEach]
      exact lineView_modPanel s h _ fun _ _ => rfl

@[simp] theorem lineView_completePoll (s : State) (rs : Vector SensorReply 6) :
    (s.completePoll rs).lineView = s.lineView := by
  unfold State.completePoll
  split
  · unfold State.updateOven State.applyReplies
    simp only
    generalize hu : State.applyReplyAt rs[5] 5 _ = u
    have hv : u.lineView = s.lineView := by
      rw [← hu]; simp only [lineView_applyReplyAt]; rfl
    generalize u.ltk.zero.oven ++ u.ltk.one.oven = q
    clear hu
    induction q generalizing u with
    | nil => exact hv
    | cons h hs ih => rw [List.foldl_cons]; exact ih _ ((lineView_updateCuring u h).trans hv)
  · rfl

@[simp] theorem lineView_readTach (s : State) (z : Nat) (v : Bool) (t : Nat) :
    (s.readTach z v t).lineView = s.lineView := by
  unfold State.readTach
  split
  · rfl
  · split
    · rw [lineView_modZone]; rfl
    · rfl

@[simp] theorem lineView_stallAt (s : State) (z t : Nat) : (s.stallAt z t).lineView = s.lineView := by
  unfold State.stallAt
  split
  · rfl
  · split
    · rw [lineView_raiseFlag, lineView_modZone]
    · rfl

/-! ### Requests that leave the line's view alone -/

theorem lineView_withFreeRecipe (s : State) (r : Nat) (f : Recipe → State × Response)
    (hf : ∀ x, (f x).1.lineView = s.lineView) : (s.withFreeRecipe r f).1.lineView = s.lineView := by
  unfold State.withFreeRecipe
  split
  · rfl
  · split
    · rfl
    · exact hf _

section
variable {s : State} {ex : Nat → Prop}

/-- A change of one recipe keeps the view. -/
theorem LineEx.editRecipe (hs : LineEx s ex) (r : Nat) (f : Recipe → State × Response)
    (hf : ∀ x, (f x).1 = s ∨ ∃ g, (f x).1 = s.modRecipe r g) : LineEx (s.withFreeRecipe r f).1 ex := by
  refine hs.of_view (lineView_withFreeRecipe s r f fun x => ?_)
  rcases hf x with e | ⟨g, e⟩ <;> rw [e]
  exact lineView_modRecipe s r g

/-- A change of what the invariant does not read of a record. -/
theorem LineEx.editPanel (hs : LineEx s ex) (h : Nat) (f : Panel → Panel) (hf : ∀ p, panelKey (f p) = panelKey p) :
    LineEx (s.modPanel h f) ex := hs.of_view (lineView_modPanel s h f fun p _ => hf p)

theorem LineEx.serveClearLane (hs : LineEx s ex) (hb : s.boothOk) (lane : Nat) :
    LineEx (serveClearLane lane s).1 ex := by
  unfold Machine.serveClearLane
  split
  · exact hs
  · split
    · exact hs.cleared hb _
    · exact hs

theorem LineEx.serveResetBooth (hs : LineEx s ex) (lane : Nat) : LineEx (serveResetBooth lane s).1 ex := by
  unfold Machine.serveResetBooth
  split
  · exact hs
  · split
    · exact (hs.channelIdle _).of_view (lineView_modPgn _ _ _)
    · exact hs

theorem LineEx.serveResyncTag (hs : LineEx s ex) (lane : Nat) : LineEx (serveResyncTag lane s).1 ex := by
  unfold Machine.serveResyncTag
  split
  · exact hs
  · split
    · exact hs.of_view (lineView_modMvf s _ _ rfl)
    · exact hs

theorem LineEx.serveWriteSegment (hs : LineEx s ex) (i x0 y0 x1 y1 v o : Nat) :
    LineEx (serveWriteSegment i x0 y0 x1 y1 v o s).1 ex := by
  unfold Machine.serveWriteSegment
  simp only
  split; · exact hs
  split; · exact hs
  split; · exact hs
  split; · exact hs
  split; · exact hs
  exact LineEx.of_view (s := s) rfl hs

theorem LineEx.serveAssignRecipe (hs : LineEx s ex) (h r : Nat) : LineEx (serveAssignRecipe h r s).1 ex := by
  unfold Machine.serveAssignRecipe
  split; · exact hs
  split; · exact hs
  split; · exact hs
  split; · exact hs
  have h1 := hs.editPanel h (withRecipe r) fun p => by unfold withRecipe; split <;> rfl
  simp only [State.answer_fst]
  unfold State.moveRefs
  split
  · exact h1.of_view (lineView_addRef _ _)
  · split
    · exact h1
    · exact h1.of_view ((lineView_dropRef _ _).trans (lineView_addRef _ _))

theorem LineEx.serveBindId (hs : LineEx s ex) (h : Nat) (id : PanelId) : LineEx (serveBindId h id s).1 ex := by
  unfold Machine.serveBindId
  split; · exact hs
  split; · exact hs
  split; · exact hs
  split; · exact hs
  exact LineEx.of_view (s := s.modPanel h fun p => { p with id := some id }) rfl (hs.editPanel h _ fun _ => rfl)

theorem LineEx.serveNextNotice (hs : LineEx s ex) : LineEx (serveNextNotice s).1 ex := by
  unfold Machine.serveNextNotice
  split
  · exact hs
  · split
    · exact hs
    · exact hs.editPanel _ _ fun _ => rfl

theorem LineEx.serveHold (hs : LineEx s ex) (h r : Nat) : LineEx (serveHold h r s).1 ex := by
  unfold Machine.serveHold
  split
  · exact hs
  · split
    · exact hs.of_view (lineView_raise _ _ _)
    · exact hs

theorem LineEx.serveService (hs : LineEx s ex) (h r : Nat) : LineEx (serveService h r s).1 ex := by
  unfold Machine.serveService
  split; · exact hs
  split; · exact hs
  split; · exact hs
  split; · exact hs
  split; · exact hs
  exact hs.editPanel h _ fun _ => rfl

theorem LineEx.serveRelease (hs : LineEx s ex) (h : Nat) : LineEx (serveRelease h s).1 ex := by
  unfold Machine.serveRelease
  split; · exact hs
  split; · exact hs
  split; · exact hs
  split; · exact hs
  exact hs.editPanel h _ fun _ => rfl

theorem LineEx.serveWaiveMask (hs : LineEx s ex) (h : Nat) : LineEx (serveWaiveMask h s).1 ex := by
  unfold Machine.serveWaiveMask
  split; · exact hs
  split; · exact hs
  split
  · exact hs.editPanel h _ fun _ => rfl
  · exact hs

theorem LineEx.serveDefineRecipe (hs : LineEx s ex) (r : Nat) (f : RecipeFields) :
    LineEx (serveDefineRecipe r f s).1 ex := by
  refine hs.editRecipe r _ fun x => ?_
  split
  · exact .inr ⟨_, rfl⟩
  · exact .inl rfl

theorem LineEx.serveSetMaskZone (hs : LineEx s ex) (r z c x0 y0 x1 y1 : Nat) :
    LineEx (serveSetMaskZone r z c x0 y0 x1 y1 s).1 ex := by
  refine hs.editRecipe r _ fun x => ?_
  split
  · exact .inr ⟨_, rfl⟩
  · exact .inl rfl

theorem LineEx.serveClearMaskZone (hs : LineEx s ex) (r z : Nat) : LineEx (serveClearMaskZone r z s).1 ex := by
  refine hs.editRecipe r _ fun x => ?_
  split
  · exact .inl rfl
  · split
    · exact .inr ⟨_, rfl⟩
    · exact .inl rfl

theorem LineEx.serveSetCureProfile (hs : LineEx s ex) (r : Nat) (f : CureFields) :
    LineEx (serveSetCureProfile r f s).1 ex := by
  refine hs.editRecipe r _ fun x => ?_
  split
  · exact .inr ⟨_, rfl⟩
  · exact .inl rfl

/-- The requests that only read answer from the state as it stands. -/
theorem serveFind_fst (id : PanelId) (s : State) : (serveFind id s).1 = s := by
  unfold serveFind
  split
  · split <;> rfl
  · rfl

@[inherit_doc serveFind_fst] theorem serveReadPanel_fst (h part : Nat) (s : State) :
    (serveReadPanel h part s).1 = s := by
  unfold serveReadPanel
  split
  · rfl
  · split <;> rfl

@[inherit_doc serveFind_fst] theorem serveReadRecipe_fst (r part : Nat) (s : State) :
    (serveReadRecipe r part s).1 = s := by
  unfold serveReadRecipe
  split
  · rfl
  · split <;> rfl

@[inherit_doc serveFind_fst] theorem serveReadSegment_fst (i : Nat) (s : State) : (serveReadSegment i s).1 = s := by
  unfold serveReadSegment
  split <;> rfl

/-- Every SET_PARAM (R181). -/
theorem LineEx.serveSetParam (hs : LineEx s ex) (hb : s.boothOk) (hm : s.modeOk) (v : Int) :
    (∀ o, LineEx (serveSetParamStationOffset o v s).1 ex) ∧ LineEx (serveSetParamEyeTolerance v s).1 ex ∧
    (∀ l, LineEx (serveSetParamDefaultRecipe l v s).1 ex) ∧ LineEx (serveSetParamBaudRate v s).1 ex ∧
    LineEx (serveSetParamAbortLevel v s).1 ex ∧ LineEx (serveSetParamStaleLimit v s).1 ex := by
  refine ⟨fun o => hs.setStation hb hm _ _, hs.setStation hb hm _ _, fun l => hs.setParam _ _ _ ?_,
    hs.setParam _ _ _ ?_, hs.setParam _ _ _ ?_, hs.setParam _ _ _ ?_⟩
  · unfold State.writeParams Params.withDefault
    split <;> rfl
  · unfold State.writeBaud
    split <;> rfl
  · simp only [lineView_askAbort]
    rfl
  · unfold State.relimitAll
    simp only [lineView_relimitAt]
    rfl

/-- A request carried out keeps the line's invariant, given booth channels and line mode in order. -/
theorem LineEx.serve (hs : LineEx s ex) (hb : s.boothOk) (hm : s.modeOk) (c : Instr) :
    LineEx (serve c s).1 ex := by
  cases c with
  | lineStatus => exact LineEx.of_view (s := s) rfl hs
  | startLine => exact hs.serveStartLine hb hm
  | stopLine => exact hs.serveStopLine
  | clearLane l => exact hs.serveClearLane hb l
  | resetBooth l => exact hs.serveResetBooth l
  | resyncTag l => exact hs.serveResyncTag l
  | defineRecipe r f => exact hs.serveDefineRecipe r f
  | setMaskZone r z c x0 y0 x1 y1 => exact hs.serveSetMaskZone r z c x0 y0 x1 y1
  | clearMaskZone r z => exact hs.serveClearMaskZone r z
  | setCureProfile r f => exact hs.serveSetCureProfile r f
  | eraseRecipe r => exact hs.editRecipe r _ fun x => .inr ⟨_, rfl⟩
  | readRecipe r p => exact (serveReadRecipe_fst r p s).symm ▸ hs
  | writeSegment i x0 y0 x1 y1 v o => exact hs.serveWriteSegment i x0 y0 x1 y1 v o
  | readSegment i => exact (serveReadSegment_fst i s).symm ▸ hs
  | find id => exact (serveFind_fst id s).symm ▸ hs
  | readPanel h p => exact (serveReadPanel_fst h p s).symm ▸ hs
  | assignRecipe h r => exact hs.serveAssignRecipe h r
  | bindId h id => exact hs.serveBindId h id
  | nextNotice => exact hs.serveNextNotice
  | retire h d => exact hs.serveRetire h d
  | hold h r => exact hs.serveHold h r
  | service h r => exact hs.serveService h r
  | release h => exact hs.serveRelease h
  | waiveMask h => exact hs.serveWaiveMask h
  | reenter h l p => exact hs.serveReenter h l p
  | withdraw h => exact hs.serveWithdraw h
  | setParamStationOffset o v => exact (hs.serveSetParam hb hm v).1 o
  | setParamEyeTolerance v => exact (hs.serveSetParam hb hm v).2.1
  | setParamDefaultRecipe l v => exact (hs.serveSetParam hb hm v).2.2.1 l
  | setParamBaudRate v => exact (hs.serveSetParam hb hm v).2.2.2.1
  | setParamAbortLevel v => exact (hs.serveSetParam hb hm v).2.2.2.2.1
  | setParamStaleLimit v => exact (hs.serveSetParam hb hm v).2.2.2.2.2
  | setParamDivertPulse v => exact hs.setParam _ _ _ rfl
  | setParamMinimumGap v => exact hs.setParam _ _ _ rfl
  | setParamSettleTime v => exact hs.setParam _ _ _ rfl
  | setParamEntryReserve v => exact hs.setParam _ _ _ rfl
  | setParamInspectTimeout v => exact hs.setParam _ _ _ rfl
  | setParamTraverseSpeed v => exact hs.setParam _ _ _ rfl
  | setParamSamplePeriod v => exact hs.setParam _ _ _ rfl
  | setParamAmbient v => exact hs.setParam _ _ _ rfl
  | setParamClassLimits a b c d e => exact hs.setParam _ _ _ rfl
  | setParamGainEntry m a v => exact hs.setParam _ _ _ rfl
  | setParamReasonLevel r v => exact hs.setParam _ _ _ rfl
  | _ => exact hs

end

end Sys2Proof.Machine
end

