-- ==== Sys2Proof/Laws/LinkFrames.lean ====
section
/-! SUPPORT. Frames of the line link (R173): the bits and bytes of a frame, the bits sent, and what the end of a frame
does, by its type byte. -/

namespace Sys2Proof.Machine

/-! ### Bits and bytes -/

theorem length_wholeBytes (bits : List Bool) : (wholeBytes bits).length = bits.length / 8 := by
  induction bits using wholeBytes.induct with
  | case1 b7 b6 b5 b4 b3 b2 b1 b0 rest ih => simp [wholeBytes, ih]; omega
  | case2 bits h =>
    rw [wholeBytes.eq_2 _ h]
    rcases bits with _ | ⟨_, _ | ⟨_, _ | ⟨_, _ | ⟨_, _ | ⟨_, _ | ⟨_, _ | ⟨_, _ | ⟨_, _⟩⟩⟩⟩⟩⟩⟩⟩ <;> simp
    exact (h _ _ _ _ _ _ _ _ _ rfl).elim

/-- Fewer than eight bits are no byte. -/
theorem wholeBytes_of_lt {bits : List Bool} (h : bits.length < 8) : wholeBytes bits = [] :=
  List.eq_nil_of_length_eq_zero (by rw [length_wholeBytes]; omega)

@[simp] theorem length_bitsOf (bytes : List Byte) : (bitsOf bytes).length = 8 * bytes.length := by
  induction bytes with
  | nil => rfl
  | cons b bytes ih => simp only [bitsOf, List.flatMap_cons, List.length_append] at *; simp [ih, byteBits]; omega

/-- A byte's bits spell the byte. -/
theorem ofBoolListBE_byteBits (b : Byte) : BitVec.ofBoolListBE (byteBits b) = b := by
  refine BitVec.eq_of_getElem_eq fun i hi => ?_
  have : i < 8 := by simpa [byteBits] using hi
  interval_cases i <;> simp [byteBits, BitVec.ofBoolListBE, BitVec.getElem_cons] <;> rfl

/-! ### The bits sent -/

/-- With the whole message clocked, 0 bits follow it. -/
theorem sentBits_of_le {msg : List Byte} {n : Nat} (h : 8 * msg.length ≤ n) :
    sentBits msg n = bitsOf msg ++ List.replicate (n - 8 * msg.length) false := by
  simp [sentBits, List.take_append, List.take_of_length_le, h]

/-- A message cut short. -/
theorem sentBits_of_ge {msg : List Byte} {n : Nat} (h : n ≤ 8 * msg.length) : sentBits msg n = (bitsOf msg).take n := by
  rw [sentBits, List.take_append_of_le_length (by simpa using h)]

/-- The IDLE state byte and what follows it are 0 bits. -/
theorem sentBits_zero (n : Nat) : sentBits [0x00] n = List.replicate n false := by
  have h : bitsOf [0x00] = List.replicate 8 false := by decide
  rw [sentBits, h, List.replicate_append_replicate, List.take_replicate, Nat.min_eq_left (by omega)]

/-! ### The end of a frame -/

theorem State.onFrame_of {s : State} {st : LinkState} (hr : s.inReset = false) (hf : s.link.frame = some st)
    (f : LinkState → LineLink → LineLink) : s.onFrame f = { s with link := f st s.link } := by
  simp [State.onFrame, hr, hf]

theorem State.onFrame_of_none {s : State} (hf : s.link.frame = none) (f : LinkState → LineLink → LineLink) :
    s.onFrame f = { s with link := { s.link with csn := true } } := by
  unfold State.onFrame
  rw [hf]
  cases s.inReset <;> rfl

theorem State.ignoreFrame_of {s : State} {st : LinkState} (hr : s.inReset = false) (hf : s.link.frame = some st)
    (n : Nat) :
    s.ignoreFrame n = { s with free := s.free + 1, link := s.link.endFrame (ignoredSent s.free st n) } := by
  simp [State.ignoreFrame, State.onFrame_of hr hf, hr, hf, LineLink.ignore]

/-- All that the end of a frame can do, by its type byte. -/
theorem State.clockedFrame_cases (s : State) (bits : List Bool) :
    (frameType bits = some 0x51 ∧ s.clockedFrame bits = s.onFrame (LineLink.takeRequest bits)) ∨
    (frameType bits = some 0x52 ∧ s.clockedFrame bits = s.onFrame (LineLink.fetch bits.length)) ∨
    (frameType bits ≠ some 0x51 ∧ frameType bits ≠ some 0x52 ∧
      s.clockedFrame bits = s.ignoreFrame bits.length) := by
  unfold State.clockedFrame
  rcases h : frameType bits with _ | ty
  · simp
  · by_cases h1 : ty = 0x51
    · exact .inl ⟨by rw [h1], if_pos h1⟩
    · by_cases h2 : ty = 0x52
      · exact .inr (.inl ⟨by rw [h2], (if_neg h1).trans (if_pos h2)⟩)
      · exact .inr (.inr ⟨by simpa using h1, by simpa using h2, (if_neg h1).trans (if_neg h2)⟩)

end Sys2Proof.Machine
end

