-- ==== Sys2Proof/Laws/PerInstr.lean ====
section
/-! SUPPORT. The per-instruction family EncodedLength: the buffer that carries a well-formed request has a length that
fits its command (R190). A row that is no request has no such buffer. -/

namespace Sys2Proof.Laws.EncodedLength

open Sys2Proof.Machine

/-- The buffer that carries a well-formed request passes the length check (R190). -/
def Statement (i : Instr) : Prop :=
  ∀ b : RequestBuffer, i.wellFormed = true → encodeRequest i = some b → lengthFits b = true

end Sys2Proof.Laws.EncodedLength

namespace Sys2Proof.Laws

open Sys2Proof.Machine

/-- A row without a request buffer meets the statement. -/
theorem encodedLength_of_none {i : Instr} (h : encodeRequest i = none) : EncodedLength.Statement i := by
  intro b _ e; simp [h] at e

/-- A request whose buffer fits meets the statement. -/
theorem encodedLength_of_some {i : Instr} {r : RequestBuffer} (h : encodeRequest i = some r)
    (hr : lengthFits r = true) : EncodedLength.Statement i := by
  intro b _ e; simp only [h, Option.some.injEq] at e; exact e ▸ hr

end Sys2Proof.Laws

namespace Sys2Proof.Laws.EncodedLength

open Sys2Proof.Machine

theorem requestFrame (bits : List Bool) : Statement (.requestFrame bits) := encodedLength_of_none rfl
theorem fetchFrame (bits : List Bool) : Statement (.fetchFrame bits) := encodedLength_of_none rfl
theorem ignoredFrame (bits : List Bool) : Statement (.ignoredFrame bits) := encodedLength_of_none rfl
theorem processingComplete : Statement .processingComplete := encodedLength_of_none rfl
theorem lineStatus : Statement .lineStatus := encodedLength_of_some rfl rfl
theorem startLine : Statement .startLine := encodedLength_of_some rfl rfl
theorem stopLine : Statement .stopLine := encodedLength_of_some rfl rfl
theorem clearLane (lane : Nat) : Statement (.clearLane lane) := encodedLength_of_some rfl rfl
theorem resetBooth (lane : Nat) : Statement (.resetBooth lane) := encodedLength_of_some rfl rfl
theorem resyncTag (lane : Nat) : Statement (.resyncTag lane) := encodedLength_of_some rfl rfl
theorem readZones : Statement .readZones := encodedLength_of_some rfl rfl
theorem defineRecipe (recipe : Nat) (fields : RecipeFields) :
    Statement (.defineRecipe recipe fields) := encodedLength_of_some rfl rfl
theorem setMaskZone (recipe zone criticality x0 y0 x1 y1 : Nat) :
    Statement (.setMaskZone recipe zone criticality x0 y0 x1 y1) := encodedLength_of_some rfl rfl
theorem clearMaskZone (recipe zone : Nat) : Statement (.clearMaskZone recipe zone) := encodedLength_of_some rfl rfl
theorem setCureProfile (recipe : Nat) (fields : CureFields) :
    Statement (.setCureProfile recipe fields) := encodedLength_of_some rfl rfl
theorem eraseRecipe (recipe : Nat) : Statement (.eraseRecipe recipe) := encodedLength_of_some rfl rfl
theorem readRecipe (recipe part : Nat) : Statement (.readRecipe recipe part) := encodedLength_of_some rfl rfl
theorem writeSegment (index x0 y0 x1 y1 speed valve : Nat) :
    Statement (.writeSegment index x0 y0 x1 y1 speed valve) := encodedLength_of_some rfl rfl
theorem readSegment (index : Nat) : Statement (.readSegment index) := encodedLength_of_some rfl rfl
theorem find (id : PanelId) : Statement (.find id) := by
  intro b hw e
  simp only [encodeRequest, Option.some.injEq] at e
  subst e
  simp only [Instr.wellFormed, decide_eq_true_eq] at hw
  simp [lengthFits, u8At, byteAt, be8]
  omega
theorem readPanel (handle part : Nat) : Statement (.readPanel handle part) := encodedLength_of_some rfl rfl
theorem assignRecipe (handle recipe : Nat) :
    Statement (.assignRecipe handle recipe) := encodedLength_of_some rfl rfl
theorem bindId (handle : Nat) (id : PanelId) : Statement (.bindId handle id) := by
  intro b hw e
  simp only [encodeRequest, Option.some.injEq] at e
  subst e
  simp only [Instr.wellFormed, Bool.and_eq_true, decide_eq_true_eq] at hw
  simp [lengthFits, u8At, byteAt, be8]
  omega
theorem nextNotice : Statement .nextNotice := encodedLength_of_some rfl rfl
theorem retire (handle disposition : Nat) : Statement (.retire handle disposition) := encodedLength_of_some rfl rfl
theorem hold (handle reason : Nat) : Statement (.hold handle reason) := encodedLength_of_some rfl rfl
theorem service (handle reason : Nat) : Statement (.service handle reason) := encodedLength_of_some rfl rfl
theorem release (handle : Nat) : Statement (.release handle) := encodedLength_of_some rfl rfl
theorem waiveMask (handle : Nat) : Statement (.waiveMask handle) := encodedLength_of_some rfl rfl
theorem reenter (handle lane point : Nat) : Statement (.reenter handle lane point) := encodedLength_of_some rfl rfl
theorem withdraw (handle : Nat) : Statement (.withdraw handle) := encodedLength_of_some rfl rfl
theorem setParamStationOffset (offset : StationOffset) (value : Int) :
    Statement (.setParamStationOffset offset value) := encodedLength_of_some rfl rfl
theorem setParamEyeTolerance (value : Int) :
    Statement (.setParamEyeTolerance value) := encodedLength_of_some rfl rfl
theorem setParamDivertPulse (value : Int) : Statement (.setParamDivertPulse value) := encodedLength_of_some rfl rfl
theorem setParamMinimumGap (value : Int) : Statement (.setParamMinimumGap value) := encodedLength_of_some rfl rfl
theorem setParamSettleTime (value : Int) : Statement (.setParamSettleTime value) := encodedLength_of_some rfl rfl
theorem setParamEntryReserve (value : Int) :
    Statement (.setParamEntryReserve value) := encodedLength_of_some rfl rfl
theorem setParamDefaultRecipe (lane : Nat) (value : Int) :
    Statement (.setParamDefaultRecipe lane value) := encodedLength_of_some rfl rfl
theorem setParamBaudRate (value : Int) : Statement (.setParamBaudRate value) := encodedLength_of_some rfl rfl
theorem setParamInspectTimeout (value : Int) :
    Statement (.setParamInspectTimeout value) := encodedLength_of_some rfl rfl
theorem setParamTraverseSpeed (value : Int) :
    Statement (.setParamTraverseSpeed value) := encodedLength_of_some rfl rfl
theorem setParamAbortLevel (value : Int) : Statement (.setParamAbortLevel value) := encodedLength_of_some rfl rfl
theorem setParamSamplePeriod (value : Int) :
    Statement (.setParamSamplePeriod value) := encodedLength_of_some rfl rfl
theorem setParamStaleLimit (value : Int) : Statement (.setParamStaleLimit value) := encodedLength_of_some rfl rfl
theorem setParamAmbient (value : Int) : Statement (.setParamAmbient value) := encodedLength_of_some rfl rfl
theorem setParamClassLimits (class5 class4 class3 class2 class1 : Int) :
    Statement (.setParamClassLimits class5 class4 class3 class2 class1) := encodedLength_of_some rfl rfl
theorem setParamGainEntry (mass airflow : Nat) (value : Int) :
    Statement (.setParamGainEntry mass airflow value) := encodedLength_of_some rfl rfl
theorem setParamReasonLevel (reason : Nat) (value : Int) :
    Statement (.setParamReasonLevel reason value) := encodedLength_of_some rfl rfl
theorem encoderCount (lane : LaneNo) (sect : LineSection) (level : Bool) :
    Statement (.encoderCount lane sect level) := encodedLength_of_none rfl
theorem eyeEntry (lane : LaneNo) (level : Bool) : Statement (.eyeEntry lane level) := encodedLength_of_none rfl
theorem eyeOven (lane : LaneNo) (level : Bool) : Statement (.eyeOven lane level) := encodedLength_of_none rfl
theorem eyeUnload (lane : LaneNo) (level : Bool) : Statement (.eyeUnload lane level) := encodedLength_of_none rfl
theorem settledEvent (lane : LaneNo) : Statement (.settledEvent lane) := encodedLength_of_none rfl
theorem flashClaimExpiry (lane : LaneNo) : Statement (.flashClaimExpiry lane) := encodedLength_of_none rfl
theorem divertPulseEnd (lane : LaneNo) (gate : DivertGate) :
    Statement (.divertPulseEnd lane gate) := encodedLength_of_none rfl
theorem inspectTrigPulseEnd (lane : LaneNo) : Statement (.inspectTrigPulseEnd lane) := encodedLength_of_none rfl
theorem inspectTrigRecoveryEnd (lane : LaneNo) :
    Statement (.inspectTrigRecoveryEnd lane) := encodedLength_of_none rfl
theorem inspectWindowExpiry (handle : Nat) : Statement (.inspectWindowExpiry handle) := encodedLength_of_none rfl
theorem characterReceived (start : Bool) (data : DataSamples) (stop : Bool) :
    Statement (.characterReceived start data stop) := encodedLength_of_none rfl
theorem breakEntry : Statement .breakEntry := encodedLength_of_none rfl
theorem breakEnd : Statement .breakEnd := encodedLength_of_none rfl
theorem lineQuiet : Statement .lineQuiet := encodedLength_of_none rfl
theorem assemblerByteTake : Statement .assemblerByteTake := encodedLength_of_none rfl
theorem idRead : Statement .idRead := encodedLength_of_none rfl
theorem maskReport : Statement .maskReport := encodedLength_of_none rfl
theorem gantryTransferEnd : Statement .gantryTransferEnd := encodedLength_of_none rfl
theorem moveDone (lane : LaneNo) (level : Bool) : Statement (.moveDone lane level) := encodedLength_of_none rfl
theorem durationExpiry (lane : LaneNo) : Statement (.durationExpiry lane) := encodedLength_of_none rfl
theorem moveTimeout (lane : LaneNo) : Statement (.moveTimeout lane) := encodedLength_of_none rfl
theorem gantryErr (lane : LaneNo) (level : Bool) : Statement (.gantryErr lane level) := encodedLength_of_none rfl
theorem flowPulse (lane : LaneNo) (level : Bool) : Statement (.flowPulse lane level) := encodedLength_of_none rfl
theorem recoatExpiry (lane : LaneNo) : Statement (.recoatExpiry lane) := encodedLength_of_none rfl
theorem pollStart : Statement .pollStart := encodedLength_of_none rfl
theorem pollCompletion (replies : Vector SensorReply 6) :
    Statement (.pollCompletion replies) := encodedLength_of_none rfl
theorem tachEdge (zone : Fin 6) (level : Bool) (sample : Nat) :
    Statement (.tachEdge zone level sample) := encodedLength_of_none rfl
theorem stallWatchExpiry (zone : Fin 6) (sample : Nat) :
    Statement (.stallWatchExpiry zone sample) := encodedLength_of_none rfl
theorem deviceReset (cause : ResetCause) : Statement (.deviceReset cause) := encodedLength_of_none rfl
theorem resetEnd : Statement .resetEnd := encodedLength_of_none rfl
theorem tick : Statement .tick := encodedLength_of_none rfl
theorem csnFallingEdge : Statement .csnFallingEdge := encodedLength_of_none rfl
theorem rxdEdge (level : Bool) : Statement (.rxdEdge level) := encodedLength_of_none rfl

end Sys2Proof.Laws.EncodedLength
end

