-- ==== Sys2Proof/Tests/Slice0.lean ====
section
/-! SUPPORT. Tests of the model on fixed values. Expected values come from the manual's worked examples and tables,
named at each test, or from hand calculation with its rules. The theorems named test_witness_… show states and
operands that meet the hypotheses of the statements for the provers. -/

set_option Elab.async false

namespace Sys2Proof.Tests

open Sys2Proof.Machine

/-! ### Helpers -/

/-- The state an outcome reaches. -/
def reached : Result → Option State
  | .next t => some t
  | .fault _ => none
  | .refused _ => none

/-- RUN with both lanes in TRACKING. -/
def running : State :=
  { State.reset with
    mode := .run
    ltk := { zero := { LaneTrack.reset with state := .tracking }, one := { LaneTrack.reset with state := .tracking } } }

/-- A geometry that START_LINE accepts: the tag spacing (1400 − 900) / 150 is 3. -/
def geometry : Params :=
  { Params.reset with
    offsets := #v[200, 900, 1400, 3000, 4000, 5000, 6000, 1500, 3000, 4500, 6000, 7500, 9000, 10000] }

/-- The state with a request in process that has not taken effect. -/
def asked (c : Instr) (s : State) : State :=
  { s with link := { s.link with state := .busy, request := encodeRequest c } }

/-- The state with one live record. -/
def stored (h : Nat) (p : Panel) (s : State) : State :=
  { s.setSlot h (some p) with freeList := (List.range 48).filter (· != h) }

/-- The response a request gets when it takes effect on a state. -/
def answerTo (c : Instr) (s : State) : Option Response :=
  ((reached (exec c (asked c s))).map fun t => t.link.effect).join

/-- A record just placed on lane 0's front section. -/
def fresh : Panel := newPanel .zero

/-- A record standing on lane 0's front section at a position. -/
def at_ (pos : Nat) (p : Panel) : Panel := { p with place := some { sect := .front, pos := pos } }

/-- A PARKED record off-lane. -/
def parkedPanel : Panel := { fresh with stage := .parked, place := none }

/-- Lane 0 with one record on its front queue, all in RUN. -/
def onFront (h : Nat) (p : Panel) (s : State) : State :=
  (stored h p s).modLtk .zero fun t => { t with front := [h] }

/-- The last sample of a lane 0 input found it low. -/
def low (k : LaneInput) (s : State) : State := s.keepLevel .zero k false

/-- Recipe 8 of the manual's section 6.8, with the recoat interval, flash minimum and flow tolerance of 7.8. -/
def body8 : Body :=
  { coats := 2, massClass := 1, recoat := 15, flashMin := 60, flowRate := 240, flowTol := 10, minorTol := 2,
    holdMask := emptyMask, base := 100, segs := 3, rows := 4, dy := 60, serpentine := true, rotation := 1,
    reversal := true }

/-- The cure profile of recipe 3 of section 8.8. -/
def profile3 : CureProfile :=
  { tRef := 1200, doubling := 10, tFloor := 900, target := 1800000, ceiling := 5400000, minPeak := 1100,
    peakLimit := 1500 }

/-- Recipe 8 with its mask map (6.8) and a cure profile. -/
def recipe8 : Recipe :=
  { body := some body8, map := [{ zone := 5, critical := false, x0 := 90, y0 := 170, x1 := 130, y1 := 200 }],
    cure := some profile3, refs := 1 }

/-- Pool entries 100 to 102 of section 6.8. -/
def seg100 : Segment := { x0 := 40, y0 := 50, x1 := 160, y1 := 50, speed := 80, valveOpen := true }
@[inherit_doc seg100] def seg101 : Segment :=
  { x0 := 160, y0 := 50, x1 := 160, y1 := 80, speed := 100, valveOpen := false }
@[inherit_doc seg100] def seg102 : Segment :=
  { x0 := 160, y0 := 80, x1 := 40, y1 := 80, speed := 80, valveOpen := true }

/-- The pool with those three entries DEFINED. -/
def pool8 : Vector (Option Segment) 384 :=
  (((Vector.replicate 384 none).setIfInBounds 100 (some seg100)).setIfInBounds 101 (some seg101)).setIfInBounds 102
    (some seg102)

/-- Record 21 of section 6.8: PASS_GUARDED with guard set 5, on the front section in SPRAYING. -/
def panel21 : Panel :=
  { fresh with recipe := some 8, stage := .spraying, mask := some ⟨.passGuarded, [(5, .displaced)], [5]⟩,
               coats := [newCoat] }

/-- Lane 0's channel COATING record 21, its generator at a coat, row and step and at a position. -/
def coating (coat row step : Nat) (pos : Point) : State :=
  (((({ onFront 21 panel21 running with
        recipes := State.reset.recipes.setIfInBounds 8 recipe8, pool := pool8 } : State).modLtk .zero
      fun t => { t with boothClaim := true }).modBch .zero
    fun c => { c with state := .coating, served := some 21, coat := coat }).modPgn .zero
    fun _ => { state := .generating, record := some 21, coat := coat, row := row, step := step, pos := pos })

/-! ### WellFormed refuses each ill-formed term (R189, R191, R173, R1) -/

theorem test_wellFormed_frames :
    Instr.wellFormed (.ignoredFrame (bitsOf [0x51])) = false ∧
    Instr.wellFormed (.ignoredFrame (bitsOf [0x52, 1])) = false ∧ Instr.wellFormed (.ignoredFrame []) = true ∧
    Instr.wellFormed (.requestFrame (bitsOf [0x52])) = false ∧ Instr.wellFormed (.requestFrame []) = false ∧
    Instr.wellFormed (.fetchFrame (bitsOf [0x51])) = false := by decide +kernel

/-- R173: 0x51 on the line, most significant bit first, in a frame cut three bits into its second byte. -/
theorem test_wholeBytes :
    wholeBytes [false, true, false, true, false, false, false, true, true, true, true] = [0x51] ∧
    bitsOf [0x51] = [false, true, false, true, false, false, false, true] := by decide +kernel

theorem test_wellFormed_one_byte_fields :
    ([.clearLane 256, .resetBooth 256, .resyncTag 256, .clearMaskZone 256 0, .clearMaskZone 0 256, .eraseRecipe 256,
      .readRecipe 256 0, .readRecipe 0 256, .readPanel 256 0, .readPanel 0 256, .assignRecipe 256 0,
      .assignRecipe 0 256, .retire 256 0, .retire 0 256, .hold 256 0, .hold 0 256, .service 256 0, .service 0 256,
      .release 256, .waiveMask 256, .reenter 256 0 0, .reenter 0 256 0, .reenter 0 0 256, .withdraw 256,
      .setParamDefaultRecipe 256 0, .setParamGainEntry 256 0 0, .setParamGainEntry 0 256 0,
      .setParamReasonLevel 256 0, .inspectWindowExpiry 48] : List Instr).all (fun c => !c.wellFormed) = true := by
  decide

theorem test_wellFormed_two_byte_fields :
    ([.setMaskZone 256 0 0 0 0 0 0, .setMaskZone 0 256 0 0 0 0 0, .setMaskZone 0 0 256 0 0 0 0,
      .setMaskZone 0 0 0 65536 0 0 0, .setMaskZone 0 0 0 0 65536 0 0, .setMaskZone 0 0 0 0 0 65536 0,
      .setMaskZone 0 0 0 0 0 0 65536, .writeSegment 65536 0 0 0 0 0 0, .writeSegment 0 65536 0 0 0 0 0,
      .writeSegment 0 0 65536 0 0 0 0, .writeSegment 0 0 0 65536 0 0 0, .writeSegment 0 0 0 0 65536 0 0,
      .writeSegment 0 0 0 0 0 65536 0, .writeSegment 0 0 0 0 0 0 256, .readSegment 65536] : List Instr).all
      (fun c => !c.wellFormed) = true := by
  decide

theorem test_wellFormed_ids :
    Instr.wellFormed (.find (List.replicate 249 0x41)) = false ∧
    Instr.wellFormed (.find (List.replicate 248 0x41)) = true ∧
    Instr.wellFormed (.bindId 0 (List.replicate 248 0x41)) = false ∧
    Instr.wellFormed (.bindId 0 (List.replicate 247 0x41)) = true ∧ Instr.wellFormed (.bindId 256 []) = false := by
  decide +kernel

theorem test_wellFormed_values :
    ([.setParamStationOffset .mask 2147483648, .setParamEyeTolerance (-2147483649), .setParamDivertPulse 2147483648,
      .setParamMinimumGap 2147483648, .setParamSettleTime 2147483648, .setParamEntryReserve 2147483648,
      .setParamDefaultRecipe 0 2147483648, .setParamBaudRate 2147483648, .setParamInspectTimeout 2147483648,
      .setParamTraverseSpeed 2147483648, .setParamAbortLevel 2147483648, .setParamSamplePeriod 2147483648,
      .setParamStaleLimit 2147483648, .setParamAmbient (-2147483649), .setParamClassLimits 2147483648 0 0 0 0,
      .setParamClassLimits 0 2147483648 0 0 0, .setParamClassLimits 0 0 2147483648 0 0,
      .setParamClassLimits 0 0 0 2147483648 0, .setParamClassLimits 0 0 0 0 2147483648,
      .setParamGainEntry 0 0 2147483648, .setParamReasonLevel 0 2147483648] : List Instr).all
      (fun c => !c.wellFormed) = true := by
  decide

/-- Recipe fields that are all 0. -/
def noFields : RecipeFields :=
  { coats := 0, massClass := 0, recoat := 0, flashMin := 0, flowRate := 0, flowTol := 0, minorTol := 0, holdMask := 0,
    base := 0, segs := 0, rows := 0, dy := 0, mode := 0, rotation := 0, reversal := 0 }

/-- Cure fields that are all 0. -/
def noCure : CureFields :=
  { tRef := 0, doubling := 0, tFloor := 0, target := 0, ceiling := 0, minPeak := 0, peakLimit := 0 }

theorem test_wellFormed_recipe_fields :
    ([{ noFields with coats := 256 }, { noFields with massClass := 256 }, { noFields with recoat := 32768 },
      { noFields with flashMin := -32769 }, { noFields with flowRate := 65536 }, { noFields with flowTol := 256 },
      { noFields with minorTol := 256 }, { noFields with holdMask := 256 }, { noFields with base := 65536 },
      { noFields with segs := 256 }, { noFields with rows := 256 }, { noFields with dy := 32768 },
      { noFields with mode := 256 }, { noFields with rotation := 256 }, { noFields with reversal := 256 }] :
      List RecipeFields).all (fun f => !f.fits) = true ∧
    Instr.wellFormed (.defineRecipe 256 noFields) = false ∧ Instr.wellFormed (.defineRecipe 255 noFields) = true := by
  decide

theorem test_wellFormed_cure_fields :
    ([{ noCure with tRef := 32768 }, { noCure with doubling := 256 }, { noCure with tFloor := -32769 },
      { noCure with target := 4294967296 }, { noCure with ceiling := 4294967296 }, { noCure with minPeak := 32768 },
      { noCure with peakLimit := 32768 }] : List CureFields).all (fun f => !f.fits) = true ∧
    Instr.wellFormed (.setCureProfile 256 noCure) = false ∧ Instr.wellFormed (.setCureProfile 255 noCure) = true := by
  decide

/-! ### Request bytes (R175, R190, R191): words written out from the tables -/

/-- RETIRE of handle 5 with SCRAP: command 0x25, handle, disposition. -/
theorem test_decode_retire : decodeRequest ⟨0x25, [0x05, 0x01]⟩ = .request (.retire 5 1) := by decide

/-- SET_PARAM of the ambient to −400: identifier 0x1B, V1 as a signed 32-bit word, most significant byte first. -/
theorem test_decode_setParam :
    decodeRequest ⟨0x02, [0x1B, 0, 0, 0xFF, 0xFF, 0xFE, 0x70, 0, 0, 0, 0, 0, 0, 0, 0, 0, 0, 0, 0, 0, 0, 0, 0]⟩ =
      .request (.setParamAmbient (-400)) := by decide

/-- WRITE_SEGMENT of entry 100 of section 6.8. -/
theorem test_decode_writeSegment :
    decodeRequest ⟨0x16, [0x00, 0x64, 0x00, 0x28, 0x00, 0x32, 0x00, 0xA0, 0x00, 0x32, 0x00, 0x50, 0x01]⟩ =
      .request (.writeSegment 100 40 50 160 50 80 1) := by decide

/-- An unknown code, and a length that does not fit, are BAD_REQUEST (R176, R190); an unknown parameter is RANGE. -/
theorem test_decode_bad :
    decodeRequest ⟨0x40, []⟩ = .badRequest ∧ decodeRequest ⟨0x01, [0]⟩ = .badRequest ∧
    decodeRequest ⟨0x20, [2, 0x41]⟩ = .badRequest ∧
    decodeRequest ⟨0x02, 0x1F :: List.replicate 22 0⟩ = .badParameter := by decide

/-! ### The manual's worked examples -/

/-- Section 6.8: traverse lengths and durations at 300 mm/s, and 7.8's park traverse from (40,110). -/
theorem test_traverse_lengths :
    traverseLength ⟨0, 0⟩ ⟨40, 50⟩ = 65 ∧ nominalDuration 65 300 = 217 ∧
    traverseLength ⟨40, 230⟩ ⟨160, 260⟩ = 124 ∧ nominalDuration 124 300 = 414 ∧
    nominalDuration (traverseLength ⟨40, 110⟩ ⟨0, 0⟩) 300 = 394 ∧ traverseLength ⟨40, 110⟩ ⟨40, 140⟩ = 30 := by
  decide

/-- Section 6.8: segment durations and the 360 expected pulses of a 1500 ms segment at 240 pulses per second. -/
theorem test_segment_numbers :
    nominalDuration 120 80 = 1500 ∧ nominalDuration 30 100 = 300 ∧ expectedPulses 240 1500 = 360 := by decide

/-- Section 6.8, coat 1, order 1: a traverse to the start of row 3's first segment. -/
theorem test_coat1_order1 :
    ((coating 1 0 0 ⟨40, 230⟩).nextOrder .zero).2 =
      some ⟨.traverse, ⟨40, 230⟩, ⟨160, 260⟩, 300, false, false, false, 414, 0⟩ := by decide +kernel

/-- Section 6.8, coat 1, order 3: entry 100 reversed, OPEN. -/
theorem test_coat1_order3 :
    ((coating 1 0 1 ⟨160, 230⟩).nextOrder .zero).2 =
      some ⟨.segment 100 3 1, ⟨160, 230⟩, ⟨40, 230⟩, 80, true, false, false, 1500, 360⟩ := by decide +kernel

/-- Section 6.8, coat 1, order 8: entry 102 in row 2 meets the guard rectangle and is suppressed. -/
theorem test_coat1_order8 :
    ((coating 1 1 1 ⟨160, 200⟩).nextOrder .zero).2 =
      some ⟨.segment 102 2 1, ⟨160, 200⟩, ⟨40, 200⟩, 80, false, true, false, 1500, 0⟩ := by decide +kernel

/-- Section 6.8, coat 1, order 20: the last of the coat, after which the generator is COAT_ENDED at (160,50). -/
theorem test_coat1_order20 :
    ((coating 1 3 2 ⟨40, 50⟩).nextOrder .zero).2 =
      some ⟨.segment 100 0 2, ⟨40, 50⟩, ⟨160, 50⟩, 80, true, false, true, 1500, 360⟩ ∧
    (((coating 1 3 2 ⟨40, 50⟩).nextOrder .zero).1.pgn.zero.state,
      ((coating 1 3 2 ⟨40, 50⟩).nextOrder .zero).1.pgn.zero.pos) = (.coatEnded, ⟨160, 50⟩) := by decide +kernel

/-- The bytes of order 1's frame: start, end, speed 300, valve CLOSED (R194). -/
theorem test_order_frame :
    orderFrame (traverseOrder 300 ⟨40, 230⟩ ⟨160, 260⟩) =
      [0x00, 0x28, 0x00, 0xE6, 0x00, 0xA0, 0x01, 0x04, 0x01, 0x2C, 0x00] := by decide

/-- Section 7.8: the coat check of 2,205 against 2,160 at 10 % passes, and its band is 1,944 to 2,376. -/
theorem test_coat_check :
    coatCheckFails 10 { newCoat with expected := 2160, counted := 2205 } = false ∧
    coatCheckFails 10 { newCoat with expected := 2160, counted := 1944 } = false ∧
    coatCheckFails 10 { newCoat with expected := 2160, counted := 1943 } = true ∧
    coatCheckFails 10 { newCoat with expected := 2160, counted := 2376 } = false ∧
    coatCheckFails 10 { newCoat with expected := 2160, counted := 2377 } = true := by decide

/-- Section 8.8: the three samples of record 30, from 1230 and 1,500,000. -/
theorem test_three_samples :
    let c0 : Cure := { temp := 1230, dose := 1500000, peak := 1230, ovenTime := 212000, last := 200000, verdict := none }
    let c1 := cureUpdate 2949 1300 profile3 200500 c0
    let c2 := cureUpdate 2458 1420 profile3 201000 c1
    let c3 := cureUpdate 2458 1420 profile3 201500 c2
    (c1.temp, c1.dose, c1.peak, c1.ovenTime) = (1232, 1500620, 1232, 212500) ∧
    (c2.temp, c2.dose, c2.ovenTime) = (1236, 1501240, 213000) ∧
    c3 = { temp := 1239, dose := 1501888, peak := 1239, ovenTime := 213500, last := 201500, verdict := none } := by
  decide

/-- Section 4.8: the frame of ID_READ K7-1 on lane 0, CHK 5, taken byte by byte, is offered. -/
theorem test_id_frame :
    ([0xA5, 0x07, 0x10, 0x00, 0x04, 0x4B, 0x37, 0x2D, 0x31, 0x05] : List Byte).foldl
      (fun a b => (takeByte .run ⟨b, false, false, false⟩ a).1) Assembler.reset =
      { Assembler.reset with state := .offering (.idRead .zero [0x4B, 0x37, 0x2D, 0x31]) } := by decide

/-- Section 4.8, step 10: a second start byte taken as LEN abandons the frame and begins another. -/
theorem test_stray_start :
    takeByte .run ⟨0xA5, false, false, false⟩ { Assembler.reset with state := .length } =
      ({ Assembler.reset with state := .length }, true) := by decide

/-- Record 40 of section 9.8 after step 9: masked COAT_VOLUME in service under the default levels. -/
def mask98 : HoldMask := { emptyMask with coatVolume := true, spacing := true }

/-- Section 9.8's list: CURE_UNVERIFIED, UNDERCURE, masked COAT_VOLUME and masked SPACING. -/
def holds98 : List HoldEntry :=
  [⟨.spacing, .pending, 1⟩, ⟨.coatVolume, .pending, 1⟩, ⟨.cureUnverified, .pending, 4⟩, ⟨.undercure, .pending, 1⟩]

/-- Section 9.8: the rank order and the governing hold. -/
theorem test_rank_order :
    (inRankOrder Params.reset mask98 holds98).map HoldEntry.reason =
      [.cureUnverified, .undercure, .coatVolume, .spacing] ∧
    (governingOf Params.reset mask98 holds98).map HoldEntry.reason = some .cureUnverified := by decide

/-- Section 9.8, step 1: HOST_QA evicts SPACING; steps 2 to 4: only CURE_UNVERIFIED may be serviced, and then it is not
outranked by UNDERCURE. -/
theorem test_work_off :
    ({ parkedPanel with holds := holds98 }.raise Params.reset mask98 .hostQa).2 = .evicted .spacing ∧
    serviceable Params.reset mask98 holds98 .undercure = false ∧
    serviceable Params.reset mask98 holds98 .cureUnverified = true ∧
    serviceable Params.reset mask98
      (takeInService (rankOf Params.reset mask98 .cureUnverified) .cureUnverified holds98) .undercure = false := by
  decide

/-- Section 9.8, steps 9 to 13: HOST_QA raised over a serviced masked COAT_VOLUME is serviced on top of it. -/
theorem test_nested_chain :
    let cv := takeInService (rankOf Params.reset mask98 .coatVolume) .coatVolume [⟨.coatVolume, .pending, 1⟩]
    let both := takeInService (rankOf Params.reset mask98 .hostQa) .hostQa (cv ++ [newEntry .hostQa])
    serviceable Params.reset mask98 (cv ++ [newEntry .hostQa]) .hostQa = true ∧
    (serviceChain both).map HoldEntry.reason = [.coatVolume, .hostQa] ∧
    (chainTop both).map HoldEntry.reason = some .hostQa := by decide

/-- R185: an expiry just past the wrap of the counter is not reached before it, and is reached at it. -/
theorem test_tick_wrap :
    due 0xFFFFFFFF 0x00000001 = false ∧ due 0x00000001 0x00000001 = true ∧ due 0x00000002 0xFFFFFFFF = true := by
  decide

/-- Section 10.7: LINE_STATUS returns RUN, lane 0 TRACKING, lane 1 FAULT, both channels IDLE, 48 free and the flags
LINK_ERROR (bit 2) and LANE_FAULT1 (bit 5). -/
theorem test_line_status :
    answerTo .lineStatus
      ({ (running.modLtk .one fun t => { t with state := .fault }) with
          flags := { Flags.reset with linkError := true, laneFault1 := true } }) =
      some ⟨.ok, [0x01, 0x01, 0x02, 0x00, 0x00, 0x30, 0x24]⟩ := by decide

/-! ### Witnesses: the machine and its invariants -/

/-- A PARKED record with an ID, recipe 8, cure fields and a FIXED hold. -/
def soundPanel : Panel :=
  { parkedPanel with
    id := some [0x41], recipe := some 8, holds := [newEntry .overtemp]
    cure := some { temp := 250, dose := 5, peak := 300, ovenTime := 7, last := 0, verdict := none } }

/-- A running part with that record in slot 0, stations in order, recipe 8 and its pool entries, and a TICK waiting. -/
def sound : State :=
  { stored 0 soundPanel running with
    recipes := State.reset.recipes.setIfInBounds 8 recipe8, pool := pool8, idMap := [([0x41], 0)]
    params := geometry
    pending := [.tick] }

theorem sound_panel (h : Nat) (p : Panel) : sound.panel h = some p ↔ h = 0 ∧ p = soundPanel := by
  show (running.setSlot 0 (some soundPanel)).panel h = some p ↔ _
  by_cases e : h = 0
  · subst e
    rw [State.panel_setSlot_self _ (by decide)]
    simp [eq_comm]
  · rw [State.panel_setSlot_ne _ e]
    have : running.panel h = none := by
      by_cases hh : h < 48
      · simp [State.panel, running, State.reset, hh]
      · simp [State.panel, Vector.getElem?_eq_none (Nat.le_of_not_lt hh)]
    simp [this, e]

theorem sound_recipe {r : Nat} {x : Recipe} (h : sound.recipe r = some x) :
    x = Recipe.reset ∨ (r = 8 ∧ x = recipe8) := by
  have hr := State.recipe_lt h
  change (State.reset.putRecipe 8 recipe8).recipe r = some x at h
  rw [State.recipe_putRecipe] at h
  split at h
  · right; simp_all
  · left; simpa [State.recipe, State.reset, hr, eq_comm] using h

theorem test_witness_StoreOrderKept : sound.storeOk ∧ ∃ t, step sound = .next t := by
  refine ⟨⟨by unfold State.freeListOk; decide +kernel, ?_, by decide, ?_⟩, _, rfl⟩
  · have key : ∀ r : Fin 16, (sound.recipes[r]).refs = sound.naming r := by decide +kernel
    intro r x hx
    have hr := State.recipe_lt hx
    have := key ⟨r, hr⟩
    simp only [State.recipe, Vector.getElem?_eq_getElem hr, Option.some.injEq] at hx
    rw [← hx]; exact this
  · intro id h
    constructor
    · intro hm
      have : id = [0x41] ∧ h = 0 := by simpa [sound] using hm
      exact ⟨soundPanel, (sound_panel h _).2 ⟨this.2, rfl⟩, by rw [this.1]; rfl⟩
    · rintro ⟨p, hp, hid⟩
      obtain ⟨rfl, rfl⟩ := (sound_panel h p).1 hp
      have : id = [0x41] := by simpa [soundPanel, eq_comm] using hid
      simp [sound, this]

theorem test_witness_HoldListsKept : sound.holdListsOk ∧ ∃ t, step sound = .next t := by
  refine ⟨fun h p hp => ?_, _, rfl⟩
  obtain ⟨-, rfl⟩ := (sound_panel h p).1 hp
  refine ⟨by decide, by decide, by decide, ?_⟩
  show List.Pairwise servedAbove []
  exact List.Pairwise.nil

theorem test_witness_BoothAndLineModeKept : sound.boothOk ∧ sound.modeOk ∧ ∃ t, step sound = .next t := by
  refine ⟨fun l => ?_, ⟨fun h => ?_, fun _ l => ?_⟩, _, rfl⟩
  · cases l <;> exact ⟨by decide +kernel, by decide +kernel, by decide +kernel, by decide +kernel⟩
  · exact absurd h (by decide +kernel)
  · cases l <;> decide +kernel

/-- A list of no lane holds the one record of that part, which is of no kind that a list is for. -/
theorem sound_lists (f : LaneNo → List Nat) (kind : LaneNo → Panel → Prop) (hf : ∀ l, f l = [])
    (hk : ∀ l, ¬kind l soundPanel) : sound.lists f kind := by
  refine fun l => ⟨by rw [hf l]; exact List.nodup_nil, fun h => ⟨fun hm => ?_, fun ⟨p, hp, hkp⟩ => ?_⟩⟩
  · rw [hf l] at hm; simp at hm
  · exact absurd (((sound_panel h p).1 hp).2 ▸ hkp) (hk l)

theorem test_witness_CapacitiesKept :
    sound.capacityOk ∧ (∃ t, step sound = .next t) ∧ sound.storeOk ∧ sound.boothOk ∧ sound.modeOk ∧ sound.lineOk ∧
    sound.inReset = false := by
  refine ⟨⟨fun l => ?_, by decide +kernel⟩, ⟨_, rfl⟩, test_witness_StoreOrderKept.1,
    test_witness_BoothAndLineModeKept.1, test_witness_BoothAndLineModeKept.2.1, fun _ => ⟨fun h p hp => ?_, ?_, ?_, ?_,
      ?_, ?_, ?_, ?_, fun _ => by decide +kernel⟩, by decide +kernel⟩
  · cases l <;> decide +kernel
  · obtain ⟨-, rfl⟩ := (sound_panel h p).1 hp
    exact ⟨fun _ => rfl, fun pl e => by simp [soundPanel, parkedPanel] at e, by decide, by decide⟩
  · exact sound_lists _ _ (fun l => by cases l <;> rfl) fun l => by simp [standsOn, soundPanel, parkedPanel]
  · exact sound_lists _ _ (fun l => by cases l <;> rfl) fun l => by simp [standsOn, soundPanel, parkedPanel]
  · exact sound_lists _ _ (fun l => by cases l <;> rfl) fun l => by simp [staged, soundPanel, parkedPanel]
  · exact sound_lists _ _ (fun l => by cases l <;> rfl) fun l => by simp [staged, soundPanel, parkedPanel]
  · intro h k p q hp hq _ _ _ _
    exact ((sound_panel h p).1 hp).1.trans ((sound_panel k q).1 hq).1.symm
  · intro l h hs
    have : (sound.bch.get l).served = none := by cases l <;> decide +kernel
    simp [this] at hs
  · intro h p pl hp _ hpl
    obtain ⟨-, rfl⟩ := (sound_panel h p).1 hp
    simp [soundPanel, parkedPanel] at hpl

theorem test_witness_OvenRangesKept : sound.ovenOk ∧ ∃ t, step sound = .next t := by
  refine ⟨⟨by decide +kernel, by decide +kernel, ?_, fun h p c hp hc => ?_⟩, _, rfl⟩
  · have key : ∀ i : Fin 6, zoneOk sound.params.staleLimit sound.zones[i] := by
      intro i
      have : sound.zones[i] = Zone.reset := by
        show (Vector.replicate 6 Zone.reset)[i] = _
        simp
      rw [this]
      refine ⟨by unfold tempOk; decide, by decide, by decide, by decide, by decide, fun d hd => ?_, fun e he => ?_⟩
      · simp [Zone.reset] at hd
      · simp [Zone.reset] at he
    intro i z hz
    by_cases hi : i < 6
    · rw [Vector.getElem?_eq_getElem hi] at hz
      exact Option.some.inj hz ▸ key ⟨i, hi⟩
    · simp [Vector.getElem?_eq_none (Nat.le_of_not_lt hi)] at hz
  · obtain ⟨-, rfl⟩ := (sound_panel h p).1 hp
    have : c = { temp := 250, dose := 5, peak := 300, ovenTime := 7, last := 0, verdict := none } := by
      simpa [soundPanel, eq_comm] using hc
    subst this
    exact ⟨by unfold tempOk; decide, by unfold tempOk; decide, by decide, by decide⟩

theorem test_witness_RecipesKept : sound.recipesOk ∧ ∃ t, step sound = .next t := by
  refine ⟨⟨?_, fun r x hx => ?_⟩, _, rfl⟩
  · have key : ∀ i : Fin 384, ∀ g ∈ pool8[i], segmentOk g := by unfold segmentOk; decide +kernel
    intro i g hg
    by_cases hi : i < 384
    · rw [Vector.getElem?_eq_getElem hi] at hg
      exact key ⟨i, hi⟩ g (Option.some.inj hg)
    · simp [Vector.getElem?_eq_none (Nat.le_of_not_lt hi)] at hg
  · rcases sound_recipe hx with rfl | ⟨rfl, rfl⟩
    · exact ⟨⟨List.Pairwise.nil, by simp [Recipe.reset]⟩, fun b hb => by simp [Recipe.reset] at hb⟩
    · refine ⟨⟨by decide, by decide⟩, fun b hb => ?_⟩
      have : b = body8 := by simpa [recipe8, eq_comm] using hb
      subst this
      refine ⟨by decide, by decide, by decide, by decide, fun k hk => ?_⟩
      have hk : k = 0 ∨ k = 1 ∨ k = 2 := by have : k < 3 := hk; omega
      rcases hk with rfl | rfl | rfl
      · exact ⟨seg100, by decide +kernel, by unfold rowsWithin; decide⟩
      · exact ⟨seg101, by decide +kernel, by unfold rowsWithin; decide⟩
      · exact ⟨seg102, by decide +kernel, by unfold rowsWithin; decide⟩

/-- The FIXED hold, the dose and the recipe that the record of slot 0 names. -/
theorem test_witness_FixedHoldStays_and_DoseNeverFalls :
    sound.storeOk ∧ sound.ovenOk ∧ (∃ t, exec .tick sound = .next t ∧ t.panel 0 = some soundPanel) ∧
    sound.panel 0 = some soundPanel ∧ soundPanel.stage ≠ .done ∧ (∃ e ∈ soundPanel.holds, e.reason.fixed = true) ∧
    soundPanel.cure.isSome = true :=
  ⟨test_witness_StoreOrderKept.1, test_witness_OvenRangesKept.1, ⟨_, rfl, (sound_panel 0 _).2 ⟨rfl, rfl⟩⟩,
    (sound_panel 0 _).2 ⟨rfl, rfl⟩, by decide, ⟨_, List.mem_singleton.2 rfl, rfl⟩, rfl⟩

/-- Clause ends: the first and last pool entry of the range 100..102. -/
theorem test_witness_ReferencedRecipeUnchanged :
    sound.recipe 8 = some recipe8 ∧ 0 < recipe8.refs ∧ recipe8.body = some body8 ∧
    (body8.base ≤ 100 ∧ 100 < body8.base + body8.segs) ∧ (body8.base ≤ 102 ∧ 102 < body8.base + body8.segs) := by
  decide +kernel

theorem test_witness_StepRunsFrontCommand : State.reset.pending = [] := rfl

theorem test_witness_RequestRoundTrip :
    Instr.wellFormed (.find [0x41]) = true ∧ encodeRequest (.find [0x41]) = some ⟨0x20, [1, 0x41]⟩ ∧
    Instr.wellFormed (.setParamAmbient (-1)) = true ∧
    (encodeRequest (.setParamAmbient (-1))).map RequestBuffer.code = some 0x02 := by decide

theorem test_witness_InResetNothingHappens :
    ({ State.reset with inReset := true } : State).inReset = true ∧ Instr.tick ≠ .resetEnd ∧
    ∀ cause, Instr.tick ≠ .deviceReset cause :=
  ⟨rfl, by decide, fun _ => by simp⟩

/-! ### Witnesses: frames of the line link -/

/-- A frame in progress that began in a link state. -/
def framed (st : LinkState) (s : State) : State := { s with link := { s.link with frame := some st, csn := false } }

theorem test_witness_RequestFrameTaken :
    (framed .idle running).inReset = false ∧ (framed .idle running).link.frame = some .idle ∧
    (wholeBytes (bitsOf [0x51, 1, 0x01] ++ [true]) = 0x51 :: [1, 0x01] ∧ wholeBytes (bitsOf [0x51]) = 0x51 :: []) ∧
    (1 ≤ (1 : Byte).toNat ∧ (1 : Byte).toNat - 1 ≤ ([] : List Byte).length) ∧
    ((250 : Byte).toNat ≤ 250 ∧ (250 : Byte).toNat - 1 ≤ (List.replicate 249 (0 : Byte)).length) ∧
    ((framed .busy running).link.frame = some .busy ∧ LinkState.busy ≠ .idle) ∧
    ((0 : Byte).toNat = 0 ∧ 250 < (251 : Byte).toNat ∧ ([1] : List Byte).length < (2 : Byte).toNat) := by
  decide +kernel

/-- Taken: length 1, LINE_STATUS (section 10.7, step 1). -/
theorem test_request_taken :
    (reached (exec (.requestFrame (bitsOf [0x51, 0x01, 0x01] ++ [true, true])) (framed .idle running))).map
      (fun t => (t.link.state, t.link.request, t.link.miso)) =
        some (.busy, some ⟨0x01, []⟩, List.replicate 26 false) := by
  decide +kernel

/-- Section 10.7, step 2: a REQUEST in BUSY sends 0x01 and is discarded. -/
theorem test_request_discarded :
    (reached (exec (.requestFrame (bitsOf [0x51, 0x03, 0x20, 0x01, 0x51])) (framed .busy (asked .lineStatus running)))).map
      (fun t => (t.link.state, t.link.request, t.link.miso)) =
        some (.busy, some ⟨0x01, []⟩, bitsOf [1, 0, 0, 0, 0]) := by
  decide +kernel

/-- A response waiting to be fetched. -/
def responding (r : Response) : State :=
  framed .response { running with link := { running.link with state := .response, response := some r } }

theorem test_witness_FetchFrameAnswers :
    (responding ⟨.ok, [7]⟩).inReset = false ∧ (responding ⟨.ok, [7]⟩).link.frame = some .response ∧
    (responding ⟨.ok, [7]⟩).link.response = some ⟨.ok, [7]⟩ ∧
    (wholeBytes (bitsOf [0x52, 0, 0, 0]) = 0x52 :: [0, 0, 0] ∧ ([7] : List Byte).length + 2 ≤ ([0, 0, 0] : List Byte).length) ∧
    (wholeBytes (bitsOf [0x52, 0, 0] ++ List.replicate 7 false) = 0x52 :: [0, 0] ∧
      ([0, 0] : List Byte).length < ([7] : List Byte).length + 2) ∧
    ((framed .busy running).link.frame = some .busy ∧ LinkState.busy ≠ .response) := by
  decide +kernel

/-- Section 10.7, step 6: two extra bytes are 0x00 and the response is consumed; step 5: cut short, here by
one bit, it is not. -/
theorem test_fetch :
    (reached (exec (.fetchFrame (bitsOf [0x52, 0, 0, 0, 0, 0])) (responding ⟨.ok, [7]⟩))).map (fun t => (t.link.state, t.link.miso)) =
      some (.idle, bitsOf [0x02, 0x02, 0x00, 0x07, 0x00, 0x00]) ∧
    (reached (exec (.fetchFrame (bitsOf [0x52, 0, 0] ++ List.replicate 7 false)) (responding ⟨.ok, [7]⟩))).map (fun t => (t.link.state, t.link.miso)) =
      some (.response, (bitsOf [0x02, 0x02, 0x00, 0x07]).take 31) := by
  decide +kernel

theorem test_witness_FrameStartsAndIgnored :
    (running.inReset = false ∧ running.link.csn = true) ∧
    ((framed .idle running).link.frame = some .idle ∧ wholeBytes [true, false, true] = [] ∧
      wholeBytes (bitsOf [0x00, 0x51]) = 0x00 :: [0x51]) ∧
    (([true, false, true] : List Bool).length < 8 ∧ running.link.frame = none) := by
  decide +kernel

/-- A frame of unknown type begun in RESPONSE: its first byte is 0x02, every clocked bit is answered, and the response
stays (R173). -/
theorem test_ignored_frame :
    ((reached (exec (.ignoredFrame (bitsOf [0x00, 0x51, 0x52])) (framed .response running))).map fun t =>
      (t.link.miso.take 8, t.link.miso.length, t.link.frame, t.link.csn, t.free)) =
        some (bitsOf [0x02], 24, none, true, running.free + 1) := by
  decide +kernel

/-- BUSY with a request buffer. -/
def busyWith (b : RequestBuffer) : State :=
  { running with link := { running.link with state := .busy, request := some b } }

theorem test_witness_ProcessingCompletes :
    (running.withEffect ⟨.ok, []⟩).link.effect = some ⟨.ok, []⟩ ∧
    ((busyWith ⟨0x40, []⟩).link.state = .busy ∧ (busyWith ⟨0x40, []⟩).inReset = false ∧
      (busyWith ⟨0x40, []⟩).link.effect = none ∧ decodeRequest ⟨0x40, []⟩ = .badRequest) ∧
    decodeRequest ⟨0x02, 0x00 :: List.replicate 22 0⟩ = .badParameter ∧
    ((busyWith ⟨0x01, []⟩).inProcess .lineStatus = true ∧ ∃ u, exec .lineStatus (busyWith ⟨0x01, []⟩) = .next u) :=
  ⟨rfl, by decide +kernel, by decide +kernel, by decide +kernel, _, rfl⟩

/-! ### Witnesses: requests -/

/-- RUN with recipe 8 DEFINED and unused, in the pool of section 6.8, and one live record. -/
def plant (p : Panel) : State :=
  { stored 0 p running with
    recipes := State.reset.recipes.setIfInBounds 8 { recipe8 with refs := 0 }, pool := pool8 }

theorem plant_panel (p q : Panel) (h : Nat) : (plant p).panel h = some q ↔ h = 0 ∧ q = p := by
  show (running.setSlot 0 (some p)).panel h = some q ↔ _
  by_cases e : h = 0
  · subst e
    rw [State.panel_setSlot_self _ (by decide)]
    simp [eq_comm]
  · rw [State.panel_setSlot_ne _ e]
    have : running.panel h = none := by
      by_cases hh : h < 48
      · simp [State.panel, running, State.reset, hh]
      · simp [State.panel, Vector.getElem?_eq_none (Nat.le_of_not_lt hh)]
    simp [this, e]

/-- A request in process leaves the record store as it is. -/
theorem asked_panel (c : Instr) (p q : Panel) (h : Nat) :
    (asked c (plant p)).panel h = some q ↔ h = 0 ∧ q = p := plant_panel p q h

/-- Both ends of the handle range, and each request that carries a recipe at both ends of its range. -/
theorem test_witness_SharedRefusals :
    (asked (.release 47) running).panel 47 = none ∧ (asked (.release 48) running).panel 48 = none ∧
    (asked (.release 48) running).inProcess (.release 48) = true ∧
    (asked (.eraseRecipe 16) running).inProcess (.eraseRecipe 16) = true ∧
    (asked (.eraseRecipe 8) sound).inProcess (.eraseRecipe 8) = true ∧
    ((asked (.eraseRecipe 8) sound).recipe 8 = some recipe8 ∧ 0 < recipe8.refs) := by
  decide +kernel

/-- FIND of a mapped ID, of an unmapped one and of an ill-formed one (R16), on the sound state. -/
theorem test_witness_ReadRequests_find :
    (asked (.find [0x41]) sound).idMapOk ∧ (asked (.find [0x41]) sound).inProcess (.find [0x41]) = true ∧
    ((asked (.find [0x41]) sound).panel 0 = some soundPanel ∧ soundPanel.id = some [0x41]) ∧
    ((asked (.find [0x7E]) sound).inProcess (.find [0x7E]) = true ∧
      ∀ h p, (asked (.find [0x7E]) sound).panel h = some p → p.id ≠ some [0x7E]) ∧
    ((asked (.find []) sound).inProcess (.find []) = true ∧ ([] : PanelId).length < 1) := by
  refine ⟨test_witness_StoreOrderKept.1.2.2, by decide +kernel, ⟨(sound_panel 0 _).2 ⟨rfl, rfl⟩, rfl⟩,
    ⟨by decide +kernel, fun h p e => ?_⟩, by decide +kernel, by decide⟩
  obtain ⟨-, rfl⟩ := (sound_panel h p).1 e
  decide

/-- The reading requests at the ends of their ranges: pool entries 0, 383 and 384; recipe 15 and 16, parts 0 to 2;
record parts 0, 4 and 5. -/
theorem test_witness_ReadRequests_reads :
    ((asked (.readSegment 383) running).inProcess (.readSegment 383) = true ∧
      (asked (.readSegment 383) running).pool[383]? = some none) ∧
    (asked (.readSegment 384) running).inProcess (.readSegment 384) = true ∧
    ((asked (.readRecipe 15 1) running).inProcess (.readRecipe 15 1) = true ∧
      (asked (.readRecipe 15 1) running).recipe 15 = some Recipe.reset) ∧
    (asked (.readRecipe 15 0) running).inProcess (.readRecipe 15 0) = true ∧
    (asked (.readRecipe 15 2) running).inProcess (.readRecipe 15 2) = true ∧
    (asked (.readRecipe 16 0) running).inProcess (.readRecipe 16 0) = true ∧
    ((asked (.readPanel 0 4) (plant fresh)).inProcess (.readPanel 0 4) = true ∧
      (asked (.readPanel 0 4) (plant fresh)).panel 0 = some fresh) ∧
    ((asked (.readPanel 0 5) (plant fresh)).inProcess (.readPanel 0 5) = true ∧
      (asked (.readPanel 0 5) (plant fresh)).panel 0 = some fresh) ∧
    (asked .readZones running).inProcess .readZones = true := by
  decide +kernel

theorem test_witness_StatusAndNotices :
    (asked .lineStatus running).inProcess .lineStatus = true ∧
    (asked .nextNotice running).inProcess .nextNotice = true ∧
    (∀ h p, (asked .nextNotice (plant fresh)).panel h = some p → p.notices.any = false) ∧
    (asked .nextNotice (plant (fresh.notify .cured))).inProcess .nextNotice = true ∧
    (asked .nextNotice (plant (fresh.notify .cured))).panel 0 = some (fresh.notify .cured) ∧
    (fresh.notify .cured).notices.any = true ∧
    (∀ k q, k < 0 → (asked .nextNotice (plant (fresh.notify .cured))).panel k = some q → q.notices.any = false) := by
  refine ⟨by decide +kernel, by decide +kernel, fun h p e => ?_, by decide +kernel, by decide +kernel, by decide,
    fun k q hk => absurd hk (Nat.not_lt_zero k)⟩
  obtain ⟨-, rfl⟩ := (asked_panel _ _ p h).1 e
  decide

/-- CONFIG with that geometry. -/
def configured : State := { State.reset with params := geometry }

theorem test_witness_StartAndStop :
    ((asked .startLine running).inProcess .startLine = true ∧ (asked .startLine running).mode = .run) ∧
    ((asked .startLine configured).inProcess .startLine = true ∧ (asked .startLine configured).mode = .config ∧
      startFailure (asked .startLine configured).params = none) ∧
    ((asked .startLine State.reset).inProcess .startLine = true ∧
      startFailure (asked .startLine State.reset).params = some 0x01) ∧
    ((asked .stopLine State.reset).inProcess .stopLine = true ∧ (asked .stopLine State.reset).mode = .config) ∧
    ((asked .stopLine running).inProcess .stopLine = true ∧ (asked .stopLine running).mode = .run ∧
      ∀ l, ((asked .stopLine running).ltk.get l).front = [] ∧ ((asked .stopLine running).ltk.get l).oven = [] ∧
        ((asked .stopLine running).bch.get l).state = .idle) ∧
    ((asked .stopLine (onFront 0 fresh running)).inProcess .stopLine = true ∧
      ∃ l, ((asked .stopLine (onFront 0 fresh running)).ltk.get l).front ≠ []) := by
  refine ⟨by decide +kernel, by decide +kernel, by decide +kernel, by decide +kernel,
    ⟨by decide +kernel, by decide +kernel, fun l => ?_⟩, by decide +kernel, .zero, by decide +kernel⟩
  cases l <;> decide +kernel

/-- A lane in FAULT with one record on its front queue and its channel at rest. -/
def faulted : State := (onFront 0 fresh running).modLtk .zero fun t => { t with state := .fault }

theorem test_witness_ClearLaneRule :
    (asked (.clearLane 2) faulted).inProcess (.clearLane 2) = true ∧
    ((asked (.clearLane 1) faulted).inProcess (.clearLane 1) = true ∧ laneOfNat 1 = some .one ∧
      ((asked (.clearLane 1) faulted).ltk.get .one).state ≠ .fault) ∧
    ((asked (.clearLane 0) faulted).inProcess (.clearLane 0) = true ∧ laneOfNat 0 = some .zero ∧
      ((asked (.clearLane 0) faulted).ltk.get .zero).state = .fault ∧ (asked (.clearLane 0) faulted).boothLaneOk .zero ∧
      (asked (.clearLane 0) faulted).panel 0 = some fresh ∧
      0 ∈ ((asked (.clearLane 0) faulted).ltk.get .zero).front) := by
  refine ⟨by decide +kernel, by decide +kernel, by decide +kernel, by decide, by decide +kernel, ?_, by decide +kernel,
    by decide +kernel⟩
  unfold State.boothLaneOk
  decide +kernel

/-- A channel in FAULT that serves a record, and a lane with an open inspection window. -/
def boothFault : State :=
  ((onFront 0 fresh running).modBch .zero fun c => { c with state := .fault, served := some 0 }).modMvf .zero
    fun m => { m with inspecting := [⟨0, 3000⟩] }

theorem test_witness_ResetBoothAndResync :
    (asked (.resetBooth 2) boothFault).inProcess (.resetBooth 2) = true ∧
    ((asked (.resetBooth 1) boothFault).inProcess (.resetBooth 1) = true ∧
      ((asked (.resetBooth 1) boothFault).bch.get .one).state ≠ .fault) ∧
    ((asked (.resetBooth 0) boothFault).inProcess (.resetBooth 0) = true ∧
      ((asked (.resetBooth 0) boothFault).bch.get .zero).state = .fault) ∧
    (asked (.resyncTag 2) boothFault).inProcess (.resyncTag 2) = true ∧
    ((asked (.resyncTag 0) boothFault).inProcess (.resyncTag 0) = true ∧
      ((asked (.resyncTag 0) boothFault).mvf.get .zero).inspecting ≠ []) ∧
    ((asked (.resyncTag 1) boothFault).inProcess (.resyncTag 1) = true ∧
      ((asked (.resyncTag 1) boothFault).mvf.get .one).inspecting = []) := by
  decide +kernel

/-- The fields of recipe 8 as DEFINE_RECIPE carries them (section 6.8). -/
def fields8 : RecipeFields :=
  { coats := 2, massClass := 1, recoat := 15, flashMin := 60, flowRate := 240, flowTol := 10, minorTol := 2,
    holdMask := 0, base := 100, segs := 3, rows := 4, dy := 60, mode := 1, rotation := 1, reversal := 1 }

/-- DEFINE_RECIPE of section 6.8 is accepted; with 14 rows the last row would lie at 50 + 780, and it is refused. -/
theorem test_witness_DefineRecipeRule :
    (asked (.defineRecipe 8 fields8) (plant fresh)).inProcess (.defineRecipe 8 fields8) = true ∧
    (asked (.defineRecipe 8 fields8) (plant fresh)).recipe 8 = some { recipe8 with refs := 0 } ∧
    answerTo (.defineRecipe 8 fields8) (plant fresh) = some ⟨.ok, []⟩ ∧
    answerTo (.defineRecipe 8 { fields8 with rows := 14 }) (plant fresh) = some ⟨.range, []⟩ := by
  decide +kernel

/-- Each edit in process on a free recipe, with operands in and out of range. -/
theorem test_witness_RecipePartEdits :
    (asked (.setMaskZone 8 23 1 0 0 600 600) (plant fresh)).recipe 8 = some { recipe8 with refs := 0 } ∧
    (asked (.setMaskZone 8 23 1 0 0 600 600) (plant fresh)).inProcess (.setMaskZone 8 23 1 0 0 600 600) = true ∧
    mapOk recipe8.map ∧
    (asked (.setMaskZone 8 24 1 0 0 600 600) (plant fresh)).inProcess (.setMaskZone 8 24 1 0 0 600 600) = true ∧
    (asked (.clearMaskZone 8 24) (plant fresh)).inProcess (.clearMaskZone 8 24) = true ∧
    ((asked (.clearMaskZone 8 23) (plant fresh)).inProcess (.clearMaskZone 8 23) = true ∧
      ∀ z ∈ recipe8.map, z.zone ≠ 23) ∧
    ((asked (.clearMaskZone 8 5) (plant fresh)).inProcess (.clearMaskZone 8 5) = true ∧
      ∃ z ∈ recipe8.map, z.zone = 5) ∧
    answerTo (.setCureProfile 8 ⟨1200, 10, 900, 1800000, 5400000, 1100, 1500⟩) (plant fresh) = some ⟨.ok, []⟩ ∧
    answerTo (.setCureProfile 8 ⟨1200, 10, 399, 1800000, 5400000, 1100, 1500⟩) (plant fresh) = some ⟨.range, []⟩ ∧
    (asked (.eraseRecipe 8) (plant fresh)).inProcess (.eraseRecipe 8) = true := by
  refine ⟨by decide +kernel, by decide +kernel, ⟨by decide, by decide⟩, ?_⟩
  decide +kernel

/-- Entry 383 at the limits of its fields; a diagonal; an entry in use; an entry that a row would leave the panel
with. -/
theorem test_witness_WriteSegmentRule :
    answerTo (.writeSegment 383 0 600 600 600 400 1) (plant fresh) = some ⟨.ok, []⟩ ∧
    answerTo (.writeSegment 384 0 600 600 600 400 1) (plant fresh) = some ⟨.range, []⟩ ∧
    answerTo (.writeSegment 100 0 0 10 10 400 1) (plant fresh) = some ⟨.range, []⟩ ∧
    answerTo (.writeSegment 102 0 0 10 0 5 0) sound = some ⟨.inUse, []⟩ ∧
    answerTo (.writeSegment 100 0 421 10 421 5 0) (plant fresh) = some ⟨.range, []⟩ ∧
    answerTo (.writeSegment 100 0 420 10 420 5 0) (plant fresh) = some ⟨.ok, []⟩ := by
  decide +kernel

/-- ASSIGN_RECIPE and BIND_ID through each of their checks. -/
theorem test_witness_AssignAndBind :
    answerTo (.assignRecipe 0 8) (plant { fresh with stage := .verified }) = some ⟨.badState, []⟩ ∧
    answerTo (.assignRecipe 0 7) (plant fresh) = some ⟨.range, []⟩ ∧
    answerTo (.assignRecipe 0 8) (plant { fresh with coatsApplied := 2 }) = some ⟨.coatLimit, []⟩ ∧
    answerTo (.assignRecipe 0 8) (plant { parkedPanel with coatsApplied := 2 }) = some ⟨.ok, []⟩ ∧
    answerTo (.assignRecipe 0 8) (plant { fresh with recipe := some 8 }) = some ⟨.ok, []⟩ ∧
    answerTo (.bindId 0 [0x20]) (plant fresh) = some ⟨.range, []⟩ ∧
    answerTo (.bindId 0 [0x21]) (plant { fresh with id := some [0x41] }) = some ⟨.badState, []⟩ ∧
    answerTo (.bindId 0 [0x41]) { plant fresh with idMap := [([0x41], 3)] } = some ⟨.inUse, []⟩ ∧
    answerTo (.bindId 0 [0x7E]) (plant fresh) = some ⟨.ok, []⟩ := by
  decide +kernel

/-- The premise of BIND_ID: an ID map in order, with no record that holds an ID. -/
theorem test_witness_AssignAndBind_map :
    (asked (.bindId 0 [0x7E]) (plant fresh)).idMapOk ∧
    (asked (.bindId 0 [0x7E]) (plant fresh)).inProcess (.bindId 0 [0x7E]) = true ∧
    (asked (.bindId 0 [0x7E]) (plant fresh)).panel 0 = some fresh ∧
    (asked (.assignRecipe 0 8) (plant fresh)).inProcess (.assignRecipe 0 8) = true ∧
    ((asked (.assignRecipe 0 8) (plant fresh)).recipe 8).bind Recipe.body = some body8 := by
  refine ⟨⟨List.nodup_nil, fun id h => ?_⟩, by decide +kernel, by decide +kernel, by decide +kernel,
    by decide +kernel⟩
  constructor
  · intro hm
    exact absurd hm List.not_mem_nil
  · rintro ⟨p, hp, hid⟩
    obtain ⟨-, rfl⟩ := (asked_panel _ _ p h).1 hp
    simp [fresh, newPanel] at hid

/-- RETIRE through each of its checks (R22). -/
theorem test_witness_RetireRule :
    answerTo (.retire 0 2) (plant parkedPanel) = some ⟨.range, []⟩ ∧
    answerTo (.retire 0 1) (plant { parkedPanel with stage := .done }) = some ⟨.badState, []⟩ ∧
    answerTo (.retire 0 0) (plant { parkedPanel with holds := [newEntry .hostQa] }) = some ⟨.held, []⟩ ∧
    answerTo (.retire 0 1) (plant { parkedPanel with holds := [newEntry .hostQa] }) = some ⟨.ok, []⟩ ∧
    answerTo (.retire 0 0) (plant { parkedPanel with stage := .done }) = some ⟨.ok, []⟩ ∧
    (asked (.retire 0 0) (plant parkedPanel)).inProcess (.retire 0 0) = true ∧
    (asked (.retire 0 0) (plant parkedPanel)).panel 0 = some parkedPanel := by
  decide +kernel

/-- HOLD with each of its four outcomes (R162), on lists of the manual's levels. -/
theorem test_witness_HoldRule :
    answerTo (.hold 0 16) (plant fresh) = some ⟨.range, []⟩ ∧
    answerTo (.hold 0 17) (plant { fresh with holds := [newEntry .hostQa] }) = some ⟨.ok, [1, 0]⟩ ∧
    answerTo (.hold 0 17) (plant fresh) = some ⟨.ok, [0, 0]⟩ ∧
    answerTo (.hold 0 17) (plant { fresh with
      recipe := some 8
      holds := [newEntry .overtemp, newEntry .overcure, newEntry .trackLost, newEntry .undercure] }) =
      some ⟨.ok, [3, 0]⟩ ∧
    answerTo (.hold 0 17) { plant { fresh with recipe := some 8, holds := holds98 } with
        recipes := State.reset.recipes.setIfInBounds 8 { recipe8 with body := some { body8 with holdMask := mask98 } } } =
      some ⟨.ok, [2, 15]⟩ ∧
    (asked (.hold 0 17) (plant fresh)).inProcess (.hold 0 17) = true := by
  decide +kernel

/-- A PARKED record with a serviced HOST_QA below a pending UNDERCURE. -/
def serviced : List HoldEntry :=
  [newEntry .undercure, ⟨.hostQa, .inService (rankOf Params.reset emptyMask .hostQa), 1⟩]

/-- SERVICE and RELEASE through each of their checks (R165, R166). -/
theorem test_witness_ServiceAndRelease :
    answerTo (.service 0 18) (plant parkedPanel) = some ⟨.range, []⟩ ∧
    answerTo (.service 0 17) (plant fresh) = some ⟨.badState, []⟩ ∧
    answerTo (.service 0 17) (plant parkedPanel) = some ⟨.notFound, []⟩ ∧
    answerTo (.service 0 17) (plant { parkedPanel with holds := serviced }) = some ⟨.notGoverning, []⟩ ∧
    answerTo (.service 0 8) (plant { parkedPanel with holds := serviced }) = some ⟨.ok, []⟩ ∧
    answerTo (.release 0) (plant fresh) = some ⟨.badState, []⟩ ∧
    answerTo (.release 0) (plant { parkedPanel with holds := [newEntry .hostQa] }) = some ⟨.badState, []⟩ ∧
    answerTo (.release 0) (plant { parkedPanel with holds := serviced }) = some ⟨.ok, [17]⟩ ∧
    answerTo (.release 0) (plant { parkedPanel with
      holds := [⟨.overtemp, .inService (rankOf Params.reset emptyMask .overtemp), 1⟩] }) = some ⟨.fixedHold, []⟩ := by
  decide +kernel

/-- The premises of SERVICE's last two clauses: a hold list in order whose UNDERCURE may be serviced. -/
theorem test_witness_ServiceAndRelease_list :
    holdsOk serviced ∧
    (asked (.service 0 8) (plant { parkedPanel with holds := serviced })).inProcess (.service 0 8) = true ∧
    (asked (.release 0) (plant { parkedPanel with holds := serviced })).inProcess (.release 0) = true := by
  refine ⟨⟨by decide, by decide, by decide, ?_⟩, by decide +kernel, by decide +kernel⟩
  show List.Pairwise servedAbove [_]
  exact List.pairwise_singleton _ _

/-- A mask result FAILED on the MINOR zone 5 of recipe 8. -/
def failed5 : MaskResult := ⟨.failed, [(5, .absent)], []⟩

theorem test_witness_WaiveAndWithdraw :
    answerTo (.waiveMask 0) (plant parkedPanel) = some ⟨.badState, []⟩ ∧
    answerTo (.waiveMask 0) (plant { fresh with recipe := some 8, mask := some failed5 }) = some ⟨.badState, []⟩ ∧
    answerTo (.waiveMask 0) (plant { parkedPanel with recipe := some 8, mask := some failed5 }) = some ⟨.ok, []⟩ ∧
    answerTo (.withdraw 0) (plant parkedPanel) = some ⟨.badState, []⟩ ∧
    answerTo (.withdraw 0) (plant { parkedPanel with stage := .reentering }) = some ⟨.ok, []⟩ ∧
    (asked (.waiveMask 0) (plant parkedPanel)).inProcess (.waiveMask 0) = true ∧
    (asked (.withdraw 0) (plant parkedPanel)).inProcess (.withdraw 0) = true := by
  decide +kernel

/-- REENTER through each of its eight checks (R168). -/
theorem test_witness_ReenterRule :
    answerTo (.reenter 0 2 0) (plant parkedPanel) = some ⟨.range, []⟩ ∧
    answerTo (.reenter 0 0 3) (plant parkedPanel) = some ⟨.range, []⟩ ∧
    answerTo (.reenter 0 0 0) (plant fresh) = some ⟨.badState, []⟩ ∧
    answerTo (.reenter 0 0 0) (plant { parkedPanel with holds := [newEntry .hostQa] }) = some ⟨.held, []⟩ ∧
    answerTo (.reenter 0 0 0) (plant { parkedPanel with rework := 3 }) = some ⟨.reworkLimit, []⟩ ∧
    answerTo (.reenter 0 0 0) (plant parkedPanel) = some ⟨.badState, []⟩ ∧
    answerTo (.reenter 0 0 1) (plant { parkedPanel with recipe := some 8, mask := some failed5 }) =
      some ⟨.badState, []⟩ ∧
    answerTo (.reenter 0 1 1) (plant { parkedPanel with
      recipe := some 8, mask := some ⟨.pass, [], []⟩, coatsApplied := 2 }) = some ⟨.coatLimit, []⟩ ∧
    answerTo (.reenter 0 1 2) (plant { parkedPanel with recipe := some 8, coatsApplied := 2 }) = some ⟨.ok, []⟩ ∧
    answerTo (.reenter 0 1 2) ((plant { parkedPanel with recipe := some 8, coatsApplied := 2 }).modLtk .one
      fun t => { t with reentry := [1, 2, 3, 4] }) = some ⟨.full, []⟩ := by
  decide +kernel

/-! ### Witnesses: parameters, each at the ends of its range (R181) -/

theorem test_witness_PlainParameters_config :
    ([.setParamStationOffset .unload 32767, .setParamEyeTolerance 200, .setParamDivertPulse 50,
      .setParamTraverseSpeed 400, .setParamSamplePeriod 2000, .setParamClassLimits 1 2 3 4 49999,
      .setParamGainEntry 3 5 65535, .setParamReasonLevel 17 7] : List Instr).all (fun c =>
        answerTo c State.reset == some ⟨.ok, []⟩ && answerTo c running == some ⟨.mode, []⟩) = true ∧
    ([.setParamStationOffset .unload 32768, .setParamEyeTolerance 0, .setParamDivertPulse 49,
      .setParamTraverseSpeed 401, .setParamSamplePeriod 251, .setParamClassLimits 1 2 3 4 50000,
      .setParamGainEntry 4 5 0, .setParamReasonLevel 2 0] : List Instr).all (fun c =>
        answerTo c State.reset == some ⟨.range, []⟩) = true := by
  decide +kernel

theorem test_witness_PlainParameters_both :
    ([.setParamMinimumGap 2000, .setParamSettleTime 1000, .setParamEntryReserve 8, .setParamInspectTimeout 10000,
      .setParamAmbient (-400), .setParamDefaultRecipe 1 (-1), .setParamDefaultRecipe 0 15] : List Instr).all (fun c =>
        answerTo c State.reset == some ⟨.ok, []⟩ && answerTo c running == some ⟨.ok, []⟩) = true ∧
    ([.setParamMinimumGap 2001, .setParamSettleTime 49, .setParamEntryReserve 9, .setParamInspectTimeout 499,
      .setParamAmbient (-401), .setParamDefaultRecipe 1 (-2), .setParamDefaultRecipe 0 16,
      .setParamDefaultRecipe 2 0] : List Instr).all (fun c => answerTo c running == some ⟨.range, []⟩) = true := by
  decide +kernel

theorem test_witness_ActingParameters :
    ([.setParamBaudRate 57600, .setParamStaleLimit 1, .setParamStaleLimit 5] : List Instr).all (fun c =>
        answerTo c State.reset == some ⟨.ok, []⟩ && answerTo c running == some ⟨.mode, []⟩) = true ∧
    ([.setParamBaudRate 9600, .setParamStaleLimit 0, .setParamStaleLimit 6] : List Instr).all (fun c =>
        answerTo c State.reset == some ⟨.range, []⟩) = true ∧
    answerTo (.setParamAbortLevel 7) running = some ⟨.ok, []⟩ ∧
    answerTo (.setParamAbortLevel 8) running = some ⟨.range, []⟩ := by
  decide +kernel

/-- A COATING channel whose record is held TRACK_LOST, level 0: the new abort level sends it to ABORTING (R127). -/
theorem test_witness_ActingParameters_abort :
    let s := (coating 0 0 0 ⟨0, 0⟩).modPanel 21 fun p => { p with holds := [newEntry .trackLost] }
    (s.bch.get .zero).state = .coating ∧ (s.bch.get .zero).served = some 21 ∧
    s.governing 21 = some (newEntry .trackLost) ∧ s.params.level .trackLost ≤ 0 ∧
    (s.bch.get .one).state ≠ .coating ∧
    (reached (exec (.setParamAbortLevel 0) (asked (.setParamAbortLevel 0) s))).map (fun t => t.bch.zero.state) =
      some .aborting := by
  decide +kernel

/-! ### Witnesses: lane events -/

theorem test_witness_FaultAndDivert :
    (State.reset.ltk.get .zero).state ≠ .tracking ∧
    (((onFront 0 fresh running).ltk.get .zero).state = .tracking ∧
      (((onFront 0 fresh running).ltk.get .zero).front ++ ((onFront 0 fresh running).ltk.get .zero).oven).Nodup) ∧
    (onFront 0 fresh running).panel 0 = some fresh ∧
    ((onFront 0 fresh running).faultCause .zero).panel 0 = some (fresh.raise Params.reset emptyMask .trackLost).1 ∧
    ((onFront 0 fresh running).divert .zero .a 0).ltk.zero.divertA = some 200 := by
  decide +kernel

/-- Lane 0 with a full front queue (R47, R49). -/
def fullFront : State := running.modLtk .zero fun t => { t with front := List.range 24 }

/-- Each case of R49 has a state: IDLE; 24 records; a re-entry; a new record; FAULT; no FREE slot. -/
theorem test_witness_EntryRule :
    ((low .eyeEntry State.reset).edgeAt .zero .eyeEntry ∧ ((low .eyeEntry State.reset).ltk.get .zero).state = .idle) ∧
    ((low .eyeEntry fullFront).edgeAt .zero .eyeEntry ∧ ((low .eyeEntry fullFront).ltk.get .zero).state ≠ .idle ∧
      24 ≤ ((low .eyeEntry fullFront).ltk.get .zero).front.length) ∧
    ((running.modLtk .zero fun t => { t with reentry := [0] }).ltk.get .zero).reentry = [0] ∧
    ((low .eyeEntry running).edgeAt .zero .eyeEntry ∧ ((low .eyeEntry running).ltk.get .zero).state = .tracking ∧
      (low .eyeEntry running).freeList = 0 :: (List.range 48).drop 1) ∧
    (faulted.ltk.get .zero).state = .fault ∧ ({ running with freeList := [] } : State).freeList = [] ∧
    (onFront 0 (at_ 149 fresh) running).panel 0 = some (at_ 149 fresh) := by
  unfold State.edgeAt
  decide +kernel

/-- A record enters behind one at 149 mm and is held SPACING; at 150 mm it is not (R51, minimum gap 150). -/
theorem test_spacing :
    ((reached (exec (.eyeEntry .zero true) (low .eyeEntry (onFront 0 (at_ 149 fresh) running)))).bind
      (·.panel 1)).map Panel.holds = some [newEntry .spacing] ∧
    ((reached (exec (.eyeEntry .zero true) (low .eyeEntry (onFront 0 (at_ 150 fresh) running)))).bind
      (·.panel 1)).map Panel.holds = some [] := by
  decide +kernel

/-- The front head at the transfer eye, which the geometry puts at 6000 mm with tolerance 20. -/
def atTransfer (pos : Nat) : State :=
  low .eyeOven { onFront 0 (at_ pos { fresh with stage := .flashing }) running with params := geometry }

theorem test_witness_TransferRule :
    ((low .eyeOven State.reset).edgeAt .zero .eyeOven ∧ ((low .eyeOven State.reset).ltk.get .zero).state = .idle) ∧
    ((low .eyeOven running).edgeAt .zero .eyeOven ∧ ((low .eyeOven running).ltk.get .zero).front = []) ∧
    ((atTransfer 5980).edgeAt .zero .eyeOven ∧ ((atTransfer 5980).ltk.get .zero).front = [0] ∧
      (atTransfer 5980).panel 0 = some (at_ 5980 { fresh with stage := .flashing })) := by
  unfold State.edgeAt
  decide +kernel

/-- R62: the window of the transfer eye, both ends included. -/
theorem test_transfer_window :
    ([5980, 6000, 6020].map fun pos =>
      ((reached (exec (.eyeOven .zero true) (atTransfer pos))).map fun t => t.ltk.zero.oven)) =
      [some [0], some [0], some [0]] ∧
    ([5979, 6021].map fun pos =>
      ((reached (exec (.eyeOven .zero true) (atTransfer pos))).map fun t => t.ltk.zero.state)) =
      [some .fault, some .fault] := by
  decide +kernel

/-- The oven head of lane 0 at a position, EXITED with a cure verdict. -/
def exited (pos : Nat) (v : CureVerdict) : Panel :=
  { fresh with stage := .exited, place := some { sect := .oven, pos := pos }
               cure := some { temp := 250, dose := 0, peak := 0, ovenTime := 0, last := 0, verdict := some v } }

/-- Lane 0's unload eye, which the geometry puts at 10000 mm, with that record at the oven head. -/
def atUnload (p : Panel) : State :=
  low .eyeUnload ({ stored 0 p running with params := geometry }.modLtk .zero fun t => { t with oven := [0] })

theorem test_witness_ExitAndUnload :
    ((low .eyeUnload State.reset).edgeAt .zero .eyeUnload ∧
      ((low .eyeUnload State.reset).ltk.get .zero).state = .idle) ∧
    ((low .eyeUnload running).edgeAt .zero .eyeUnload ∧ ((low .eyeUnload running).ltk.get .zero).oven = []) ∧
    ((atUnload (exited 9980 .pass)).edgeAt .zero .eyeUnload ∧
      ((atUnload (exited 9980 .pass)).ltk.get .zero).oven = [0] ∧
      (atUnload (exited 9980 .pass)).panel 0 = some (exited 9980 .pass) ∧
      (atUnload (exited 9980 .pass)).governing 0 = none) ∧
    ((plant { soundPanel with stage := .curing }).panel 0 = some { soundPanel with stage := .curing } ∧
      (plant { soundPanel with stage := .curing }).cureProfileOf { soundPanel with stage := .curing } =
        some profile3) := by
  unfold State.edgeAt
  decide +kernel

/-- R65: DONE, divert at DIVERT_U, and a fault cause outside the window. -/
theorem test_unload :
    ((reached (exec (.eyeUnload .zero true) (atUnload (exited 10020 .pass)))).bind (·.panel 0)).map Panel.stage =
      some .done ∧
    ((reached (exec (.eyeUnload .zero true) (atUnload (exited 10020 .undercure)))).map fun t => t.ltk.zero.divertU) =
      some (some 200) ∧
    ((reached (exec (.eyeUnload .zero true) (atUnload (exited 10021 .pass)))).map fun t => t.ltk.zero.state) =
      some .fault := by
  decide +kernel

/-- Lane 0 under the geometry with one record on the front queue at a position. -/
def onLine (p : Panel) : State := low .encFront { onFront 0 p running with params := geometry }

theorem test_witness_CountRule :
    ((low .encFront State.reset).edgeAt .zero (encoderInput .front) ∧
      ((low .encFront State.reset).ltk.get .zero).state = .idle) ∧
    ((onLine (at_ 300 fresh)).edgeAt .zero (encoderInput .front) ∧
      ((onLine (at_ 300 fresh)).ltk.get .zero).state ≠ .idle ∧
      ((onLine (at_ 300 fresh)).ltk.get .zero).queue .front = [0] ∧
      (onLine (at_ 300 fresh)).arrivalsOf .front 0 = []) ∧
    (onLine (at_ 32767 fresh)).arrivalsOf .front 0 = [] ∧
    (onLine (at_ 199 fresh)).arrivalsOf .front 0 = [(.idWindow, 0)] := by
  unfold State.edgeAt
  decide +kernel

/-- Lane 0 with two records at one position, behind a third (R47). -/
def threeOnLine : State :=
  ((onLine (at_ 1399 (fresh))).setSlot 1 (some (at_ 199 fresh))).setSlot 2 (some (at_ 199 fresh)) |>.modLtk .zero
    fun t => { t with front := [0, 1, 2] }

/-- One count raises an arrival of each, two of them at one station (R44). -/
theorem test_witness_CountRule_several :
    threeOnLine.edgeAt .zero (encoderInput .front) ∧ (threeOnLine.ltk.get .zero).state ≠ .idle ∧
    ((threeOnLine.ltk.get .zero).queue .front).Nodup ∧
    ((threeOnLine.ltk.get .zero).queue .front).flatMap (threeOnLine.arrivalsOf .front) =
      [(.divertA, 0), (.idWindow, 1), (.idWindow, 2)] := by
  unfold State.edgeAt
  decide +kernel

/-- Each station of the tracker's own has a record of each kind. -/
theorem test_witness_TrackerStations :
    (onLine fresh).panel 0 = some fresh ∧ fresh.stage = .entered ∧ parkedPanel.stage ≠ .entered ∧
    ((onLine { fresh with holds := [newEntry .hostQa] }).governing 0 ≠ none ∧ fresh.stage ≠ .inspecting ∧
      (onLine fresh).governing 0 = none) ∧
    (boothFault.bch.get .zero).served = some 0 ∧ ((onLine fresh).bch.get .zero).served ≠ some 0 ∧
    (tickAfter 5000 (onLine fresh).tick = true ∧ tickAfter 0 (onLine fresh).tick = false) ∧
    ((onLine fresh).ltk.get .zero).front.head? = some 0 := by
  decide +kernel

/-- R54: the record that reaches ID_WINDOW unread is admitted and held NO_ID. -/
theorem test_no_id :
    ((onLine fresh).arrive .zero (.idWindow, 0)).panel 0 =
      some ({ fresh with stage := .admitted }.raise geometry emptyMask .noId).1 := by
  decide +kernel

/-! ### Witnesses: the mask verifier -/

/-- An ADMITTED record at MASK without a recipe, and with recipe 8. -/
def admitted (r : Option Nat) : Panel := { fresh with stage := .admitted, recipe := r }

theorem test_witness_MaskArrival :
    ((plant fresh).panel 0 = some fresh ∧ fresh.stage ≠ .admitted) ∧
    ((plant (admitted none)).panel 0 = some (admitted none) ∧ (plant (admitted none)).definedRecipe 8 = true ∧
      (plant (admitted none)).params.defaultRecipe.get .zero = none) ∧
    ({ geometry with defaultRecipe := { zero := some 8, one := none } } : Params).defaultRecipe.get .zero = some 8 ∧
    ((plant (admitted (some 8))).panel 0 = some (admitted (some 8)) ∧
      ((plant (admitted (some 8))).mvf.get .zero).backlog ≠ 24 ∧
      (plant (admitted (some 8))).inspectingWithTag .zero ((plant (admitted (some 8))).mvf.get .zero).tag = none) := by
  decide +kernel

/-- An INSPECTING record with tag 3 whose window ends at tick 100. -/
def inspecting : State :=
  { (plant { admitted (some 8) with stage := .inspecting, inspectTag := some 3 }).modMvf .zero fun m =>
      { m with tag := 4, inspecting := [⟨0, 100⟩] } with tick := 100 }

theorem test_witness_WindowsAndPulses :
    (inspecting.inReset = false ∧ inspecting.panel 0 =
      some { admitted (some 8) with stage := .inspecting, inspectTag := some 3 } ∧
      ∃ w ∈ (inspecting.mvf.get .zero).inspecting, w.handle = 0 ∧ tickAfter w.expiry inspecting.tick = false) ∧
    (∀ w ∈ (({ inspecting with tick := 99 } : State).mvf.get .zero).inspecting, w.handle = 0 →
      tickAfter w.expiry 99 = true) ∧
    ((running.modMvf .zero fun m => { m with trig := .asserted 0 }).mvf.get .zero).trig = .asserted 0 ∧
    ((running.modMvf .zero fun m => { m with trig := .recovery 0, backlog := 1 }).mvf.get .zero).backlog = 0 + 1 ∧
    tickAfter 0 running.tick = false :=
  ⟨⟨by decide +kernel, by decide +kernel, ⟨0, 100⟩, by decide +kernel, by decide +kernel, by decide +kernel⟩,
    by decide +kernel, by decide +kernel, by decide +kernel, by decide +kernel⟩

/-- A record with its four maskable holds all masked and IN_SERVICE, so that no hold governs it even after another. -/
def allMasked : State :=
  let held := fun (r : HoldReason) => ({ newEntry r with state := .inService (rankOf Params.reset emptyMask r) } : HoldEntry)
  { inspecting.modPanel 0 fun p => { p with holds := [.maskExcess, .coatVolume, .spacing, .noId].map held } with
    recipes := State.reset.recipes.setIfInBounds 8 { recipe8 with body := some { body8 with
      holdMask := { maskExcess := true, coatVolume := true, spacing := true, noId := true } } } }

/-- R90: the record still INSPECTING at DIVERT_A is held and diverted. R86 step 1: record 0 holds the counter's tag. -/
theorem test_witness_WindowsAndPulses_early :
    ((inspecting.panel 0).map Panel.stage = some .inspecting ∧ (inspecting.arrive .zero (.divertA, 0)).ltk.zero.divertA =
      some 300 ∧ ((inspecting.arrive .zero (.divertA, 0)).panel 0).map Panel.stage = some .parked) ∧
    (allMasked.panel 0).map Panel.stage = some .inspecting ∧
    ((allMasked.arrive .zero (.divertA, 0)).panel 0).map Panel.stage = some .verified ∧
    (let s := inspecting.modMvf .zero fun m => { m with tag := 3 }
     (s.panel 0).map Panel.lane = some .zero ∧ s.inspectingWithTag .zero (s.mvf.get .zero).tag = some 0 ∧
     (∀ w ∈ (s.mvf.get .zero).inspecting, w.handle = 0) ∧
     ((s.setSlot 1 (some (admitted (some 8)))).trigger .zero 1).mvf.zero.inspecting = [⟨1, 3100⟩] ∧
     (((s.setSlot 1 (some (admitted (some 8)))).trigger .zero 1).panel 0).map Panel.holds =
       some [newEntry .inspectTimeout]) := by
  decide +kernel

/-- R87: pulse, recovery, and the owed pulse that follows. -/
theorem test_pulses :
    ((reached (exec (.inspectTrigPulseEnd .zero)
      (running.modMvf .zero fun m => { m with trig := .asserted 0 }))).map fun t => t.mvf.zero.trig) =
      some (.recovery 5) ∧
    ((reached (exec (.inspectTrigRecoveryEnd .zero)
      (running.modMvf .zero fun m => { m with trig := .recovery 0, backlog := 1 }))).map fun t =>
        (t.mvf.zero.trig, t.mvf.zero.backlog)) = some (.asserted 5, 0) := by
  decide +kernel

/-- A report for tag 3 is offered. -/
def offered (msg : StationMessage) (s : State) : State :=
  { s with slr := { s.slr with asm := { Assembler.reset with state := .offering msg } } }

theorem test_witness_MaskReportRule :
    ((offered (.maskReport .zero 9 []) inspecting).slr.asm.state = .offering (.maskReport .zero 9 []) ∧
      (offered (.maskReport .zero 9 []) inspecting).inspectingWithTag .zero 9 = none) ∧
    ((offered (.maskReport .zero 3 []) inspecting).inspectingWithTag .zero 3 = some 0 ∧
      (offered (.maskReport .zero 3 []) inspecting).inReset = false ∧ (admitted (some 8)).lane = .zero) := by
  decide +kernel

/-- R92 to R94 on recipe 8's one MINOR zone: absent from the report, it is a defect within the tolerance of 2; the last
pair that names it counts. -/
theorem test_mask_report :
    (((reached (exec .maskReport (offered (.maskReport .zero 3 []) inspecting))).bind (·.panel 0)).map
      fun p => (p.stage, p.mask, p.inspectTag)) = some (.verified, some ⟨.passGuarded, [(5, .absent)], [5]⟩, none) ∧
    (((reached (exec .maskReport (offered (.maskReport .zero 3 [(5, .absent), (5, .present)]) inspecting))).bind
      (·.panel 0)).map Panel.mask) = some (some ⟨.pass, [], []⟩) := by
  decide +kernel

/-- A report that leaves out recipe 8's zone 5, with that zone CRITICAL or not, a tolerance and a hold mask. -/
def reported (critical : Bool) (tol : Nat) (mask : HoldMask) : State :=
  { offered (.maskReport .zero 3 []) inspecting with
    recipes := State.reset.recipes.setIfInBounds 8 { recipe8 with
      body := some { body8 with minorTol := tol, holdMask := mask }
      map := [{ zone := 5, critical := critical, x0 := 90, y0 := 170, x1 := 130, y1 := 200 }] } }

/-- R93, R94: a critical defect; an excess of defects without and with MASK_EXCESS masked. -/
theorem test_witness_MaskReportRule_failed :
    ([(true, 2, emptyMask), (false, 0, emptyMask), (false, 0, { emptyMask with maskExcess := true })].map fun a =>
      ((reached (exec .maskReport (reported a.1 a.2.1 a.2.2))).bind (·.panel 0)).map fun p => (p.mask, p.holds)) =
      [some (some ⟨.failed, [(5, .absent)], []⟩, [newEntry .maskCritical]),
       some (some ⟨.failed, [(5, .absent)], []⟩, [newEntry .maskExcess]),
       some (some ⟨.passGuarded, [(5, .absent)], [5]⟩, [newEntry .maskExcess])] := by
  decide +kernel

/-- An ID read is offered to a lane with one ENTERED record, and to one with none. -/
theorem test_witness_IdReadRule :
    ((offered (.idRead .zero [0x41]) running).inReset = false ∧
      (offered (.idRead .zero [0x41]) running).slr.asm.state = .offering (.idRead .zero [0x41]) ∧
      ∀ h ∈ ((offered (.idRead .zero [0x41]) running).ltk.get .zero).front,
        ∀ p, (offered (.idRead .zero [0x41]) running).panel h = some p → p.stage ≠ .entered) ∧
    (((offered (.idRead .zero [0x41]) (onFront 0 fresh running)).ltk.get .zero).front = [] ++ 0 :: [] ∧
      (offered (.idRead .zero [0x41]) (onFront 0 fresh running)).panel 0 = some fresh ∧ fresh.stage = .entered ∧
      fresh.id = none ∧ ∀ n, ([0x41], n) ∉ (offered (.idRead .zero [0x41]) (onFront 0 fresh running)).idMap) ∧
    (∃ n, (([0x41], n) : PanelId × Nat) ∈ sound.idMap) :=
  ⟨⟨by decide +kernel, by decide +kernel, fun h hm => absurd hm List.not_mem_nil⟩,
    ⟨by decide +kernel, by decide +kernel, by decide, by decide, fun n hm => absurd hm List.not_mem_nil⟩,
    0, List.mem_singleton.2 rfl⟩

/-- Section 4.8, step 13: the read is stored, mapped and noticed, and the record ADMITTED; R53's other rows. -/
theorem test_id_read :
    (((reached (exec .idRead (offered (.idRead .zero [0x41]) (onFront 0 fresh running)))).bind (·.panel 0)).map
      fun p => (p.id, p.stage, p.notices.identified)) = some (some [0x41], .admitted, true) ∧
    (((reached (exec .idRead (offered (.idRead .zero [0x41])
      (onFront 0 { fresh with id := some [0x42] } running)))).bind (·.panel 0)).map Panel.holds) =
      some [newEntry .idMismatch] ∧
    ((reached (exec .idRead (offered (.idRead .zero [0x41]) running))).map fun t => t.flags.strayId) = some true := by
  decide +kernel

/-! ### Witnesses: lane timers and the booth -/

/-- Lane 0 with its timers at tick 0, due now. -/
def timed : State :=
  running.modLtk .zero fun t => { t with quiet := some 0, flashClaim := some 0, divertA := some 0 }

/-- Lane 0's channel SETTLING on record 0, its quiet timer due. -/
def settling (p : Panel) : State :=
  (((plant p).modLtk .zero fun t => { t with front := [0], boothClaim := true, quiet := some 0 }).modBch .zero
    fun c => { c with state := .settling, served := some 0 })

/-- A VERIFIED record with recipe 8. -/
def verified : Panel := { admitted (some 8) with stage := .verified, mask := some ⟨.pass, [], []⟩ }

theorem test_witness_LaneTimersAndSettled :
    (timed.inReset = false ∧ (timed.ltk.get .zero).quiet = some 0 ∧ tickAfter 0 timed.tick = false ∧
      (timed.ltk.get .zero).state ≠ .idle ∧ (timed.bch.get .zero).state ≠ .settling ∧
      (timed.ltk.get .zero).flashClaim = some 0 ∧ (timed.ltk.get .zero).pulseOf .a = some 0) ∧
    tickAfter 1 timed.tick = true ∧
    ((settling verified).inReset = false ∧ ((settling verified).ltk.get .zero).quiet = some 0 ∧
      tickAfter 0 (settling verified).tick = false ∧ ((settling verified).ltk.get .zero).state ≠ .idle ∧
      ((settling verified).bch.get .zero).state = .settling ∧ ((settling verified).bch.get .zero).served = some 0 ∧
      (settling verified).panel 0 = some verified ∧ (settling verified).governing 0 = none) ∧
    (settling { verified with holds := [newEntry .hostQa] }).governing 0 ≠ none := by
  decide +kernel

/-- R118, R119: the settled event starts coat 0 with a traverse from (0,0) to the first segment. -/
theorem test_settled :
    ((reached (exec (.settledEvent .zero) (settling verified))).map fun t =>
      (t.bch.zero.state, t.bch.zero.inFlight, t.bch.zero.order)) =
      some (.coating, true, some (traverseOrder 300 ⟨0, 0⟩ ⟨40, 50⟩)) := by
  decide +kernel

theorem test_witness_BoothArrivalRule :
    (plant verified).panel 0 = some verified ∧ verified.stage = .verified ∧ fresh.stage ≠ .verified ∧
    (((plant verified).bch.get .zero).state = .idle ∧ (plant verified).inputLevel .zero .gantryErr ≠ some true) ∧
    ((plant verified).keepLevel .zero .gantryErr true).inputLevel .zero .gantryErr = some true ∧
    (boothFault.bch.get .zero).state = .fault ∧ ((settling verified).bch.get .zero).state ≠ .idle := by
  decide +kernel

/-- A segment order of 1500 ms that expects 360 pulses. -/
def order13 : MoveOrder := segmentOrder body8 [] 1 false ⟨100, 1, seg100, ⟨160, 110⟩, ⟨40, 110⟩⟩

/-- Section 7.8: order 13 in flight with 70 pulses counted; the totals before it. -/
def order13InFlight (st : ChannelState) (o : MoveOrder) : State :=
  low .flow (low .moveDone { ((coating 1 2 2 ⟨40, 110⟩).modPanel 21 fun p =>
      { p with coats := [{ newCoat with expected := 2160, counted := 2205, run := 12, suppressed := 2, completed := true },
                         { newCoat with expected := 720, counted := 713, run := 7, suppressed := 2 }] }).modBch .zero
    fun c => { c with state := st, order := some o, inFlight := true, flow := 70 } with tick := 1500 })

/-- The record that order is run for. -/
def panel13 : Panel :=
  { panel21 with coats := [{ newCoat with expected := 2160, counted := 2205, run := 12, suppressed := 2, completed := true }] ++
      [{ newCoat with expected := 720, counted := 713, run := 7, suppressed := 2 }] }

theorem test_witness_OrderCompletion :
    ((order13InFlight .coating order13).inReset = false ∧
      (order13InFlight .coating order13).inputLevel .zero .moveDone = some false ∧
      ((order13InFlight .coating order13).bch.get .zero).order = some order13 ∧
      ((order13InFlight .coating order13).bch.get .zero).inFlight = true ∧
      ((order13InFlight .coating order13).bch.get .zero).doneSeen = false ∧
      ((order13InFlight .coating order13).bch.get .zero).durationExpired = false ∧
      tickAfter (((order13InFlight .coating order13).bch.get .zero).sendTick + BitVec.ofNat 32 order13.duration)
        (order13InFlight .coating order13).tick = false) ∧
    ((order13InFlight .coating order13).panel 21 = some panel13 ∧
      ((order13InFlight .coating order13).bch.get .zero).served = some 21 ∧ order13.last = false) ∧
    (((coating 0 0 0 ⟨0, 0⟩).bch.get .zero).served = some 21 ∧ (coating 0 0 0 ⟨0, 0⟩).panel 21 = some panel21 ∧
      ((coating 0 0 0 ⟨0, 0⟩).nextOrder .zero).2 = some (traverseOrder 300 ⟨0, 0⟩ ⟨40, 50⟩) ∧
      (running.pgn.get .zero).state ≠ .generating) := by
  decide +kernel

/-- Section 7.8: at its completion NOZZLE_BLOCK is raised, the accounts read 1,080 and 783 with 8 segments run, and the
park traverse from (40,110) is sent. -/
theorem test_nozzle_block :
    ((reached (exec (.durationExpiry .zero)
      ((order13InFlight .coating order13).modBch .zero fun c => { c with doneSeen := true }))).map fun t =>
        (t.bch.zero.state, t.bch.zero.order)) = some (.parking, some (traverseOrder 300 ⟨40, 110⟩ ⟨0, 0⟩)) ∧
    (((reached (exec (.durationExpiry .zero)
      ((order13InFlight .coating order13).modBch .zero fun c => { c with doneSeen := true }))).bind
        (·.panel 21)).map fun p => (p.holds, p.coats.getLast?)) =
      some ([newEntry .nozzleBlock],
        some { newCoat with expected := 1080, counted := 783, run := 8, suppressed := 2 }) := by
  decide +kernel

theorem test_witness_CoatAndPassEnd :
    (((coating 1 3 2 ⟨160, 50⟩).bch.get .zero).served = some 21 ∧
      (coating 1 3 2 ⟨160, 50⟩).panel 21 = some panel21 ∧ (coating 1 3 2 ⟨160, 50⟩).bodyOf panel21 = some body8 ∧
      panel21.coats = [] ++ [newCoat]) ∧
    (List.countP CoatEntry.completed [] + 1 < body8.coats ∧ body8.recoat ≠ 0) ∧
    body8.coats ≤ List.countP CoatEntry.completed [{ newCoat with completed := true }] + 1 := by
  decide +kernel

/-- Coat 0 of record 21 ends with a recoat interval of 0 s: coat 1 starts at once with a second entry (R119, R126). -/
def noRecoat : State :=
  { coating 0 3 2 ⟨160, 50⟩ with
    recipes := State.reset.recipes.setIfInBounds 8 { recipe8 with body := some { body8 with recoat := 0 } } }

theorem test_witness_CoatAndPassEnd_no_recoat :
    ((noRecoat.bch.get .zero).served = some 21 ∧ noRecoat.panel 21 = some panel21 ∧
      (noRecoat.bodyOf panel21).map Body.recoat = some 0 ∧ noRecoat.governing 21 = none) ∧
    ((noRecoat.endCoat .zero).bch.zero.state = .coating ∧ (noRecoat.endCoat .zero).bch.zero.coat = 1 ∧
      ((noRecoat.endCoat .zero).panel 21).map (fun p => p.coats.length) = some 2) ∧
    (noRecoat.raise .hostQa 21).governing 21 ≠ none ∧
    ((noRecoat.raise .hostQa 21).endCoat .zero).bch.zero.state = .parking := by
  decide +kernel

/-- R108, R129: the park traverse, and the pass that ends at once at the park point. -/
theorem test_witness_CoatAndPassEnd_parking :
    ((coating 0 0 0 ⟨160, 50⟩).pgn.get .zero).pos ≠ ({ x := 0, y := 0 } : Point) ∧
    ((coating 0 0 0 ⟨160, 50⟩).enterPark .zero).bch.zero.order = some (traverseOrder 300 ⟨160, 50⟩ ⟨0, 0⟩) ∧
    ((coating 0 0 0 ⟨0, 0⟩).pgn.get .zero).pos = ({ x := 0, y := 0 } : Point) ∧
    ((coating 0 0 0 ⟨0, 0⟩).enterPark .zero).bch.zero.state = .idle := by
  decide +kernel

theorem test_witness_GantryPortRule :
    running.port = none ∧ ({ running with port := some ⟨.zero, []⟩ } : State).port = some ⟨.zero, []⟩ ∧
    running.inReset = false ∧ (running.bch.get .zero).order = none ∧
    (((running.modBch .one fun c => { c with order := some order13 }).bch.get .one).order = some order13 ∧
      ((running.modBch .one fun c => { c with order := some order13 }).bch.get .one).inFlight = false) := by
  decide +kernel

theorem test_witness_ChannelEvents :
    ((order13InFlight .coating order13).inReset = false ∧
      ((order13InFlight .coating order13).bch.get .zero).served = some 21 ∧
      (order13InFlight .coating order13).edgeAt .zero .flow ∧
      order13.isSegment = true ∧ order13.valveOpen = true ∧ order13.suppressed = false ∧
      tickAfter (((order13InFlight .coating order13).bch.get .zero).sendTick +
        BitVec.ofNat 32 (2 * order13.duration + 500)) 3500 = false) ∧
    (((settling verified).bch.get .zero).state ≠ .idle ∧ ((settling verified).bch.get .zero).state ≠ .fault) ∧
    (running.bch.get .zero).state = .idle ∧
    ((((coating 1 0 0 ⟨40, 230⟩).modBch .zero fun c => { c with state := .recoatWait, recoatExpiry := some 0 }).bch.get
      .zero).recoatExpiry = some 0 ∧ (coating 1 0 0 ⟨40, 230⟩).governing 21 = none) := by
  unfold State.edgeAt
  decide +kernel

theorem test_witness_PathOrders :
    (((coating 1 0 0 ⟨40, 230⟩).pgn.get .zero).state = .generating ∧
      ((coating 1 0 0 ⟨40, 230⟩).pgn.get .zero).record = some 21 ∧
      (coating 1 0 0 ⟨40, 230⟩).panel 21 = some panel21 ∧
      (coating 1 0 0 ⟨40, 230⟩).bodyOf panel21 = some body8 ∧
      ((coating 1 0 0 ⟨40, 230⟩).pgn.get .zero).row < body8.rows ∧
      (coating 1 0 0 ⟨40, 230⟩).pool[body8.base + 1]? = some (some seg101)) ∧
    (({ x := 160, y := 260 } : Point) ≠ ((coating 1 0 0 ⟨40, 230⟩).pgn.get .zero).pos ∧
      ({ x := 160, y := 260 } : Point) = ((coating 1 0 0 ⟨160, 260⟩).pgn.get .zero).pos) ∧ 0 < 300 := by
  decide +kernel

/-! ### Witnesses: station link, oven, holds and timebase -/

/-- A receiver in a state. -/
def link_ (r : StationLink) : State := { running with slr := r }

theorem test_witness_StationLineRule :
    (link_ { StationLink.reset with rx := .receiving true }).slr.rx = .receiving true ∧
    ([] : List FifoEntry).length < 64 ∧ 64 ≤ (List.replicate 64 (⟨0, false, false, false⟩ : FifoEntry)).length ∧
    (StationLink.reset.rx = .waiting ∧ StationLink.reset.rxd = true ∧
      ({ StationLink.reset with rxd := false } : StationLink).rxd = false) ∧
    ({ StationLink.reset with rx := .inBreak } : StationLink).rx = .inBreak ∧
    (({ StationLink.reset with quiet := false } : StationLink).quiet = false ∧ StationLink.reset.fifo = [] ∧
      StationLink.reset.asm.state = .hunting ∧
      ({ Assembler.reset with state := .length } : Assembler).state = .length) ∧
    (link_ StationLink.reset).inReset = false := by
  decide +kernel

theorem test_witness_FrameAssembly :
    (link_ { StationLink.reset with quiet := false, fifo := [⟨0xA5, false, false, false⟩] }).slr.fifo =
      ⟨0xA5, false, false, false⟩ :: [] ∧
    (link_ { StationLink.reset with quiet := false, fifo := [⟨0xA5, false, false, false⟩] }).slr.quiet = false ∧
    (2 : Byte).toNat < 3 ∧ 62 < (63 : Byte).toNat ∧ (3 ≤ (3 : Byte).toNat ∧ (62 : Byte).toNat ≤ 62) ∧
    idOk [0x21] = true ∧ idOk (List.replicate 16 0x7E) = true ∧
    ([(23, .displaced)] : List (Nat × ZoneStatus)).length ≤ 24 := by
  decide +kernel

/-- A receiver whose assembler is in CHECKSUM after the bytes of a frame, with one byte to take. -/
def atChecksum (quiet : Bool) (bytes : List Byte) (last : Byte) : State :=
  link_ { StationLink.reset with quiet := quiet, fifo := [⟨last, false, false, false⟩], asm :=
    { state := .checksum, len := bytes.length, bytes := bytes, sum := bytes.foldl (· + ·) (be8 bytes.length),
      corrupt := false } }

/-- R79, R80: frames of an unknown TYPE, of lane 2, of a wrong ID length and of zone 24, their checksums right. -/
theorem test_bad_frames :
    ([([0x11, 0, 0], 0xEC), ([0x10, 2, 1, 0x41], 0xA8), ([0x10, 0, 2, 0x41], 0xA9),
      ([0x20, 0, 3, 1, 24, 0], 0xBE)] : List (List Byte × Byte)).all (fun x =>
        (reached (exec .assemblerByteTake (atChecksum false x.1 x.2))).map (fun t => (t.slr.asm, t.flags.linkError)) ==
          some (Assembler.reset, true)) = true ∧
    ((reached (exec .assemblerByteTake (atChecksum false [0x10, 0, 1, 0x41] 0xAA))).map fun t =>
      (t.slr.asm.state, t.flags.linkError)) = some (.offering (.idRead .zero [0x41]), false) := by
  decide +kernel

/-- On a QUIET line the byte that empties the FIFO in the middle of a frame ends the frame (R77); an offered frame
stops the bytes. -/
theorem test_witness_FrameAssembly_quiet :
    let s := link_ { StationLink.reset with fifo := [⟨0xA5, false, false, false⟩] }
    (s.slr.quiet = true ∧ s.slr.asm.state = .hunting ∧
      (reached (exec .assemblerByteTake { s with slr := { s.slr with quiet := false } })).map (fun t => t.slr.asm.state) =
        some .length ∧
      (reached (exec .assemblerByteTake s)).map (fun t => (t.slr.asm, t.flags.linkError)) =
        some (Assembler.reset, true)) ∧
    ({ s with slr := { s.slr with fifo := ⟨0xA5, false, false, false⟩ :: s.slr.fifo } } : State).slr.fifo.length = 2 ∧
    (offered (.idRead .zero [0x41]) s).slr.asm.state = .offering (.idRead .zero [0x41]) ∧
    (atChecksum false [0x10, 2, 1, 0x41] 0xA8).slr.asm.bytes.length =
      (atChecksum false [0x10, 2, 1, 0x41] 0xA8).slr.asm.len ∧
    (∀ (l : LaneNo) (id : PanelId), ([0x10, 2, 1, 0x41] : List Byte) ≠ 0x10 :: be8 (laneNum l) :: be8 id.length :: id) := by
  refine ⟨by decide +kernel, by decide +kernel, by decide +kernel, by decide +kernel, fun l id h => ?_⟩
  cases l <;> simp [be8, laneNum] at h

/-- A character ends with its stop bit low: the byte enters with the error mark and the gap mark (R70, R72, R75). -/
theorem test_framing_error :
    ((reached (exec (.characterReceived false ⟨false, false, false, false, false, false, false, false⟩ false) (link_ { StationLink.reset with rx := .receiving true }))).map
      fun t => (t.slr.fifo, t.slr.quiet)) = some ([⟨0x00, true, false, true⟩], false) := by
  decide +kernel

/-- The eight samples of 0x1D, least significant first; read the other way they would be 0xB8 (R70). -/
theorem test_bit_order :
    ((reached (exec (.characterReceived false ⟨true, false, true, true, true, false, false, false⟩ true)
      (link_ { StationLink.reset with rx := .receiving false }))).map fun t => t.slr.fifo.map (·.byte)) =
        some [0x1D] := by
  decide +kernel

/-- A record CURING at 4502 mm on lane 0's oven queue with recipe 8, a poll in flight at its boundary (section 8.8). -/
def curing : Panel :=
  { fresh with recipe := some 8, stage := .curing, place := some { sect := .oven, pos := 4502 }
               cure := some { temp := 1232, dose := 1500620, peak := 1232, ovenTime := 212500, last := 0, verdict := none } }

/-- Zone 4 of section 8.8 STALE at 1420 with stale count 2 and class 2. -/
def polling : State :=
  { (plant curing).modLtk .zero fun t => { t with oven := [0] } with
    params := geometry
    tick := 500
    poll := { boundary := 500, inFlight := true }
    zones := State.reset.zones.setIfInBounds 3
      { Zone.reset with air := 1420, state := .stale, stale := 2, airflow := 2, running := true } }

theorem test_witness_PollRule :
    (polling.inReset = false ∧ polling.poll.inFlight = true ∧ tickAfter polling.poll.boundary polling.tick = false ∧
      (polling.ltk.zero.oven ++ polling.ltk.one.oven).Nodup ∧ 0 ∈ polling.ltk.zero.oven ++ polling.ltk.one.oven ∧
      polling.panel 0 = some curing ∧ polling.bodyOf curing = some body8 ∧
      polling.cureProfileOf curing = some profile3 ∧ zoneOf polling.params 4502 = some 3) ∧
    (({ running with tick := 499 } : State).poll.inFlight = false ∧
      tickAfter ({ running with tick := 499 } : State).poll.boundary (499 + 1) = false) := by
  decide +kernel

/-- Section 8.8, completion at 201,000: zone 4 becomes INVALID with ZONE_ALARM; 1236 and 1,501,240; CURE_UNVERIFIED. -/
theorem test_poll :
    ((reached (exec (.pollCompletion (Vector.replicate 6 ⟨0xFF, 2, 0, 0⟩)) polling)).map fun t =>
      (t.zones[3].state, t.zones[3].air, t.flags.zoneAlarm, t.poll.boundary)) = some (.invalid, 1420, true, 1000) ∧
    (((reached (exec (.pollCompletion (Vector.replicate 6 ⟨0xFF, 2, 0, 0⟩)) polling)).bind (·.panel 0)).map fun p =>
      (p.cure.map Cure.temp, p.cure.map Cure.dose, p.holds)) =
      some (some 1236, some 1501240, [newEntry .cureUnverified]) := by
  decide +kernel

/-- R189, R194: the first byte received is ignored; 0x05, 0x8C is 1420 and 0xFE, 0x70 is -400. -/
theorem test_reply_bytes :
    applyReply 3 ⟨0xAA, 0, 0x05, 0x8C⟩ Zone.reset = { Zone.reset with air := 1420, stale := 0, state := .valid } ∧
    (applyReply 3 ⟨0, 0, 0xFE, 0x70⟩ Zone.reset).air = -400 := by
  decide

theorem test_witness_OvenArithmetic : (65535 : Nat) ≤ 65535 ∧ 0 < (4 : Nat) ∧ (1200 : Int) = 1200 := by decide

/-- R146's rounding at the halves, and R147's floor below zero and clamp. -/
theorem test_rounding :
    roundQ16 32768 = 1 ∧ roundQ16 32767 = 0 ∧ roundQ16 (-32768) = -1 ∧ roundQ16 (-32767) = 0 ∧
    doseExponent 1199 1200 10 = -1 ∧ doseExponent 4000 500 4 = 128 ∧ doseExponent (-400) 2500 4 = -128 ∧
    doseIncrement 500 (-16) = 250 ∧ doseIncrement 500 16 = 1000 := by
  decide

/-- A fan's entry: its input sampled low, RUNNING since sample 0. -/
def fan (running_ : Bool) : State :=
  { running with
    zones := State.reset.zones.setIfInBounds 0
      { Zone.reset with running := running_, lastEdge := some 0, readAt := some 0, level := some false } }

theorem test_witness_FanRule :
    ((fan true).inReset = false ∧ (fan true).zones[0].level = some false ∧ (fan true).zones[0].lastEdge = some 0 ∧
      (fan true).zones[0].running = true) ∧
    (0 + 50000 ≤ ({ fan true with samples := 50000 } : State).sampleAt 0 ∧
      ({ fan true with samples := 49999 } : State).sampleAt 0 < 0 + 50000) ∧
    Zone.reset.lastEdge = none ∧
    ((∀ r, (fan true).zones[0].readAt = some r → r < ({ fan true with samples := 1 } : State).sampleAt 0) ∧
      ¬(∀ r, (fan true).zones[0].readAt = some r → r < (fan true).sampleAt 0)) := by
  have h : (fan true).zones[0].readAt = some 0 := by decide +kernel
  refine ⟨by decide +kernel, by decide +kernel, rfl, fun r e => ?_, fun e => ?_⟩
  · rw [h] at e; obtain rfl := Option.some.inj e; decide +kernel
  · exact absurd (e 0 h) (by decide +kernel)

/-- R186: a tachometer is read once at each 10 us sample. -/
theorem test_one_reading_per_sample :
    ((reached (exec (.tachEdge 0 true 0) (fan true))).map fun t => t.zones[0].period) = some none ∧
    ((reached (exec (.tachEdge 0 true 2) { fan true with samples := 2 })).map fun t =>
      (t.zones[0].period, t.zones[0].readAt)) = some (some 2, some 2) := by
  decide +kernel

/-- R138, R139: an edge 799 samples after the last is class 5, at 800 class 4; across a stall the period is 50,000. -/
theorem test_fan :
    ((reached (exec (.tachEdge 0 true 799) { fan true with samples := 799 })).map fun t =>
      (t.zones[0].period, t.zones[0].airflow)) = some (some 799, 5) ∧
    ((reached (exec (.tachEdge 0 true 800) { fan true with samples := 800 })).map fun t =>
      (t.zones[0].period, t.zones[0].airflow)) = some (some 800, 4) ∧
    ((reached (exec (.tachEdge 0 true 60000) { fan false with samples := 60000 })).map fun t =>
      (t.zones[0].period, t.zones[0].airflow, t.zones[0].running)) = some (some 50000, 0, true) := by
  decide +kernel

theorem test_witness_HoldArbitration :
    (plant fresh).panel 0 = some fresh ∧ (∃ e ∈ holds98, e.reason = .spacing) ∧
    (∀ e ∈ holds98, e.reason ≠ .hostQa) ∧ 4 ≤ holds98.length ∧
    (lowestPending Params.reset mask98 holds98).map HoldEntry.reason = some .spacing ∧
    (rankOf Params.reset mask98 .hostQa).outranks (rankOf Params.reset mask98 .spacing) = true ∧
    (rankOf Params.reset emptyMask .hostQa).outranks (rankOf Params.reset emptyMask .spacing) = false ∧
    ((coating 0 0 0 ⟨0, 0⟩).bch.get .zero).served = some 21 ∧
    ((coating 0 0 0 ⟨0, 0⟩).raise .trackLost 21).governing 21 = some (newEntry .trackLost) :=
  ⟨by decide +kernel, ⟨_, List.mem_cons_self, rfl⟩, by decide, by decide, by decide, by decide, by decide,
    by decide +kernel, by decide +kernel⟩

/-- R127: TRACK_LOST, level 0, sends a COATING channel to ABORTING; HOST_QA, level 6, does not. -/
theorem test_abort :
    ((coating 0 0 0 ⟨0, 0⟩).raise .trackLost 21).bch.zero.state = .aborting ∧
    ((coating 0 0 0 ⟨0, 0⟩).raise .hostQa 21).bch.zero.state = .coating := by
  decide +kernel

theorem test_witness_TickAndResetRule :
    running.inReset = false ∧ 999 < 1000 ∧ (ResetCause.resetN 1000 = .resetN 1000 ∧ 1000 ≤ 1000) ∧
    ({ running with inReset := true } : State).inReset = true := by
  decide +kernel

/-- R185: the counter wraps at 2^32. -/
theorem test_tick :
    ((reached (exec .tick { running with tick := 0xFFFFFFFF })).map State.tick) = some 0 := by
  decide +kernel

theorem test_witness_OutputsRule :
    running.inReset = false ∧ ({ running with inReset := true } : State).inReset = true ∧
    (({ running with port := some ⟨.zero, [1]⟩ } : State).port = some ⟨.zero, [1]⟩ ∧ running.port = none) ∧
    (polling.inReset = false ∧ polling.poll.inFlight = true ∧ running.poll.inFlight = false) ∧
    ((framed .busy running).link.csn = false ∧ (framed .busy running).link.frame = some .busy ∧
      (framed .busy running).misoLine = .sending 0x01) ∧
    (running.link.csn = true ∧ running.misoLine = .highImpedance) := by
  decide +kernel

end Sys2Proof.Tests
end

section
/-! SUPPORT. What a command can do to the records, the recipes and the oven: `Evolves` says it once, as steps of a few
kinds one after another, so that an invariant is proved for the kinds of step and not for every command. -/

namespace Sys2Proof.Machine

/-! ### What the invariants of the store and the oven read -/

/-- What the invariants of the record store, of the oven and of the hold lists read of a state. -/
structure RecordView where
  slots : Vector (Option Panel) 48
  freeList : List Nat
  idMap : List (PanelId × Nat)
  recipes : Vector Recipe 16
  zones : Vector Zone 6
  staleLimit : Nat
  ambient : Int

/-- The record view of a state. -/
def State.recordView (s : State) : RecordView :=
  { slots := s.slots, freeList := s.freeList, idMap := s.idMap, recipes := s.recipes, zones := s.zones,
    staleLimit := s.params.staleLimit, ambient := s.params.ambient }

/-- The record view is left alone and the capacities of the lists are kept. -/
structure Quiet (s t : State) : Prop where
  view : t.recordView = s.recordView
  capacity : s.capacityOk → t.capacityOk

/-- A lane's lists keep their capacities (R47, R50). -/
def LaneFits (a b : LaneTrack) : Prop :=
  (a.front.length ≤ 24 → b.front.length ≤ 24) ∧ (a.oven.length ≤ 24 → b.oven.length ≤ 24) ∧
  (a.reentry.length ≤ 4 → b.reentry.length ≤ 4)

theorem Quiet.modLtk {s : State} {l : LaneNo} {f : LaneTrack → LaneTrack}
    (hf : LaneFits (s.ltk.get l) (f (s.ltk.get l))) : Quiet s (s.modLtk l f) := by
  refine ⟨rfl, fun hc => ⟨fun k => ?_, hc.2⟩⟩
  obtain ⟨h1, h2, h3, h4⟩ := hc.1 k
  simp only [State.modLtk_ltk, State.modLtk_mvf, PerLane.get_set]
  split
  · subst k; exact ⟨hf.1 h1, hf.2.1 h2, hf.2.2 h3, h4⟩
  · exact ⟨h1, h2, h3, h4⟩

theorem Quiet.modMvf {s : State} {l : LaneNo} {f : MaskLane → MaskLane}
    (hf : (s.mvf.get l).backlog ≤ 24 → (f (s.mvf.get l)).backlog ≤ 24) : Quiet s (s.modMvf l f) := by
  refine ⟨rfl, fun hc => ⟨fun k => ?_, hc.2⟩⟩
  obtain ⟨h1, h2, h3, h4⟩ := hc.1 k
  simp only [State.modMvf_ltk, State.modMvf_mvf, PerLane.get_set]
  split
  · subst k; exact ⟨h1, h2, h3, hf h4⟩
  · exact ⟨h1, h2, h3, h4⟩

theorem Quiet.modSlr {s : State} {f : StationLink → StationLink}
    (hf : s.slr.fifo.length ≤ 64 → (f s.slr).fifo.length ≤ 64) : Quiet s (s.modSlr f) :=
  ⟨rfl, fun hc => ⟨hc.1, hf hc.2⟩⟩

/-! ### The kinds of step -/

/-- What a step may make of a record's hold list: raise (R159, R160), SERVICE (R165), RELEASE (R166). -/
inductive HoldsEdit (s : State) (p : Panel) : List HoldEntry → Prop
  | same : HoldsEdit s p p.holds
  | raised (r : HoldReason) : HoldsEdit s p (p.raise s.params (s.holdMaskOf p) r).1.holds
  | served (r : HoldReason) (h : serviceable s.params (s.holdMaskOf p) p.holds r = true) :
      HoldsEdit s p (takeInService (rankOf s.params (s.holdMaskOf p) r) r p.holds)
  | released (top : HoldEntry) (h : chainTop p.holds = some top) (hf : top.reason.fixed = false) :
      HoldsEdit s p (p.holds.filter fun e => e.reason != top.reason)

/-- What a step may make of a record's cure fields: the transfer (R10), a poll (R145 to R148), a verdict (R151). -/
inductive CureEdit (s : State) : Option Cure → Option Cure → Prop
  | same (c : Option Cure) : CureEdit s c c
  | transferred (c : Option Cure) : CureEdit s c (some (cureAtTransfer s.params.ambient s.tick c))
  | updated (c : Cure) (gain i : Nat) (z : Zone) (prof : CureProfile) (hz : s.zones[i]? = some z) :
      CureEdit s (some c) (some (cureUpdate gain z.air prof s.tick c))
  | judged (c : Cure) (v : Option CureVerdict) : CureEdit s (some c) (some { c with verdict := v })

/-- A step changes a record in place: ID and recipe stay, and DONE needs a record without governing hold (R65). -/
structure PanelEdit (s : State) (p q : Panel) : Prop where
  id : q.id = p.id
  recipe : q.recipe = p.recipe
  holds : HoldsEdit s p q.holds
  cure : CureEdit s p.cure q.cure
  done : q.stage = .done → p.stage = .done ∨ s.governingPanel p = none

/-- What a step may make of a zone table entry: a poll's reply (R136), a reading of its tachometer (R138), a stall
(R139). -/
inductive ZoneEdit (s : State) (z : Zone) : Zone → Prop
  | reply (r : SensorReply) : ZoneEdit s z (applyReply s.params.staleLimit r z)
  | reading (t : Nat) (level : Bool) (h : unreadAt t z = true) : ZoneEdit s z (tachSample s.params.limits t level z)
  | stalled : ZoneEdit s z { z with airflow := 0, running := false }

/-- What every command but RETIRE, REENTER and RESET_END does: steps that leave records, recipes and oven alone,
changes of one record in place, a record created (R2), an ID stored (R4, R14), a recipe assigned (R5, R18), the parts
of a recipe no record names changed (R26), a zone entry, the stale limit (R137) or the ambient (R144) changed. -/
inductive Evolves : State → State → Prop
  | quiet {s t : State} (h : Quiet s t) : Evolves s t
  | trans {s t u : State} (h : Evolves s t) (g : Evolves t u) : Evolves s u
  | panel {s : State} {h : Nat} {p q : Panel} (hp : s.panel h = some p) (he : PanelEdit s p q) :
      Evolves s (s.setSlot h (some q))
  | create {s : State} {h : Nat} {rest : List Nat} (l : LaneNo) (hf : s.freeList = h :: rest) :
      Evolves s (s.createRecord l h rest)
  | identify {s : State} {h : Nat} {p : Panel} {id : PanelId} (hp : s.panel h = some p) (hn : p.id = none)
      (hf : s.findId id = none) : Evolves s (s.storeId h id)
  | assign {s : State} {h : Nat} {p : Panel} (r : Nat) (m : Option MaskResult) (hp : s.panel h = some p) :
      Evolves s ((s.setSlot h (some { p with recipe := some r, mask := m })).moveRefs p.recipe r)
  | parts {s : State} {r : Nat} {x y : Recipe} (hx : s.recipe r = some x) (h0 : x.refs = 0) (hy : y.refs = 0) :
      Evolves s (s.putRecipe r y)
  | zone {s : State} {i : Nat} {f : Zone → Zone} (hz : ∀ z, s.zones[i]? = some z → ZoneEdit s z (f z)) :
      Evolves s (s.modZone i f)
  | relimit {s : State} (n : Nat) (h1 : 1 ≤ n) (h5 : n ≤ 5) :
      Evolves s (s.writeParams fun p => { p with staleLimit := n }).relimitAll
  | ambient {s : State} (v : Int) (h1 : -400 ≤ v) (h2 : v ≤ 1000) :
      Evolves s (s.writeParams fun p => { p with ambient := v })

/-! ### Rules for the steps -/

theorem Evolves.refl (s : State) : Evolves s s := .quiet ⟨rfl, id⟩

/-- A change of one record that keeps ID, recipe, hold list and cure fields, and does not make it DONE. -/
theorem PanelEdit.light {s : State} {p q : Panel} (h : q.id = p.id ∧ q.recipe = p.recipe ∧ q.holds = p.holds ∧
    q.cure = p.cure) (hd : q.stage = .done → p.stage = .done) : PanelEdit s p q :=
  ⟨h.1, h.2.1, h.2.2.1 ▸ .same, h.2.2.2 ▸ .same _, fun e => .inl (hd e)⟩

theorem PanelEdit.raise (s : State) (p : Panel) (r : HoldReason) :
    PanelEdit s p (p.raise s.params (s.holdMaskOf p) r).1 := by
  refine ⟨?_, ?_, .raised r, ?_, fun h => .inl ?_⟩
  · rw [Panel.raise_frame]
  · rw [Panel.raise_frame]
  · rw [Panel.raise_frame]; exact .same _
  · rw [Panel.raise_frame] at h; exact h

theorem LaneFits.of_lists {a b : LaneTrack} (h : b.front = a.front ∧ b.oven = a.oven ∧ b.reentry = a.reentry) :
    LaneFits a b := by
  rw [LaneFits, h.1, h.2.1, h.2.2]; exact ⟨id, id, id⟩

theorem LaneFits.without (t : LaneTrack) (h : Nat) : LaneFits t (t.without h) :=
  ⟨(List.length_filter_le _ _).trans, (List.length_filter_le _ _).trans, id⟩

/-! In the rest of this file each operation is added behind steps already taken: `h` are the steps so far. -/

section
variable {s t : State} {l : LaneNo}

theorem Evolves.then_quiet {u : State} (h : Evolves s t) (hv : u.recordView = t.recordView)
    (hc : t.capacityOk → u.capacityOk) : Evolves s u := h.trans (.quiet ⟨hv, hc⟩)

theorem Evolves.modPanel {k : Nat} {f : Panel → Panel} (h : Evolves s t)
    (hf : ∀ p, t.panel k = some p → PanelEdit t p (f p)) : Evolves s (t.modPanel k f) := by
  cases e : t.panel k with
  | none => rw [State.modPanel_of_free e]; exact h
  | some p => rw [State.modPanel_of_live e]; exact h.trans (.panel e (hf p e))

/-- The usual change of one record: stage, placement and process fields other than the cure fields. -/
theorem Evolves.restage {k : Nat} {f : Panel → Panel} (h : Evolves s t)
    (hf : ∀ p, (f p).id = p.id ∧ (f p).recipe = p.recipe ∧ (f p).holds = p.holds ∧ (f p).cure = p.cure)
    (hd : ∀ p, (f p).stage = .done → p.stage = .done) : Evolves s (t.modPanel k f) :=
  h.modPanel fun p _ => .light (hf p) (hd p)

theorem Evolves.modLtk {f : LaneTrack → LaneTrack} (h : Evolves s t)
    (hf : LaneFits (t.ltk.get l) (f (t.ltk.get l))) : Evolves s (t.modLtk l f) := h.trans (.quiet (.modLtk hf))

/-- A change of a lane that keeps its lists. -/
theorem Evolves.relane {f : LaneTrack → LaneTrack} (h : Evolves s t)
    (hf : ∀ a, (f a).front = a.front ∧ (f a).oven = a.oven ∧ (f a).reentry = a.reentry) :
    Evolves s (t.modLtk l f) := h.modLtk (.of_lists (hf _))

theorem Evolves.modMvf {f : MaskLane → MaskLane} (h : Evolves s t)
    (hf : (t.mvf.get l).backlog ≤ 24 → (f (t.mvf.get l)).backlog ≤ 24) : Evolves s (t.modMvf l f) :=
  h.trans (.quiet (.modMvf hf))

theorem Evolves.modSlr {f : StationLink → StationLink} (h : Evolves s t)
    (hf : t.slr.fifo.length ≤ 64 → (f t.slr).fifo.length ≤ 64) : Evolves s (t.modSlr f) :=
  h.trans (.quiet (.modSlr hf))

theorem Evolves.modBch {f : Channel → Channel} (h : Evolves s t) : Evolves s (t.modBch l f) := h.then_quiet rfl id

theorem Evolves.modPgn {f : Generator → Generator} (h : Evolves s t) : Evolves s (t.modPgn l f) :=
  h.then_quiet rfl id

theorem Evolves.raiseFlag {g : Flag} (h : Evolves s t) : Evolves s (t.raiseFlag g) := h.then_quiet rfl id

theorem Evolves.keepLevel {k : LaneInput} {v : Bool} (h : Evolves s t) : Evolves s (t.keepLevel l k v) :=
  h.then_quiet rfl id

theorem Evolves.ite {c : Prop} [Decidable c] {u : State} (h : Evolves s t) (g : Evolves s u) :
    Evolves s (if c then t else u) := by
  split
  · exact h
  · exact g

theorem Evolves.foldl {α : Type} {f : State → α → State} {as : List α} (h : Evolves s t)
    (hf : ∀ u a, Evolves s u → Evolves s (f u a)) : Evolves s (as.foldl f t) := by
  induction as generalizing t with
  | nil => exact h
  | cons a as ih => exact ih (hf t a h)

/-! ### Holds -/

theorem Evolves.raiseQuiet {r : HoldReason} {k : Nat} (h : Evolves s t) : Evolves s (t.raiseQuiet r k) := by
  rw [State.raiseQuiet_eq]
  exact h.modPanel fun p _ => .raise t p r

theorem Evolves.askAbort (h : Evolves s t) : Evolves s (t.askAbort l) := by
  rcases t.askAbort_cases l with e | e <;> rw [e]
  · exact h
  · exact h.modBch

theorem Evolves.raise {r : HoldReason} {k : Nat} (h : Evolves s t) : Evolves s (t.raise r k) := by
  rcases (t.raiseQuiet r k).tellBooth_cases k with e | ⟨l, e⟩ <;> rw [State.raise, e]
  · exact h.raiseQuiet
  · exact h.raiseQuiet.modBch

theorem Evolves.raiseAll {r : HoldReason} {ks : List Nat} (h : Evolves s t) : Evolves s (t.raiseAll r ks) :=
  h.foldl fun _ _ hu => hu.raise

theorem Evolves.raiseEach {k : Nat} {rs : List HoldReason} (h : Evolves s t) : Evolves s (t.raiseEach k rs) :=
  h.foldl fun _ _ hu => hu.raise

/-! ### The generator and the booth channels -/

theorem Evolves.nextOrder (h : Evolves s t) : Evolves s (t.nextOrder l).1 := by
  unfold State.nextOrder
  simp only
  split; · exact h
  split; · exact h
  split; · exact h
  split; · exact h
  simp only
  exact .modPgn h

theorem Evolves.send (h : Evolves s t) : Evolves s (t.send l) := by
  unfold State.send
  split
  · exact h
  · exact h.then_quiet rfl id

theorem Evolves.offer {o : MoveOrder} (h : Evolves s t) : Evolves s (t.offer l o) := by
  unfold State.offer
  simp only
  split
  · exact .send (.modBch h)
  · exact .modBch h

theorem Evolves.portEnd (h : Evolves s t) : Evolves s t.portEnd := by
  unfold State.portEnd
  split; · exact h
  have h0 : Evolves s { t with port := none } := h.then_quiet rfl id
  simp only
  split; · exact .send h0
  split
  · exact .send h0
  · exact h0

theorem Evolves.channelIdle (h : Evolves s t) : Evolves s (t.channelIdle l) :=
  .relane (.modBch h) fun _ => ⟨rfl, rfl, rfl⟩

theorem Evolves.flashAfterPass {k : Nat} (h : Evolves s t) : Evolves s (t.flashAfterPass k) := by
  unfold State.flashAfterPass
  split; · exact h
  split; · exact h
  split
  · exact .restage h (fun _ => ⟨rfl, rfl, rfl, rfl⟩) fun _ e => by cases e
  · exact h

theorem Evolves.parkDone (h : Evolves s t) : Evolves s (t.parkDone l) := by
  unfold State.parkDone
  split
  · exact .channelIdle h
  · exact .channelIdle (.flashAfterPass h)

theorem Evolves.parkOrder (h : Evolves s t) : Evolves s (t.parkOrder l).1 := by
  simp only [State.parkOrder]
  exact .modPgn h

theorem Evolves.enterPark (h : Evolves s t) : Evolves s (t.enterPark l) := by
  unfold State.enterPark
  simp only
  split
  · exact .parkDone (.parkOrder (.modBch h))
  · exact .offer (.parkOrder (.modBch h))

theorem Evolves.askNext (h : Evolves s t) : Evolves s (t.askNext l) := by
  unfold State.askNext
  simp only
  split
  · exact .nextOrder h
  · exact .offer (.nextOrder h)

theorem Evolves.startCoat (h : Evolves s t) : Evolves s (t.startCoat l) := by
  unfold State.startCoat
  split
  · exact h
  · exact .askNext (.modBch (.modPgn (.restage h (fun _ => ⟨rfl, rfl, rfl, rfl⟩) fun _ => id)))

theorem Evolves.nextCoat (h : Evolves s t) : Evolves s (t.nextCoat l) := by
  unfold State.nextCoat
  split; · exact h
  split
  · exact .enterPark h
  · exact .startCoat h

theorem Evolves.endCoat (h : Evolves s t) : Evolves s (t.endCoat l) := by
  unfold State.endCoat
  split; · exact h
  split; · exact h
  rename_i p hp
  split; · exact h
  have h1 := h.trans (.panel hp (.light (q := { p with
      coats := modLast (fun e => { e with completed := true }) p.coats, coatsApplied := p.coatsApplied + 1 })
      ⟨rfl, rfl, rfl, rfl⟩ id))
  exact .ite (.ite (.nextCoat (.modBch (.ite (.raiseQuiet h1) h1))) (.modBch (.ite (.raiseQuiet h1) h1)))
    (.enterPark (.ite (.raiseQuiet h1) h1))

theorem Evolves.accountOrder {k : Nat} {o : MoveOrder} {flow : Nat} (h : Evolves s t) :
    Evolves s (t.accountOrder k o flow) := by
  unfold State.accountOrder
  have h1 := Evolves.ite (c := nozzleBlocked o flow) (h.raiseQuiet (r := .nozzleBlock) (k := k)) h
  exact .ite (.restage h1 (fun _ => ⟨rfl, rfl, rfl, rfl⟩) fun _ => id) h1

theorem Evolves.afterOrder {k : Nat} {o : MoveOrder} (h : Evolves s t) : Evolves s (t.afterOrder l k o) := by
  unfold State.afterOrder
  split; · exact .endCoat h
  split
  · exact .enterPark h
  · exact .askNext h

theorem Evolves.completeOrder (h : Evolves s t) : Evolves s (t.completeOrder l) := by
  unfold State.completeOrder
  simp only
  split
  · split
    · exact .afterOrder (.accountOrder (.modBch h))
    · exact .enterPark (.accountOrder (.modBch h))
    · exact .parkDone (.modBch h)
    · exact .modBch h
  · exact h

theorem Evolves.enterFault (h : Evolves s t) : Evolves s (t.enterFault l) := by
  unfold State.enterFault State.idleGenerator
  simp only
  split
  · exact .modPgn (.modBch h)
  · exact .raise (.modPgn (.modBch h))

theorem Evolves.clearBooth (h : Evolves s t) : Evolves s (t.clearBooth l) := by
  unfold State.clearBooth
  simp only
  split
  · exact .modPgn h
  · exact .channelIdle (.modBch (.modPgn h))

theorem Evolves.takeAtBooth {k : Nat} (h : Evolves s t) : Evolves s (t.takeAtBooth l k) := by
  have h1 : Evolves s ((t.modBch l fun c => { c with state := .settling, served := some k }).modLtk l
      fun t => { t with boothClaim := true }) := .relane (.modBch h) fun _ => ⟨rfl, rfl, rfl⟩
  unfold State.takeAtBooth
  simp only
  split
  · exact .enterFault h1
  · exact h1

theorem Evolves.arriveBooth {k : Nat} (h : Evolves s t) : Evolves s (t.arriveBooth l k) := by
  unfold State.arriveBooth
  split; · exact h
  split
  · split
    · exact .takeAtBooth h
    · exact .raise h
    · exact .raise h
  · exact h

theorem Evolves.settled (h : Evolves s t) : Evolves s (t.settled l) := by
  unfold State.settled
  split; · exact h
  split
  · split
    · exact .channelIdle h
    · exact .startCoat (.modBch (.restage h (fun _ => ⟨rfl, rfl, rfl, rfl⟩) fun _ e => by cases e))
  · exact h

theorem Evolves.moveDoneEdge (h : Evolves s t) : Evolves s (t.moveDoneEdge l) := by
  unfold State.moveDoneEdge
  simp only
  split
  · split
    · exact .completeOrder (.modBch h)
    · exact .modBch h
  · exact h

theorem Evolves.durationEnd (h : Evolves s t) : Evolves s (t.durationEnd l) := by
  unfold State.durationEnd
  simp only
  split; · exact h
  split
  · split
    · exact .completeOrder (.modBch h)
    · exact .modBch h
  · exact h

theorem Evolves.moveTimeoutEnd (h : Evolves s t) : Evolves s (t.moveTimeoutEnd l) := by
  unfold State.moveTimeoutEnd
  simp only
  split; · exact h
  split
  · exact .enterFault h
  · exact h

theorem Evolves.gantryErrSample {level : Bool} (h : Evolves s t) : Evolves s (t.gantryErrSample l level) := by
  unfold State.gantryErrSample
  simp only
  split
  · exact .enterFault (.keepLevel h)
  · exact .keepLevel h

theorem Evolves.countPulse (h : Evolves s t) : Evolves s (t.countPulse l) := by
  unfold State.countPulse
  simp only
  split; · exact h
  split
  · exact .modBch h
  · exact h

theorem Evolves.recoatEnd (h : Evolves s t) : Evolves s (t.recoatEnd l) := by
  unfold State.recoatEnd
  split
  · exact .nextCoat (.modBch h)
  · exact h

/-! ### The mask verifier -/

theorem Evolves.leaveInspecting {k : Nat} (h : Evolves s t) : Evolves s (t.leaveInspecting l k) := h.modMvf id

theorem Evolves.endWindow {k : Nat} (h : Evolves s t) : Evolves s (t.endWindow k) := by
  unfold State.endWindow
  split
  · exact h
  · exact .raise (.restage (.leaveInspecting h) (fun _ => ⟨rfl, rfl, rfl, rfl⟩) fun _ e => by cases e)

theorem State.endWindow_backlog (s : State) (l : LaneNo) (k : Nat) :
    ((s.endWindow k).mvf.get l).backlog = (s.mvf.get l).backlog := by
  unfold State.endWindow
  split
  · rfl
  · rw [State.raise_frame]
    simp only [State.modPanel_mvf, State.leaveInspecting, State.modMvf_mvf, PerLane.get_set]
    split
    · subst l; rfl
    · rfl

theorem Evolves.owePulse (h : Evolves s t) (hb : (t.mvf.get l).backlog ≠ 24) : Evolves s (t.owePulse l) := by
  refine .modMvf h fun hle => ?_
  split
  · exact hle
  · show (t.mvf.get l).backlog + 1 ≤ 24
    omega

theorem Evolves.reuseTag (h : Evolves s t) : Evolves s (t.reuseTag l) := by
  unfold State.reuseTag
  split
  · exact h
  · exact .endWindow h

theorem State.reuseTag_backlog (s : State) (l : LaneNo) :
    ((s.reuseTag l).mvf.get l).backlog = (s.mvf.get l).backlog := by
  unfold State.reuseTag
  split
  · rfl
  · exact s.endWindow_backlog l _

theorem Evolves.trigger {k : Nat} (h : Evolves s t) (hb : (t.mvf.get l).backlog ≠ 24) :
    Evolves s (t.trigger l k) := by
  refine .owePulse (.modMvf (.restage (.reuseTag h) (fun _ => ⟨rfl, rfl, rfl, rfl⟩) fun _ e => by cases e) id) ?_
  simpa [State.reuseTag_backlog] using hb

theorem Evolves.maskStation {k : Nat} (h : Evolves s t) : Evolves s (t.maskStation l k) := by
  unfold State.maskStation
  split; · exact h
  split
  · exact .restage h (fun _ => ⟨rfl, rfl, rfl, rfl⟩) fun _ e => by cases e
  · split
    · exact .raise (.restage h (fun _ => ⟨rfl, rfl, rfl, rfl⟩) fun _ e => by cases e)
    · exact .trigger h ‹_›

theorem Evolves.raiseOpt {r : Option HoldReason} {k : Nat} (h : Evolves s t) : Evolves s (t.raiseOpt r k) := by
  unfold State.raiseOpt
  split
  · exact h
  · exact .raise h

theorem Evolves.applyReport {k : Nat} {pairs : List (Nat × ZoneStatus)} (h : Evolves s t) :
    Evolves s (t.applyReport k pairs) := by
  unfold State.applyReport
  split
  · exact h
  · refine .restage (.leaveInspecting (.raiseOpt ?_)) (fun _ => ⟨rfl, rfl, rfl, rfl⟩) fun _ e => by cases e
    exact .restage h (fun _ => ⟨rfl, rfl, rfl, rfl⟩) fun _ => id

theorem Evolves.resumeAssembler (h : Evolves s t) : Evolves s t.resumeAssembler := h.then_quiet rfl id

theorem Evolves.takeReport (h : Evolves s t) : Evolves s t.takeReport := by
  unfold State.takeReport
  split
  · unfold State.acceptReport
    split
    · exact .raiseFlag (.resumeAssembler h)
    · exact .applyReport (.resumeAssembler h)
  · exact h

theorem Evolves.trigPulseEnd (h : Evolves s t) : Evolves s (t.trigPulseEnd l) := by
  unfold State.trigPulseEnd
  split
  · split
    · exact .modMvf h id
    · exact h
  · exact h

theorem Evolves.trigRecoveryEnd (h : Evolves s t) : Evolves s (t.trigRecoveryEnd l) := by
  unfold State.trigRecoveryEnd
  split
  · split
    · refine .modMvf h fun hb => ?_
      split
      · exact (Nat.sub_le _ _).trans hb
      · exact hb
    · exact h
  · exact h

theorem Evolves.windowTimeout {k : Nat} (h : Evolves s t) : Evolves s (t.windowTimeout k) := by
  unfold State.windowTimeout
  split; · exact h
  split
  · exact .endWindow h
  · exact h

/-! ### The oven -/

theorem Evolves.alarmIfInvalid {before : ZoneState} {i : Nat} (h : Evolves s t) :
    Evolves s (t.alarmIfInvalid before i) := by
  unfold State.alarmIfInvalid
  split; · exact h
  split
  · exact .raiseFlag h
  · exact h

theorem Evolves.applyReplyAt {r : SensorReply} {i : Nat} (h : Evolves s t) : Evolves s (t.applyReplyAt r i) := by
  unfold State.applyReplyAt
  split
  · exact h
  · exact .alarmIfInvalid (h.trans (.zone fun z _ => .reply r))

theorem Evolves.applyReplies {rs : Vector SensorReply 6} (h : Evolves s t) : Evolves s (t.applyReplies rs) :=
  .applyReplyAt (.applyReplyAt (.applyReplyAt (.applyReplyAt (.applyReplyAt (.applyReplyAt h)))))

theorem Evolves.readTach {i : Nat} {level : Bool} {n : Nat} (h : Evolves s t) :
    Evolves s (t.readTach i level n) := by
  unfold State.readTach
  split; · exact h
  rename_i z hz
  split
  · have h1 : Evolves s (t.atSample n) := h.then_quiet rfl id
    refine h1.trans (.zone fun x hx => ?_)
    obtain rfl : z = x := Option.some.inj (hz.symm.trans hx)
    exact .reading n level ‹_›
  · exact h

theorem Evolves.stallAt {i n : Nat} (h : Evolves s t) : Evolves s (t.stallAt i n) := by
  unfold State.stallAt
  split; · exact h
  split
  · exact .raiseFlag (h.trans (.zone fun z _ => .stalled))
  · exact h

/-- What the panel update reads of the zone table is an entry of it (R143). -/
theorem State.curingInputs_zone {s : State} {p : Panel} {z : Zone} {b : Body} {prof : CureProfile} {c : Cure}
    (h : s.curingInputs p = some (z, b, prof, c)) : p.cure = some c ∧ ∃ i : Nat, s.zones[i]? = some z := by
  unfold State.curingInputs at h
  split at h
  · split at h
    · rename_i hz
      obtain ⟨i, -, hi⟩ := Option.bind_eq_some_iff.1 hz
      cases h
      exact ⟨‹_›, i, hi⟩
    · cases h
  · cases h

theorem Evolves.updateCuring {k : Nat} (h : Evolves s t) : Evolves s (t.updateCuring k) := by
  unfold State.updateCuring
  split; · exact h
  rename_i p hp
  split; · exact h
  rename_i z b prof c hin
  obtain ⟨hc, i, hz⟩ := State.curingInputs_zone hin
  refine .raiseEach (.modPanel h fun p' hp' => ?_)
  obtain rfl : p = p' := Option.some.inj (hp.symm.trans hp')
  exact ⟨rfl, rfl, .same, hc ▸ .updated c _ i z prof hz, .inl⟩

theorem Evolves.completePoll {rs : Vector SensorReply 6} (h : Evolves s t) : Evolves s (t.completePoll rs) := by
  unfold State.completePoll
  split
  · exact .foldl (.applyReplies (h.then_quiet rfl id)) fun _ _ hu => hu.updateCuring
  · exact h

theorem Evolves.exitDecision {k : Nat} (h : Evolves s t) : Evolves s (t.exitDecision k) := by
  unfold State.exitDecision
  split; · exact h
  rename_i p hp
  split
  · rename_i c prof hc _
    split
    · exact h.trans (.panel hp ⟨rfl, rfl, .same, hc ▸ .judged c _, .inl⟩)
    · exact .raise (h.trans (.panel hp ⟨rfl, rfl, .same, hc ▸ .judged c _, .inl⟩))
  · exact h

/-! ### The lane tracker -/

theorem Evolves.faultCause (h : Evolves s t) : Evolves s (t.faultCause l) := by
  unfold State.faultCause
  simp only
  split
  · exact .raiseAll (.relane (.raiseFlag h) fun _ => ⟨rfl, rfl, rfl⟩)
  · exact .raiseFlag h

theorem Evolves.divert {g : DivertGate} {k : Nat} (h : Evolves s t) : Evolves s (t.divert l g k) := by
  refine .restage (.modLtk h ?_) (fun _ => ⟨rfl, rfl, rfl, rfl⟩) fun _ e => by cases e
  have := LaneFits.without (t.ltk.get l) k
  cases g <;> exact this

theorem Evolves.checkPlacement {k : Nat} {tail : Option Nat} (h : Evolves s t) :
    Evolves s (t.checkPlacement l k tail) := by
  unfold State.checkPlacement
  have h1 := Evolves.ite (c := t.closeBehind tail) (h.raise (r := .spacing) (k := k)) h
  exact .ite (.raise h1) h1

theorem Evolves.placeFront {k : Nat} (h : Evolves s t) (hl : (t.ltk.get l).front.length < 24) :
    Evolves s (t.placeFront l k) := by
  refine .checkPlacement (.restage (.modLtk h ⟨fun _ => ?_, id, id⟩) (fun _ => ⟨rfl, rfl, rfl, rfl⟩)
    fun _ e => by cases e)
  simp only [List.length_append, List.length_singleton]
  omega

theorem Evolves.entryEdge (h : Evolves s t) : Evolves s (t.entryEdge l) := by
  unfold State.entryEdge
  simp only
  split; · exact h
  split; · exact .faultCause h
  have hlen : (t.ltk.get l).front.length < 24 := by omega
  split
  · rename_i hre
    refine .placeFront (.modLtk h ⟨id, id, fun hb => ?_⟩) (by simpa using hlen)
    rw [hre] at hb
    exact (Nat.le_succ _).trans hb
  · split
    · rename_i hf
      split
      · exact .placeFront (h.trans (.create l hf)) hlen
      · exact .faultCause h
    · exact .faultCause h

theorem Evolves.leaveEntered {k : Nat} (h : Evolves s t) : Evolves s (t.leaveEntered k) := by
  refine .restage h (fun _ => ⟨rfl, rfl, rfl, rfl⟩) fun p e => ?_
  simp only [admittedStage] at e
  split at e <;> cases e

theorem Evolves.bindRead {k : Nat} {p : Panel} {i : PanelId} (h : Evolves s t) (hp : t.panel k = some p) :
    Evolves s (t.bindRead k p i) := by
  unfold State.bindRead
  split
  · split
    · exact h
    · exact .raise h
  · split
    · exact .raise h
    · rename_i hn hf
      refine .restage (h.trans (.identify hp hn ?_)) (fun _ => ⟨rfl, rfl, rfl, rfl⟩) fun _ => id
      simpa using hf

theorem Evolves.takeRead (h : Evolves s t) : Evolves s t.takeRead := by
  unfold State.takeRead
  split
  · unfold State.acceptRead
    split; · exact .raiseFlag (.resumeAssembler h)
    split
    · exact .resumeAssembler h
    · exact .leaveEntered (.bindRead (.resumeAssembler h) ‹_›)
  · exact h

theorem Evolves.closeIdWindow {k : Nat} (h : Evolves s t) : Evolves s (t.closeIdWindow k) := by
  unfold State.closeIdWindow
  split; · exact h
  split
  · simp only
    split
    · exact .raise (.leaveEntered h)
    · exact .leaveEntered h
  · exact h

theorem Evolves.arriveMask {k : Nat} (h : Evolves s t) : Evolves s (t.arriveMask l k) := by
  unfold State.arriveMask
  split; · exact h
  rename_i p hp
  split
  · split
    · exact .maskStation h
    · rename_i hn
      split
      · rename_i r _
        have ha := Evolves.assign r p.mask hp
        rw [hn] at ha
        rw [State.modPanel_of_live hp]
        exact .maskStation (h.trans ha)
      · exact .raise h
  · exact h

theorem Evolves.arriveDivertA {k : Nat} (h : Evolves s t) : Evolves s (t.arriveDivertA l k) := by
  have h1 : Evolves s (t.endOpenWindow k) := by
    unfold State.endOpenWindow
    split; · exact h
    split
    · exact .endWindow h
    · exact h
  unfold State.arriveDivertA
  simp only
  split
  · exact .divert h1
  · exact h1

theorem Evolves.arriveDivertB {k : Nat} (h : Evolves s t) : Evolves s (t.arriveDivertB l k) := by
  unfold State.arriveDivertB
  split; · exact h
  split; · exact .faultCause h
  split
  · exact .divert h
  · exact h

theorem Evolves.arriveFlash {k : Nat} (h : Evolves s t) : Evolves s (t.arriveFlash l k) := by
  unfold State.arriveFlash
  split; · exact h
  split; · exact h
  split
  · exact .relane h fun _ => ⟨rfl, rfl, rfl⟩
  · exact h

theorem Evolves.arriveOvenOut {k : Nat} (h : Evolves s t) : Evolves s (t.arriveOvenOut k) := by
  unfold State.arriveOvenOut
  split; · exact h
  split
  · exact .restage (.exitDecision h) (fun _ => ⟨rfl, rfl, rfl, rfl⟩) fun _ e => by cases e
  · exact h

theorem Evolves.arrive {a : StationNo × Nat} (h : Evolves s t) : Evolves s (t.arrive l a) := by
  obtain ⟨st, k⟩ := a
  cases st with
  | idWindow => exact h.closeIdWindow
  | mask => exact h.arriveMask
  | divertA => exact h.arriveDivertA
  | booth => exact h.arriveBooth
  | divertB => exact h.arriveDivertB
  | flashApproach => exact h.arriveFlash
  | ovenOut => exact h.arriveOvenOut
  | missedTransfer =>
    simp only [State.arrive, State.missTransfer]
    split
    · exact .faultCause h
    · exact h
  | missedUnload =>
    simp only [State.arrive, State.missUnload]
    split
    · exact .faultCause h
    · exact h

theorem Evolves.count {sec : LineSection} (h : Evolves s t) : Evolves s (t.count l sec) := by
  unfold State.count
  split; · exact h
  have h1 : Evolves s (t.restartQuiet l sec) := by
    cases sec with
    | front =>
      unfold State.restartQuiet
      exact .relane h fun _ => ⟨rfl, rfl, rfl⟩
    | oven => exact h
  have h2 : Evolves s { t.restartQuiet l sec with free := t.free + 1 } := h1.then_quiet rfl id
  exact .foldl (.foldl h2 fun _ _ hu => .restage hu (fun _ => ⟨rfl, rfl, rfl, rfl⟩) fun _ => id)
    fun _ _ hu => hu.arrive

theorem Evolves.quietEnd (h : Evolves s t) : Evolves s (t.quietEnd l) := by
  unfold State.quietEnd
  split
  · exact .settled (.relane h fun _ => ⟨rfl, rfl, rfl⟩)
  · exact h

theorem Evolves.claimEnd (h : Evolves s t) : Evolves s (t.claimEnd l) := by
  unfold State.claimEnd
  split
  · exact .relane h fun _ => ⟨rfl, rfl, rfl⟩
  · exact h

theorem Evolves.pulseEnd {g : DivertGate} (h : Evolves s t) : Evolves s (t.pulseEnd l g) := by
  unfold State.pulseEnd
  split
  · exact .relane h fun _ => by cases g <;> exact ⟨rfl, rfl, rfl⟩
  · exact h

theorem Evolves.transfer {k : Nat} {rest : List Nat} (h : Evolves s t) (hf : (t.ltk.get l).front = k :: rest)
    (ho : (t.ltk.get l).oven.length < 24) : Evolves s (t.transfer l k rest) := by
  have h1 : LaneFits (t.ltk.get l) { t.ltk.get l with front := rest, oven := (t.ltk.get l).oven ++ [k] } := by
    refine ⟨fun hb => ?_, fun _ => ?_, id⟩
    · rw [hf] at hb; exact (Nat.le_succ _).trans hb
    · simp only [List.length_append, List.length_singleton]; omega
  have h2 : Evolves s ((t.modLtk l fun a => { a with front := rest, oven := a.oven ++ [k] }).modPanel k
      (transferred t.params.ambient t.tick)) :=
    .modPanel (.modLtk h h1) fun p _ => ⟨rfl, rfl, .same, .transferred _, fun e => by cases e⟩
  unfold State.transfer
  simp only
  split
  · exact .raise h2
  · exact h2

theorem Evolves.ovenEdge (h : Evolves s t) : Evolves s (t.ovenEdge l) := by
  unfold State.ovenEdge
  split; · exact h
  split
  · exact .faultCause h
  · rename_i hf
    split
    · rename_i ht
      simp only [State.transferable, Bool.and_eq_true, decide_eq_true_eq] at ht
      exact .transfer h hf ht.2
    · exact .faultCause h

theorem Evolves.unloadEdge (h : Evolves s t) : Evolves s (t.unloadEdge l) := by
  unfold State.unloadEdge
  split; · exact h
  split; · exact .faultCause h
  split
  · rename_i p pos hp _
    split
    · split
      · rename_i hm
        simp only [State.mayFinish, Bool.and_eq_true, Option.isNone_iff_eq_none] at hm
        refine .modPanel (.modLtk h ⟨id, (List.length_filter_le _ _).trans, id⟩) fun p' hp' => ?_
        obtain rfl : p = p' := Option.some.inj (hp.symm.trans hp')
        exact ⟨rfl, rfl, .same, .same _, fun _ => .inr hm.2⟩
      · exact .divert h
    · exact .faultCause h
  · exact .faultCause h

end

end Sys2Proof.Machine
end

section
/-! SUPPORT. What a command can do to the records, the recipes and the oven: the station link, the requests and
`exec`. `exec_cases` is the one case distinction over the commands that the invariants of the store are proved from. -/

namespace Sys2Proof.Machine

section
variable {s t : State} {l : LaneNo}

/-! ### The station link -/

theorem offerByte_fits (b : Byte) (e g : Bool) {r : StationLink} (h : r.fifo.length ≤ 64) :
    (offerByte b e g r).fifo.length ≤ 64 := by
  unfold offerByte
  split
  · simp only [List.length_append, List.length_singleton]; omega
  · exact h

theorem endCharacter_fits (start : Bool) (data : DataSamples) (stop : Bool) {r : StationLink}
    (h : r.fifo.length ≤ 64) : (endCharacter start data stop r).fifo.length ≤ 64 := by
  unfold endCharacter
  split
  · split
    · exact h
    · exact offerByte_fits _ _ _ h
  · exact h

theorem rxdChange_fifo (level : Bool) (r : StationLink) : (rxdChange level r).fifo = r.fifo := by
  unfold rxdChange
  split; · rfl
  split
  · split <;> rfl
  · rfl

theorem endBreak_fifo (r : StationLink) : (endBreak r).fifo = r.fifo := by
  unfold endBreak
  split
  · split <;> rfl
  · rfl

theorem dropFrame_fifo (r : StationLink) : (dropFrame r).fifo = r.fifo := by
  unfold dropFrame
  split <;> rfl

theorem Evolves.enterBreak (h : Evolves s t) : Evolves s t.enterBreak := by
  unfold State.enterBreak
  split
  · exact .raiseFlag (.modSlr h fun _ => Nat.zero_le _)
  · exact h

theorem Evolves.abandonIfQuiet (h : Evolves s t) : Evolves s t.abandonIfQuiet := by
  unfold State.abandonIfQuiet
  split
  · exact .raiseFlag (.modSlr h fun hf => (dropFrame_fifo t.slr).symm ▸ hf)
  · exact h

theorem Evolves.lineQuiet (h : Evolves s t) : Evolves s t.lineQuiet := by
  unfold State.lineQuiet
  split
  · exact .abandonIfQuiet (.modSlr h id)
  · exact h

theorem Evolves.assemble (h : Evolves s t) : Evolves s t.assemble := by
  unfold State.assemble
  split; · exact h
  rename_i e rest hf
  split
  · have h1 : Evolves s (t.modSlr fun x => { x with fifo := rest, asm := (takeByte t.mode e t.slr.asm).1 }) :=
      .modSlr h fun hl => (Nat.le_succ _).trans (by rw [hf] at hl; exact hl)
    exact .abandonIfQuiet (.ite (.raiseFlag h1) h1)
  · exact h

/-! ### Parameters -/

theorem Evolves.answer {data : List Byte} (h : Evolves s t) : Evolves s (t.answer data).1 := h


theorem Evolves.setParam {modes : ParamModes} {valid : Bool} {write : State → State} (h : Evolves s t)
    (hw : valid = true → Evolves s (write t)) : Evolves s (t.setParam modes valid write).1 := by
  unfold State.setParam
  split; · exact h
  split
  · exact hw ‹_›
  · exact h

/-- A parameter other than the stale limit and the ambient. -/
theorem Evolves.writeParams {f : Params → Params} (h : Evolves s t)
    (hf : ∀ p, (f p).staleLimit = p.staleLimit ∧ (f p).ambient = p.ambient) : Evolves s (t.writeParams f) := by
  refine h.then_quiet ?_ id
  simp only [State.recordView, State.writeParams, hf]

theorem Params.withDefault_rest (lane : Nat) (r : Option Nat) (p : Params) :
    (p.withDefault lane r).staleLimit = p.staleLimit ∧ (p.withDefault lane r).ambient = p.ambient := by
  unfold Params.withDefault
  split <;> exact ⟨rfl, rfl⟩

theorem Evolves.writeBaud {rate : Nat} (h : Evolves s t) : Evolves s (t.writeBaud rate) := by
  unfold State.writeBaud
  split
  · exact h
  · exact .modSlr (.writeParams h fun _ => ⟨rfl, rfl⟩) fun _ => Nat.zero_le _

theorem inRange_iff (a b v : Int) : inRange a b v = true ↔ a ≤ v ∧ v ≤ b := by simp [inRange]

theorem Evolves.serveSetParamStaleLimit {v : Int} (h : Evolves s t) : Evolves s (serveSetParamStaleLimit v t).1 := by
  refine .setParam h fun hv => h.trans (.relimit v.toNat ?_ ?_) <;>
  · obtain ⟨h1, h5⟩ := (inRange_iff _ _ _).1 hv
    omega

theorem Evolves.serveSetParamAmbient {v : Int} (h : Evolves s t) : Evolves s (serveSetParamAmbient v t).1 :=
  .setParam h fun hv => h.trans (.ambient v ((inRange_iff _ _ _).1 hv).1 ((inRange_iff _ _ _).1 hv).2)

/-! ### Recipes -/

theorem Evolves.withFreeRecipe {r : Nat} {f : Recipe → State × Response} (h : Evolves s t)
    (hf : ∀ x, t.recipe r = some x → x.refs = 0 → Evolves s (f x).1) : Evolves s (t.withFreeRecipe r f).1 := by
  unfold State.withFreeRecipe
  split; · exact h
  rename_i x hx
  split
  · exact h
  · exact hf x hx (by omega)

theorem Evolves.editParts {r : Nat} {x : Recipe} {f : Recipe → Recipe} (h : Evolves s t) (hx : t.recipe r = some x)
    (h0 : x.refs = 0) (hf : (f x).refs = x.refs) : Evolves s (t.modRecipe r f) := by
  rw [State.modRecipe_of_some hx]
  exact h.trans (.parts hx h0 (hf.trans h0))

theorem Evolves.serveDefineRecipe {r : Nat} {f : RecipeFields} (h : Evolves s t) :
    Evolves s (serveDefineRecipe r f t).1 := by
  refine .withFreeRecipe h fun x hx h0 => ?_
  split
  · exact .editParts h hx h0 rfl
  · exact h

theorem Evolves.serveSetMaskZone {r zone crit x0 y0 x1 y1 : Nat} (h : Evolves s t) :
    Evolves s (serveSetMaskZone r zone crit x0 y0 x1 y1 t).1 := by
  refine .withFreeRecipe h fun x hx h0 => ?_
  split
  · exact .editParts h hx h0 rfl
  · exact h

theorem Evolves.serveClearMaskZone {r zone : Nat} (h : Evolves s t) : Evolves s (serveClearMaskZone r zone t).1 := by
  refine .withFreeRecipe h fun x hx h0 => ?_
  split; · exact h
  split
  · exact .editParts h hx h0 rfl
  · exact h

theorem Evolves.serveSetCureProfile {r : Nat} {f : CureFields} (h : Evolves s t) :
    Evolves s (serveSetCureProfile r f t).1 := by
  refine .withFreeRecipe h fun x hx h0 => ?_
  split
  · exact .editParts h hx h0 rfl
  · exact h

theorem Evolves.serveWriteSegment {i x0 y0 x1 y1 v o : Nat} (h : Evolves s t) :
    Evolves s (serveWriteSegment i x0 y0 x1 y1 v o t).1 := by
  unfold Machine.serveWriteSegment
  simp only
  split; · exact h
  split; · exact h
  split; · exact h
  split; · exact h
  split; · exact h
  exact h.then_quiet rfl id

/-! ### Records and holds -/

theorem Evolves.serveAssignRecipe {k r : Nat} (h : Evolves s t) : Evolves s (serveAssignRecipe k r t).1 := by
  unfold Machine.serveAssignRecipe
  split; · exact h
  rename_i p hp
  split; · exact h
  split; · exact h
  split; · exact h
  have hw : withRecipe r p = { p with recipe := some r, mask := (withRecipe r p).mask } := by
    unfold withRecipe
    split
    · rename_i hr; rw [← hr]
    · rfl
  rw [State.modPanel_of_live hp, hw]
  exact h.trans (.assign r _ hp)

theorem Evolves.serveBindId {k : Nat} {i : PanelId} (h : Evolves s t) : Evolves s (serveBindId k i t).1 := by
  unfold Machine.serveBindId
  split; · exact h
  rename_i p hp
  split; · exact h
  split; · exact h
  rename_i hn
  split; · exact h
  rename_i hf
  refine h.trans (.identify hp ?_ ?_)
  · simp only [Bool.or_eq_true, not_or] at hn; simpa using hn.2
  · simpa using hf

theorem Evolves.serveNextNotice (h : Evolves s t) : Evolves s (serveNextNotice t).1 := by
  unfold Machine.serveNextNotice
  split; · exact h
  split; · exact h
  exact .restage h (fun _ => ⟨rfl, rfl, rfl, rfl⟩) fun _ => id

theorem Evolves.serveHold {k r : Nat} (h : Evolves s t) : Evolves s (serveHold k r t).1 := by
  unfold Machine.serveHold
  split; · exact h
  split
  · exact .raise h
  · exact h

theorem Evolves.serveService {k r : Nat} (h : Evolves s t) : Evolves s (serveService k r t).1 := by
  unfold Machine.serveService
  split; · exact h
  rename_i p hp
  split; · exact h
  rename_i reason _
  split; · exact h
  split; · exact h
  split; · exact h
  rename_i hs
  refine .modPanel h fun q hq => ?_
  obtain rfl : p = q := Option.some.inj (hp.symm.trans hq)
  exact ⟨rfl, rfl, .served reason (by simpa using hs), .same _, .inl⟩

theorem Evolves.serveRelease {k : Nat} (h : Evolves s t) : Evolves s (serveRelease k t).1 := by
  unfold Machine.serveRelease
  split; · exact h
  rename_i p hp
  split; · exact h
  split; · exact h
  rename_i top htop
  split; · exact h
  rename_i hfix
  refine .modPanel h fun q hq => ?_
  obtain rfl : p = q := Option.some.inj (hp.symm.trans hq)
  exact ⟨rfl, rfl, .released top htop (by simpa using hfix), .same _, .inl⟩

theorem Evolves.serveWaiveMask {k : Nat} (h : Evolves s t) : Evolves s (serveWaiveMask k t).1 := by
  unfold Machine.serveWaiveMask
  split; · exact h
  split; · exact h
  split
  · exact .restage h (fun _ => ⟨rfl, rfl, rfl, rfl⟩) fun _ => id
  · exact h

theorem Evolves.serveWithdraw {k : Nat} (h : Evolves s t) : Evolves s (serveWithdraw k t).1 := by
  unfold Machine.serveWithdraw
  split; · exact h
  split
  · exact .restage (.modLtk h ⟨id, id, (List.length_filter_le _ _).trans⟩) (fun _ => ⟨rfl, rfl, rfl, rfl⟩)
      fun _ e => by cases e
  · exact h

/-! ### Lanes and channels -/

theorem Evolves.parkQueued (h : Evolves s t) : Evolves s (t.parkQueued l) := by
  refine .modLtk (.foldl h fun _ _ hu => ?_) ⟨fun _ => Nat.zero_le _, fun _ => Nat.zero_le _, id⟩
  exact .restage hu (fun _ => ⟨rfl, rfl, rfl, rfl⟩) fun _ e => by cases e

theorem Evolves.clearInspecting (h : Evolves s t) : Evolves s (t.clearInspecting l) :=
  .modMvf (.foldl h fun _ _ hu => .restage hu (fun _ => ⟨rfl, rfl, rfl, rfl⟩) fun _ => id) id

theorem Evolves.serveClearLane {lane : Nat} (h : Evolves s t) : Evolves s (serveClearLane lane t).1 := by
  unfold Machine.serveClearLane
  split; · exact h
  split
  · exact .answer <| .relane (.clearBooth (.clearInspecting (.parkQueued h))) fun _ => ⟨rfl, rfl, rfl⟩
  · exact h

theorem Evolves.serveResetBooth {lane : Nat} (h : Evolves s t) : Evolves s (serveResetBooth lane t).1 := by
  unfold Machine.serveResetBooth
  split; · exact h
  split
  · exact .answer <| .modPgn (.channelIdle h)
  · exact h

theorem Evolves.serveResyncTag {lane : Nat} (h : Evolves s t) : Evolves s (serveResyncTag lane t).1 := by
  unfold Machine.serveResyncTag
  split; · exact h
  split
  · exact .answer <| .modMvf h id
  · exact h

theorem Evolves.serveStartLine (h : Evolves s t) : Evolves s (serveStartLine t).1 := by
  unfold Machine.serveStartLine
  split; · exact h
  split; · exact h
  exact .answer <| .relane (.relane (h.then_quiet rfl id) fun _ => ⟨rfl, rfl, rfl⟩) fun _ => ⟨rfl, rfl, rfl⟩

theorem Evolves.serveStopLine (h : Evolves s t) : Evolves s (serveStopLine t).1 := by
  unfold Machine.serveStopLine
  split; · exact h
  split
  · exact .answer <| .relane (.relane (h.then_quiet rfl id) fun _ => ⟨rfl, rfl, rfl⟩) fun _ => ⟨rfl, rfl, rfl⟩
  · exact h

end

/-! ### Every request -/

/-- Every request but RETIRE and REENTER. -/
theorem serve_cases (c : Instr) (s : State) :
    Evolves s (serve c s).1 ∨ (∃ h d, c = .retire h d) ∨ ∃ h l p, c = .reenter h l p := by
  have hs := Evolves.refl s
  cases c with
  | retire h d => exact .inr (.inl ⟨h, d, rfl⟩)
  | reenter h l p => exact .inr (.inr ⟨h, l, p, rfl⟩)
  | lineStatus => exact .inl (hs.then_quiet rfl id)
  | startLine => exact .inl hs.serveStartLine
  | stopLine => exact .inl hs.serveStopLine
  | clearLane l => exact .inl hs.serveClearLane
  | resetBooth l => exact .inl hs.serveResetBooth
  | resyncTag l => exact .inl hs.serveResyncTag
  | defineRecipe r f => exact .inl hs.serveDefineRecipe
  | setMaskZone r z c x0 y0 x1 y1 => exact .inl hs.serveSetMaskZone
  | clearMaskZone r z => exact .inl hs.serveClearMaskZone
  | setCureProfile r f => exact .inl hs.serveSetCureProfile
  | eraseRecipe r => exact .inl (hs.withFreeRecipe fun x hx h0 => .editParts hs hx h0 rfl)
  | readRecipe r p => exact .inl ((serveReadRecipe_fst r p s).symm ▸ hs)
  | writeSegment i x0 y0 x1 y1 v o => exact .inl hs.serveWriteSegment
  | readSegment i => exact .inl ((serveReadSegment_fst i s).symm ▸ hs)
  | find id => exact .inl ((serveFind_fst id s).symm ▸ hs)
  | readPanel h p => exact .inl ((serveReadPanel_fst h p s).symm ▸ hs)
  | assignRecipe h r => exact .inl hs.serveAssignRecipe
  | bindId h id => exact .inl hs.serveBindId
  | nextNotice => exact .inl hs.serveNextNotice
  | hold h r => exact .inl hs.serveHold
  | service h r => exact .inl hs.serveService
  | release h => exact .inl hs.serveRelease
  | waiveMask h => exact .inl hs.serveWaiveMask
  | withdraw h => exact .inl hs.serveWithdraw
  | setParamDefaultRecipe l v =>
    exact .inl (hs.setParam fun _ => hs.writeParams fun p => p.withDefault_rest l (defaultRecipeOf v))
  | setParamBaudRate v => exact .inl (hs.setParam fun _ => hs.writeBaud)
  | setParamAbortLevel v =>
    exact .inl (hs.setParam fun _ => .askAbort (.askAbort (hs.writeParams fun _ => ⟨rfl, rfl⟩)))
  | setParamStaleLimit v => exact .inl hs.serveSetParamStaleLimit
  | setParamAmbient v => exact .inl hs.serveSetParamAmbient
  | setParamStationOffset | setParamEyeTolerance | setParamDivertPulse | setParamMinimumGap | setParamSettleTime
  | setParamEntryReserve | setParamInspectTimeout | setParamTraverseSpeed | setParamSamplePeriod
  | setParamClassLimits | setParamGainEntry | setParamReasonLevel =>
    exact .inl (hs.setParam fun _ => hs.writeParams fun _ => ⟨rfl, rfl⟩)
  | _ => exact .inl hs

/-! ### Every command -/

/-- The command carries out the request: it is the request's own row, or PROCESSING_COMPLETE with the request in the
buffer (R176, log 4). -/
def CarriesOut (c : Instr) (s : State) (r : Instr) : Prop :=
  c = r ∨ (c = .processingComplete ∧ ∃ b, s.link.request = some b ∧ decodeRequest b = .request r)

/-- All that a command can do to the records, the recipes and the oven. -/
def RecordsAfter (c : Instr) (s t : State) : Prop :=
  Evolves s t ∨
  (∃ h d, CarriesOut c s (.retire h d) ∧ Quiet (serveRetire h d s).1 t) ∨
  (∃ h l p, CarriesOut c s (.reenter h l p) ∧ Quiet (serveReenter h l p s).1 t) ∨
  (c = .resetEnd ∧ t = s.endReset)

/-- A change of the line link alone. -/
theorem Quiet.relink (s : State) (k : LineLink) : Quiet s { s with link := k } := ⟨rfl, id⟩

theorem recordsAfter_of_serve {c r : Instr} {s : State} (hc : CarriesOut c s r) (k : LineLink) :
    RecordsAfter c s { (serve r s).1 with link := k } := by
  rcases serve_cases r s with he | ⟨h, d, rfl⟩ | ⟨h, l, p, rfl⟩
  · exact .inl (he.trans (.quiet (.relink _ _)))
  · exact .inr (.inl ⟨h, d, hc, .relink _ _⟩)
  · exact .inr (.inr (.inl ⟨h, l, p, hc, .relink _ _⟩))

/-- A request row acts when its request is in process, and does nothing otherwise. -/
theorem recordsAfter_of_request {c : Instr} {s t : State} (hx : exec c s = takeEffect c (serve c) s)
    (h : exec c s = .next t) : RecordsAfter c s t := by
  rw [hx] at h
  by_cases hp : s.inProcess c = true
  · rw [takeEffect_in hp] at h
    cases h
    exact recordsAfter_of_serve (.inl rfl) _
  · rw [takeEffect_out (by simpa using hp)] at h
    cases h
    exact .inl (.refl s)

/-- An event acts while the part runs, and does nothing in reset. -/
theorem whenRunning_cases {f : State → State} {s t : State} (h : whenRunning f s = .next t) :
    t = s ∨ (s.inReset = false ∧ t = f s) := by
  cases hr : s.inReset with
  | true => rw [whenRunning_reset f hr] at h; cases h; exact .inl rfl
  | false => rw [whenRunning_run f hr] at h; cases h; exact .inr ⟨rfl, rfl⟩

theorem recordsAfter_of_event {c : Instr} {f : State → State} {s t : State} (h : whenRunning f s = .next t)
    (hf : Evolves s (f s)) : RecordsAfter c s t := by
  rcases whenRunning_cases h with rfl | ⟨-, rfl⟩
  · exact .inl (.refl _)
  · exact .inl hf

theorem Evolves.onEdge {s t : State} {l : LaneNo} {k : LaneInput} {v : Bool} {ev : State → State} (h : Evolves s t)
    (hf : ∀ u, Evolves s u → Evolves s (ev u)) : Evolves s (t.onEdge l k v ev) := by
  unfold State.onEdge
  split
  · exact hf _ h.keepLevel
  · exact h.keepLevel

theorem State.clockedFrame_quiet (s : State) (bits : List Bool) : Quiet s (s.clockedFrame bits) := by
  have h1 : ∀ f, Quiet s (s.onFrame f) := fun f => by
    unfold State.onFrame
    split <;> exact .relink ..
  have h2 : ∀ n, Quiet s (s.ignoreFrame n) := fun n => by
    unfold State.ignoreFrame
    simp only
    split
    · exact ⟨(h1 _).view, (h1 _).capacity⟩
    · exact h1 _
  rcases s.clockedFrame_cases bits with ⟨-, e⟩ | ⟨-, e⟩ | ⟨-, -, e⟩ <;> rw [e]
  · exact h1 _
  · exact h1 _
  · exact h2 _

theorem recordsAfter_complete {s : State} : RecordsAfter .processingComplete s s.complete := by
  unfold State.complete
  split
  · split
    · exact .inl (.quiet (.relink ..))
    · rename_i b _ hb
      unfold State.completeUnserved
      split
      · exact .inl (.quiet (.relink ..))
      · exact .inl (.quiet (.relink ..))
      · exact recordsAfter_of_serve (.inr ⟨rfl, b, hb, ‹_›⟩) _
    · exact .inl (.refl s)
  · exact .inl (.refl s)

theorem State.beginReset_quiet (s : State) : Quiet s s.beginReset :=
  ⟨rfl, fun h => ⟨fun l => by cases l; exacts [h.1 .zero, h.1 .one], h.2⟩⟩

/-- What every command does to the records, the recipes and the oven. -/
theorem exec_cases {c : Instr} {s t : State} (h : exec c s = .next t) : RecordsAfter c s t := by
  have hs := Evolves.refl s
  cases c with
  | requestFrame bits => cases h; exact .inl (.quiet (s.clockedFrame_quiet bits))
  | fetchFrame bits => cases h; exact .inl (.quiet (s.clockedFrame_quiet bits))
  | ignoredFrame bits => cases h; exact .inl (.quiet (s.clockedFrame_quiet bits))
  | processingComplete =>
    rcases whenRunning_cases h with rfl | ⟨-, rfl⟩
    · exact .inl (.refl _)
    · exact recordsAfter_complete
  | csnFallingEdge => cases h; exact .inl (.quiet (.relink ..))
  | rxdEdge level =>
    simp only [exec, execRxdEdge] at h
    split at h <;> cases h
    · exact .inl (hs.modSlr id)
    · exact .inl (hs.modSlr fun hf => (rxdChange_fifo level s.slr).symm ▸ hf)
  | deviceReset cause =>
    simp only [exec, execDeviceReset] at h
    split at h <;> cases h
    · exact .inl (.quiet s.beginReset_quiet)
    · exact .inl hs
  | resetEnd =>
    simp only [exec, execResetEnd] at h
    split at h <;> cases h
    · exact .inr (.inr (.inr ⟨rfl, rfl⟩))
    · exact .inl hs
  | tick => exact recordsAfter_of_event h (hs.then_quiet rfl id)
  | encoderCount l sec v => exact recordsAfter_of_event h (hs.onEdge fun _ hu => hu.count)
  | eyeEntry l v => exact recordsAfter_of_event h (hs.onEdge fun _ hu => hu.entryEdge)
  | eyeOven l v => exact recordsAfter_of_event h (hs.onEdge fun _ hu => hu.ovenEdge)
  | eyeUnload l v => exact recordsAfter_of_event h (hs.onEdge fun _ hu => hu.unloadEdge)
  | settledEvent l => exact recordsAfter_of_event h hs.quietEnd
  | flashClaimExpiry l => exact recordsAfter_of_event h hs.claimEnd
  | divertPulseEnd l g => exact recordsAfter_of_event h hs.pulseEnd
  | inspectTrigPulseEnd l => exact recordsAfter_of_event h hs.trigPulseEnd
  | inspectTrigRecoveryEnd l => exact recordsAfter_of_event h hs.trigRecoveryEnd
  | inspectWindowExpiry k => exact recordsAfter_of_event h hs.windowTimeout
  | characterReceived a d z => exact recordsAfter_of_event h (hs.modSlr (endCharacter_fits a d z))
  | breakEntry => exact recordsAfter_of_event h hs.enterBreak
  | breakEnd => exact recordsAfter_of_event h (hs.modSlr fun hf => (endBreak_fifo s.slr).symm ▸ hf)
  | lineQuiet => exact recordsAfter_of_event h hs.lineQuiet
  | assemblerByteTake => exact recordsAfter_of_event h hs.assemble
  | idRead => exact recordsAfter_of_event h hs.takeRead
  | maskReport => exact recordsAfter_of_event h hs.takeReport
  | gantryTransferEnd => exact recordsAfter_of_event h hs.portEnd
  | moveDone l v => exact recordsAfter_of_event h (hs.onEdge fun _ hu => hu.moveDoneEdge)
  | durationExpiry l => exact recordsAfter_of_event h hs.durationEnd
  | moveTimeout l => exact recordsAfter_of_event h hs.moveTimeoutEnd
  | gantryErr l v => exact recordsAfter_of_event h hs.gantryErrSample
  | flowPulse l v => exact recordsAfter_of_event h (hs.onEdge fun _ hu => hu.countPulse)
  | recoatExpiry l => exact recordsAfter_of_event h hs.recoatEnd
  | pollStart => exact recordsAfter_of_event h (.ite (hs.then_quiet rfl id) hs)
  | pollCompletion rs => exact recordsAfter_of_event h hs.completePoll
  | tachEdge z v n => exact recordsAfter_of_event h hs.readTach
  | stallWatchExpiry z n =>
    exact recordsAfter_of_event (f := fun s => (s.atSample (s.sampleAt n)).stallAt z (s.sampleAt n)) h
      (.stallAt (hs.then_quiet rfl id))
  | _ => exact recordsAfter_of_request rfl h

end Sys2Proof.Machine
end

section
/-! SUPPORT. The rules from which an invariant of the records is proved: what RETIRE and REENTER do, and the one
induction over a step. -/

namespace Sys2Proof.Machine

/-! ### RETIRE and REENTER -/

/-- RETIRE changes nothing, or frees the record that its checks allow (R22, R23). -/
theorem serveRetire_cases (h d : Nat) (s : State) :
    (serveRetire h d s).1 = s ∨ ∃ p, s.panel h = some p ∧ d ≤ 1 ∧ retireAllowed p.stage d = true ∧
      ¬(p.stage = .parked ∧ d = 0 ∧ p.holds ≠ []) ∧ (serveRetire h d s).1 = s.retireRecord h p := by
  unfold serveRetire
  split; · exact .inl rfl
  rename_i p hp
  split; · exact .inl rfl
  split; · exact .inl rfl
  split; · exact .inl rfl
  rename_i hd ha hh
  exact .inr ⟨p, hp, by omega, by simpa using ha, by simpa [and_assoc] using hh, rfl⟩

/-- REENTER changes nothing, or puts a PARKED record in a re-entry list with room (R168, R169). -/
theorem serveReenter_cases (h lane point : Nat) (s : State) :
    (serveReenter h lane point s).1 = s ∨ ∃ p l rp, s.panel h = some p ∧ p.stage = .parked ∧
      (s.ltk.get l).reentry.length < 4 ∧
      (serveReenter h lane point s).1 =
        (s.setSlot h (some (reentered l rp p))).modLtk l fun t => { t with reentry := t.reentry ++ [h] } := by
  unfold serveReenter
  split; · exact .inl rfl
  rename_i p hp
  split
  · rename_i l rp _ _
    unfold State.reenterChecked
    split; · exact .inl rfl
    rename_i hst
    split; · exact .inl rfl
    split; · exact .inl rfl
    split; · exact .inl rfl
    split; · exact .inl rfl
    split; · exact .inl rfl
    split; · exact .inl rfl
    rename_i hroom
    refine .inr ⟨p, l, rp, hp, not_not.1 hst, by omega, ?_⟩
    rw [State.answer_fst, State.modPanel_of_live hp]
  · exact .inl rfl

/-- A re-entering record keeps its ID, recipe and holds; its cure fields are removed or lose their verdict (R169). -/
theorem reentered_keeps (l : LaneNo) (rp : ResumePoint) (p : Panel) :
    (reentered l rp p).id = p.id ∧ (reentered l rp p).recipe = p.recipe ∧ (reentered l rp p).holds = p.holds ∧
    (reentered l rp p).stage = .reentering ∧
    ∀ c, (reentered l rp p).cure = some c → ∃ a, p.cure = some a ∧ c = { a with verdict := none } := by
  cases rp <;> simp [reentered, resetForResume, Panel.notify, eq_comm]

/-- What retiring a record leaves: every other slot, and everything but the store. -/
theorem State.retireRecord_frame (s : State) (h : Nat) (p : Panel) :
    s.retireRecord h p = { s with
      slots := s.slots.setIfInBounds h none
      freeList := insertHandle h s.freeList
      idMap := s.idMap.filter fun e => e.2 != h
      recipes := (s.retireRecord h p).recipes } := by
  unfold State.retireRecord
  cases p.recipe with
  | none => rfl
  | some r =>
    unfold State.dropRef State.modRecipe
    simp only
    split <;> rfl

theorem State.panel_retireRecord_self {s : State} {h : Nat} {p : Panel} (hp : s.panel h = some p) :
    (s.retireRecord h p).panel h = none := by
  rw [State.retireRecord_frame]
  exact State.panel_setSlot_self (s := s) _ (State.panel_lt hp)

theorem State.othersKept_retireRecord (s : State) (h : Nat) (p : Panel) : s.othersKept (s.retireRecord h p) h := by
  intro k hk
  rw [State.retireRecord_frame]
  exact State.panel_setSlot_ne (s := s) _ hk

theorem State.recipe_retireRecord (s : State) (h : Nat) (p : Panel) (k : Nat) :
    (s.retireRecord h p).recipe k =
      (s.recipe k).map fun y => { y with refs := if p.recipe = some k then y.refs - 1 else y.refs } := by
  have h1 : (s.retireRecord h p).recipe k =
      (match p.recipe with | some r => s.dropRef r | none => s).recipe k := rfl
  rw [h1]
  cases p.recipe with
  | none => simp
  | some r =>
    simp only [State.dropRef, State.recipe_modRecipe, Option.some.injEq, eq_comm (a := r)]
    split <;> simp

/-! ### One induction for every invariant of the records -/

/-- A property that every command keeps, whatever waits in the queue, is kept by every step (log 1). -/
theorem step_keeps {P : State → Prop} (hq : ∀ s q, P s → P { s with pending := q })
    (hx : ∀ c s t, P s → exec c s = .next t → P t) {s t : State} (hs : P s) (h : step s = .next t) : P t := by
  unfold step at h
  split at h
  · cases h; exact hs
  · exact hx _ _ _ (hq s _ hs) h

/-- A property that the steps of `Evolves`, RETIRE and REENTER keep and that holds after reset is kept by every step. -/
theorem step_keeps_records {P : State → Prop} (he : ∀ s t : State, Evolves s t → P s → P t)
    (hret : ∀ s h d, P s → P (serveRetire h d s).1) (hre : ∀ s h l p, P s → P (serveReenter h l p s).1)
    (hreset : ∀ s : State, P s.endReset) {s t : State} (hs : P s) (h : step s = .next t) : P t := by
  refine step_keeps (P := P) (fun s q => he _ _ (.quiet ⟨rfl, id⟩)) (fun c s t hs h => ?_) hs h
  rcases exec_cases h with h | ⟨k, d, -, h⟩ | ⟨k, l, p, -, h⟩ | ⟨-, rfl⟩
  · exact he _ _ h hs
  · exact he _ _ (.quiet h) (hret s k d hs)
  · exact he _ _ (.quiet h) (hre s k l p hs)
  · exact hreset s

/-! ### Frames of the steps -/

/-- The state with the zone table and the flags blanked: all that a new stale limit writes (R137). -/
def State.zoneRest (s : State) : State := { s with zones := State.reset.zones, flags := State.reset.flags }

@[simp] theorem State.relimitAt_zoneRest (s : State) (i : Nat) : (s.relimitAt i).zoneRest = s.zoneRest := by
  unfold State.relimitAt State.alarmIfInvalid State.modZone
  split; · rfl
  split
  · split <;> rfl
  · split
    · rfl
    · split <;> rfl

@[simp] theorem State.relimitAll_zoneRest (s : State) : s.relimitAll.zoneRest = s.zoneRest := by
  simp [State.relimitAll]

theorem State.fields_of_zoneRest {s t : State} (h : t.zoneRest = s.zoneRest) :
    t.slots = s.slots ∧ t.freeList = s.freeList ∧ t.idMap = s.idMap ∧ t.recipes = s.recipes ∧ t.params = s.params ∧
    t.ltk = s.ltk ∧ t.mvf = s.mvf ∧ t.slr = s.slr := by
  simp only [State.zoneRest, State.mk.injEq] at h
  simp only [h, and_self]

theorem State.panel_of_slots {s t : State} (h : t.slots = s.slots) (k : Nat) : t.panel k = s.panel k := by
  rw [State.panel, State.panel, h]

/-- The reference counts at an assignment of another recipe (R5). -/
theorem State.recipe_moveRefs {old : Option Nat} {r : Nat} (s : State) (h : old ≠ some r) (k : Nat) :
    (s.moveRefs old r).recipe k = (s.recipe k).map fun y =>
      { y with refs := if k = r then y.refs + 1 else if old = some k then y.refs - 1 else y.refs } := by
  unfold State.moveRefs
  cases old with
  | none =>
    simp only [State.addRef, State.recipe_modRecipe]
    split <;> simp
  | some o =>
    have ho : o ≠ r := fun e => h (e ▸ rfl)
    simp only [if_neg ho, State.addRef, State.dropRef, State.recipe_modRecipe, Option.some.injEq]
    by_cases hk : k = r
    · subst k; simp [Ne.symm ho]
    · by_cases hk' : k = o
      · subst k; simp [hk]
      · simp [hk, hk', Ne.symm hk']

theorem State.moveRefs_same (s : State) (r : Nat) : s.moveRefs (some r) r = s := by simp [State.moveRefs]

/-- Only the recipes' counts change at an assignment. -/
theorem State.moveRefs_frame (s : State) (old : Option Nat) (r : Nat) :
    s.moveRefs old r = { s with recipes := (s.moveRefs old r).recipes } := by
  have hm : ∀ (u : State) (k : Nat) f, u.modRecipe k f = { u with recipes := (u.modRecipe k f).recipes } := by
    intro u k f
    unfold State.modRecipe
    split <;> rfl
  unfold State.moveRefs State.addRef State.dropRef
  split
  · exact hm s r _
  · split
    · rfl
    · rw [hm (s.modRecipe r _), hm s r]

theorem State.panel_moveRefs (s : State) (old : Option Nat) (r k : Nat) : (s.moveRefs old r).panel k = s.panel k := by
  rw [State.moveRefs_frame]; rfl

end Sys2Proof.Machine
end

section
/-! SUPPORT. The record store stays in order (R1, R14, R35): what each kind of step does to the free list, the reference
counts and the ID map. -/

namespace Sys2Proof.Machine

/-! ### Who names a recipe -/

/-- 1 if the record of the handle is live and names the recipe, 0 otherwise. -/
def State.names (s : State) (h r : Nat) : Nat := if (s.panel h).bind Panel.recipe = some r then 1 else 0

theorem State.slots_toList (s : State) : s.slots.toList = (List.range 48).map s.panel := by
  refine List.ext_getElem (by simp) fun i h1 h2 => ?_
  have hi : i < 48 := by simpa using h1
  simp [State.panel, hi]

theorem State.naming_eq (s : State) (r : Nat) : s.naming r = ((List.range 48).map fun h => s.names h r).sum := by
  rw [State.naming, s.slots_toList, List.countP_map]
  generalize List.range 48 = hs
  induction hs with
  | nil => rfl
  | cons h hs ih =>
    rw [List.countP_cons, List.map_cons, List.sum_cons, ih, Nat.add_comm]
    simp only [State.names, Function.comp, beq_iff_eq]

/-- Two sums over a list of distinct numbers whose terms agree but at one of them. -/
theorem sum_map_change {f g : Nat → Nat} {h : Nat} {hs : List Nat} (hn : hs.Nodup) (hm : h ∈ hs)
    (hfg : ∀ k, k ≠ h → g k = f k) : (hs.map g).sum + f h = (hs.map f).sum + g h := by
  induction hs with
  | nil => cases hm
  | cons k hs ih =>
    rw [List.nodup_cons] at hn
    simp only [List.map_cons, List.sum_cons]
    rcases List.mem_cons.1 hm with rfl | hm
    · have : hs.map g = hs.map f := List.map_congr_left fun k hk => hfg k fun e => hn.1 (e ▸ hk)
      rw [this]; omega
    · have := ih hn.2 hm
      have := hfg k fun e => hn.1 (e ▸ hm)
      omega

/-- The count of a recipe's records after one slot changes. -/
theorem State.naming_change {s t : State} {h : Nat} (hk : s.othersKept t h) (hh : h < 48) (r : Nat) :
    t.naming r + s.names h r = s.naming r + t.names h r := by
  rw [s.naming_eq, t.naming_eq]
  refine sum_map_change (f := fun h => s.names h r) (g := fun h => t.names h r) List.nodup_range
    (List.mem_range.2 hh) fun k hne => ?_
  simp only [State.names, hk k hne]

theorem State.names_le_naming (s : State) {h : Nat} (hh : h < 48) (r : Nat) : s.names h r ≤ s.naming r := by
  rw [s.naming_eq]
  have hm : s.names h r ∈ (List.range 48).map fun h => s.names h r :=
    List.mem_map.2 ⟨h, List.mem_range.2 hh, rfl⟩
  exact List.le_sum_of_mem hm

/-! ### What the store's invariant reads -/

/-- What the invariant of the store reads of a state: ID and recipe of each record, free list, map and counts. -/
structure StoreView where
  keys : Nat → Option (Option PanelId × Option Nat)
  freeList : List Nat
  idMap : List (PanelId × Nat)
  refs : Nat → Option Nat

/-- What the invariant of the store reads of a state. -/
def State.storeView (s : State) : StoreView :=
  { keys := fun h => (s.panel h).map fun p => (p.id, p.recipe), freeList := s.freeList, idMap := s.idMap,
    refs := fun r => (s.recipe r).map Recipe.refs }

/-- The three parts of the invariant read through the view. -/
def StoreView.ok (v : StoreView) : Prop :=
  (v.freeList = (List.range 48).filter fun h => (v.keys h).isNone) ∧
  (∀ r n, v.refs r = some n → n = ((List.range 48).map fun h =>
    if (v.keys h).bind Prod.snd = some r then 1 else 0).sum) ∧
  (v.idMap.map Prod.fst).Nodup ∧ ∀ id h, (id, h) ∈ v.idMap ↔ (v.keys h).bind Prod.fst = some id

theorem State.storeOk_iff (s : State) : s.storeOk ↔ s.storeView.ok := by
  have hf : ∀ h, (s.storeView.keys h).isNone = (s.panel h).isNone := fun h => Option.isNone_map
  have hr : ∀ h, (s.storeView.keys h).bind Prod.snd = (s.panel h).bind Panel.recipe := by
    intro h
    simp only [State.storeView]
    cases s.panel h <;> rfl
  have hi : ∀ h id, (s.storeView.keys h).bind Prod.fst = some id ↔ ∃ p, s.panel h = some p ∧ p.id = some id := by
    intro h id
    simp only [State.storeView]
    cases s.panel h <;> simp
  simp only [State.storeOk, State.freeListOk, State.refsOk, State.idMapOk, StoreView.ok, hf, hr, hi, s.naming_eq,
    State.names]
  refine and_congr Iff.rfl (and_congr ⟨fun h r n e => ?_, fun h r x e => ?_⟩ Iff.rfl)
  · obtain ⟨x, hx, rfl⟩ := Option.map_eq_some_iff.1 e
    exact h r x hx
  · exact h r _ (by simp [State.storeView, e])

/-- A change that leaves the store's view alone keeps the store in order. -/
theorem State.storeOk_of_view {s t : State} (h : t.storeView = s.storeView) (hs : s.storeOk) : t.storeOk := by
  rw [State.storeOk_iff] at *
  rwa [h]

/-- A change that leaves slots, free list, ID map and recipes alone leaves the store's view alone. -/
theorem storeView_of_fields {s t : State} (h1 : t.slots = s.slots) (h2 : t.freeList = s.freeList)
    (h3 : t.idMap = s.idMap) (h4 : t.recipes = s.recipes) : t.storeView = s.storeView := by
  simp only [State.storeView, State.panel, State.recipe, h1, h2, h3, h4]

theorem storeView_setSlot {s : State} {h : Nat} {p q : Panel} (hp : s.panel h = some p) (hi : q.id = p.id)
    (hr : q.recipe = p.recipe) : (s.setSlot h (some q)).storeView = s.storeView := by
  have hk : ∀ k, ((s.setSlot h (some q)).panel k).map (fun p => (p.id, p.recipe)) =
      (s.panel k).map fun p => (p.id, p.recipe) := by
    intro k
    by_cases e : k = h
    · subst k; simp [State.panel_setSlot_self _ (State.panel_lt hp), hp, hi, hr]
    · rw [State.panel_setSlot_ne _ e]
  simp only [State.storeView, hk]
  rfl

/-! ### The parts of the invariant after one slot changes -/

theorem State.refsOk_change {s t : State} {h : Nat} (hs : s.refsOk) (hk : s.othersKept t h) (hh : h < 48)
    (hr : ∀ r x, t.recipe r = some x → ∃ y, s.recipe r = some y ∧ x.refs + s.names h r = y.refs + t.names h r) :
    t.refsOk := by
  intro r x hx
  obtain ⟨y, hy, e⟩ := hr r x hx
  have := State.naming_change hk hh r
  have := hs r y hy
  omega

theorem State.freeListOk_of_live {s t : State} (hs : s.freeListOk) (hl : t.freeList = s.freeList)
    (hp : ∀ k, (t.panel k).isNone = (s.panel k).isNone) : t.freeListOk := by
  simp only [State.freeListOk, hp, hl]; exact hs

theorem State.idMapOk_of_ids {s t : State} (hs : s.idMapOk) (hm : t.idMap = s.idMap)
    (hp : ∀ k id, (∃ p, t.panel k = some p ∧ p.id = some id) ↔ ∃ p, s.panel k = some p ∧ p.id = some id) :
    t.idMapOk := by
  simp only [State.idMapOk, hp, hm]; exact hs

theorem State.panel_of_freeList {s : State} {h : Nat} (hs : s.freeListOk) (hm : h ∈ s.freeList) :
    h < 48 ∧ s.panel h = none := by
  rw [hs] at hm
  simpa using hm

/-- The free list is the ascending list of the free handles (R1). -/
theorem State.freeListOk_iff (s : State) :
    s.freeListOk ↔ s.freeList.Pairwise (· < ·) ∧ ∀ k, k ∈ s.freeList ↔ k < 48 ∧ s.panel k = none := by
  constructor
  · intro hs
    rw [hs]
    exact ⟨List.pairwise_lt_range.filter _, fun k => by simp⟩
  · rintro ⟨hsort, hmem⟩
    refine List.Perm.eq_of_pairwise (le := (· < ·)) (fun a b _ _ h1 h2 => absurd h1 (Nat.lt_asymm h2)) hsort
      (List.pairwise_lt_range.filter _) ?_
    refine (List.perm_ext_iff_of_nodup (hsort.imp Nat.ne_of_lt) (List.nodup_range.filter _)).2 fun k => ?_
    simp [hmem]

/-! ### The kinds of step -/

/-- A record is created in the slot of the lowest free handle (R2). -/
theorem State.storeOk_createRecord {s : State} {h : Nat} {rest : List Nat} (l : LaneNo) (hs : s.storeOk)
    (hf : s.freeList = h :: rest) : (s.createRecord l h rest).storeOk := by
  obtain ⟨hfree, hrefs, hmap⟩ := hs
  obtain ⟨hh, hnone⟩ := State.panel_of_freeList hfree (by rw [hf]; exact List.mem_cons_self)
  have hself : (s.createRecord l h rest).panel h = some (newPanel l) :=
    State.panel_setSlot_self (s := { s with freeList := rest }) _ hh
  have hk : s.othersKept (s.createRecord l h rest) h := fun k hne =>
    State.panel_setSlot_ne (s := { s with freeList := rest }) _ hne
  refine ⟨?_, State.refsOk_change hrefs hk hh fun r x hx => ⟨x, hx, ?_⟩, State.idMapOk_of_ids hmap rfl fun k id => ?_⟩
  · rw [State.freeListOk_iff] at hfree ⊢
    obtain ⟨hsort, hmem⟩ := hfree
    rw [hf, List.pairwise_cons] at hsort
    refine ⟨hsort.2, fun k => ?_⟩
    show k ∈ rest ↔ _
    by_cases hkh : k = h
    · subst k
      simpa [hself] using fun hm => Nat.lt_irrefl _ (hsort.1 h hm)
    · rw [hk k hkh, ← hmem, hf]
      simp [hkh]
  · simp [State.names, hself, hnone, newPanel]
  · by_cases hkh : k = h
    · subst k; simp [hself, hnone, newPanel]
    · rw [hk k hkh]

/-- An ID that no record has is stored in a record without one (R4, R14). -/
theorem State.storeOk_storeId {s : State} {h : Nat} {p : Panel} {id : PanelId} (hs : s.storeOk)
    (hp : s.panel h = some p) (hn : p.id = none) (hf : s.findId id = none) : (s.storeId h id).storeOk := by
  obtain ⟨hfree, hrefs, hnodup, hmap⟩ := hs
  have hpan : ∀ k, (s.storeId h id).panel k = (s.modPanel h fun p => { p with id := some id }).panel k := fun _ => rfl
  have hself : (s.storeId h id).panel h = some { p with id := some id } := by
    rw [hpan, State.panel_modPanel_self, hp]; rfl
  have hk : s.othersKept (s.storeId h id) h := fun k hne => by rw [hpan, State.panel_modPanel_ne _ _ hne]
  have hnew : ∀ k, (id, k) ∉ s.idMap := by
    intro k hm
    simp only [State.findId, Option.map_eq_none_iff, List.find?_eq_none] at hf
    exact hf _ hm (by simp)
  refine ⟨State.freeListOk_of_live hfree ?_ fun k => ?_, State.refsOk_change hrefs hk (State.panel_lt hp)
    fun r x hx => ⟨x, ?_, ?_⟩, ?_, fun id' k => ?_⟩
  · exact s.modPanel_freeList h _
  · by_cases hkh : k = h
    · subst k; simp [hself, hp]
    · rw [hk k hkh]
  · rw [← hx]; exact (s.modPanel_recipe h _ r).symm
  · simp [State.names, hself, hp]
  · show ((s.idMap ++ [(id, h)]).map Prod.fst).Nodup
    rw [List.map_append, List.nodup_append]
    refine ⟨hnodup, by simp, fun a ha b hb => ?_⟩
    obtain ⟨⟨a', k⟩, hm, rfl⟩ := List.mem_map.1 ha
    simp only [List.map_cons, List.map_nil, List.mem_singleton] at hb
    rintro rfl
    exact hnew k (hb ▸ hm)
  · show (id', k) ∈ s.idMap ++ [(id, h)] ↔ _
    rw [List.mem_append, hmap, List.mem_singleton, Prod.mk.injEq]
    by_cases hkh : k = h
    · subst k; simp [hself, hp, hn, eq_comm]
    · rw [hk k hkh]; simp [hkh]

/-- A recipe is assigned, and the counts follow (R5, R18). -/
theorem State.storeOk_assign {s : State} {h : Nat} {p : Panel} (r : Nat) (m : Option MaskResult) (hs : s.storeOk)
    (hp : s.panel h = some p) :
    ((s.setSlot h (some { p with recipe := some r, mask := m })).moveRefs p.recipe r).storeOk := by
  by_cases hr : p.recipe = some r
  · rw [hr, State.moveRefs_same]
    exact State.storeOk_of_view (storeView_setSlot hp rfl hr.symm) hs
  obtain ⟨hfree, hrefs, hmap⟩ := hs
  have hh := State.panel_lt hp
  generalize hu : s.setSlot h (some { p with recipe := some r, mask := m }) = u
  have hself : u.panel h = some { p with recipe := some r, mask := m } := by
    rw [← hu]; exact State.panel_setSlot_self _ hh
  have hk : s.othersKept u h := fun k hne => by rw [← hu]; exact State.panel_setSlot_ne _ hne
  have hrec : ∀ k, u.recipe k = s.recipe k := fun k => by rw [← hu]; rfl
  have hfr := u.moveRefs_frame p.recipe r
  have hpan := u.panel_moveRefs p.recipe r
  refine ⟨State.freeListOk_of_live hfree ?_ fun k => ?_, State.refsOk_change hrefs (h := h) (fun k hne => ?_) hh
    fun k x hx => ?_, State.idMapOk_of_ids hmap ?_ fun k id => ?_⟩
  · rw [hfr, ← hu]; rfl
  · rw [hpan]
    by_cases hkh : k = h
    · subst k; simp [hself, hp]
    · rw [hk k hkh]
  · rw [hpan, hk k hne]
  · rw [State.recipe_moveRefs _ hr, hrec, Option.map_eq_some_iff] at hx
    obtain ⟨y, hy, rfl⟩ := hx
    refine ⟨y, hy, ?_⟩
    have hle := s.names_le_naming hh k
    rw [← hrefs k y hy] at hle
    simp only [State.names, hpan, hself, hp, Option.bind_some, Option.some.injEq, eq_comm (a := r)] at hle ⊢
    by_cases hkr : k = r
    · subst k; simp [hr]
    · by_cases hpk : p.recipe = some k
      · simp only [if_pos hpk, if_neg hkr] at hle ⊢
        omega
      · simp [hpk, hkr]
  · rw [hfr, ← hu]; rfl
  · rw [hpan]
    by_cases hkh : k = h
    · subst k; simp [hself, hp]
    · rw [hk k hkh]

/-- A retired record's handle takes its ascending place in the free list (R23). -/
theorem State.freeListOk_retireRecord {s : State} {h : Nat} {p : Panel} (hfree : s.freeListOk)
    (hp : s.panel h = some p) : (s.retireRecord h p).freeListOk := by
  rw [State.freeListOk_iff] at hfree ⊢
  obtain ⟨hsort, hmem⟩ := hfree
  have hnot : h ∉ s.freeList := fun hm => by simpa [hp] using ((hmem h).1 hm).2
  have hl : (s.retireRecord h p).freeList = insertHandle h s.freeList := by rw [State.retireRecord_frame]
  rw [hl]
  refine ⟨sorted_insertHandle hsort hnot, fun k => ?_⟩
  rw [mem_insertHandle, hmem]
  by_cases hkh : k = h
  · subst k; simp [State.panel_retireRecord_self hp, State.panel_lt hp]
  · rw [s.othersKept_retireRecord h p k hkh]; simp [hkh]

/-- A record is retired (R23). -/
theorem State.storeOk_retireRecord {s : State} {h : Nat} {p : Panel} (hs : s.storeOk) (hp : s.panel h = some p) :
    (s.retireRecord h p).storeOk := by
  obtain ⟨hfree, hrefs, hnodup, hmap⟩ := hs
  have hh := State.panel_lt hp
  have hfr := s.retireRecord_frame h p
  have hself := State.panel_retireRecord_self hp
  have hk := s.othersKept_retireRecord h p
  refine ⟨State.freeListOk_retireRecord hfree hp, State.refsOk_change hrefs hk hh fun k x hx => ?_, ?_,
    fun id k => ?_⟩
  · rw [State.recipe_retireRecord, Option.map_eq_some_iff] at hx
    obtain ⟨y, hy, rfl⟩ := hx
    refine ⟨y, hy, ?_⟩
    have hle := s.names_le_naming hh k
    rw [← hrefs k y hy] at hle
    simp only [State.names, hself, hp, Option.bind_some, Option.bind_none] at hle ⊢
    by_cases hpk : p.recipe = some k
    · simp only [if_pos hpk] at hle ⊢
      simpa using Nat.sub_add_cancel hle
    · simp [hpk]
  · have hl : (s.retireRecord h p).idMap = s.idMap.filter fun e => e.2 != h := by rw [hfr]
    rw [hl]
    exact hnodup.sublist (List.filter_sublist.map _)
  · have hl : (s.retireRecord h p).idMap = s.idMap.filter fun e => e.2 != h := by rw [hfr]
    rw [hl, List.mem_filter, hmap]
    by_cases hkh : k = h
    · subst k; simp [hself]
    · rw [hk k hkh]; simp [hkh]

theorem Evolves.storeOk {s t : State} (h : Evolves s t) (hs : s.storeOk) : t.storeOk := by
  induction h with
  | quiet h =>
    have hv := h.view
    simp only [State.recordView, RecordView.mk.injEq] at hv
    obtain ⟨h1, h2, h3, h4, -⟩ := hv
    exact State.storeOk_of_view (storeView_of_fields h1 h2 h3 h4) hs
  | trans _ _ ih1 ih2 => exact ih2 (ih1 hs)
  | panel hp he => exact State.storeOk_of_view (storeView_setSlot hp he.id he.recipe) hs
  | create l hf => exact State.storeOk_createRecord l hs hf
  | identify hp hn hf => exact State.storeOk_storeId hs hp hn hf
  | assign r m hp => exact State.storeOk_assign r m hs hp
  | @parts s r x y hx h0 hy =>
    refine State.storeOk_of_view ?_ hs
    have hr : ∀ k, ((s.putRecipe r y).recipe k).map Recipe.refs = (s.recipe k).map Recipe.refs := by
      intro k
      rw [State.recipe_putRecipe]
      split
      · rename_i hk; rw [hk.1, hx]; simp [h0, hy]
      · rfl
    simp only [State.storeView, hr]
    rfl
  | @zone s i f hz =>
    refine State.storeOk_of_view (storeView_of_fields ?_ ?_ ?_ ?_) hs <;> simp
  | @relimit s n h1 h5 =>
    have hz := State.relimitAll_zoneRest (s.writeParams fun p => { p with staleLimit := n })
    obtain ⟨e1, e2, e3, e4, -⟩ := State.fields_of_zoneRest hz
    exact State.storeOk_of_view (storeView_of_fields e1 e2 e3 e4) hs
  | ambient v h1 h2 => exact State.storeOk_of_view rfl hs

/-- Right after reset every slot is FREE (R24). -/
theorem State.reset_panel (k : Nat) : State.reset.panel k = none := by
  simp only [State.panel, State.reset, Vector.getElem?_replicate]
  split <;> rfl

/-- Right after reset every recipe is UNDEFINED (R24). -/
theorem State.recipe_of_reset {r : Nat} {x : Recipe} (h : State.reset.recipe r = some x) : x = Recipe.reset := by
  simp only [State.recipe, State.reset, Vector.getElem?_replicate] at h
  split at h
  · exact (Option.some.inj h).symm
  · cases h

theorem State.reset_storeOk : State.reset.storeOk := by
  have hp := State.reset_panel
  refine ⟨?_, fun r x hx => ?_, by simp [State.reset], fun id h => ?_⟩
  · rw [State.freeListOk_iff]
    exact ⟨List.pairwise_lt_range, fun k => by rw [hp]; simp [State.reset]⟩
  · obtain rfl := State.recipe_of_reset hx
    rw [State.naming_eq]
    simp [State.names, hp, Recipe.reset]
  · simp [hp]; simp [State.reset]

end Sys2Proof.Machine
end

section
/-! SUPPORT. The record store's obligation: every step keeps the store in order. -/

namespace Sys2Proof.Machine

theorem State.storeOk_serveRetire {s : State} (hs : s.storeOk) (h d : Nat) : (serveRetire h d s).1.storeOk := by
  rcases serveRetire_cases h d s with e | ⟨p, hp, -, -, -, e⟩ <;> rw [e]
  · exact hs
  · exact State.storeOk_retireRecord hs hp

theorem State.storeOk_serveReenter {s : State} (hs : s.storeOk) (h l p : Nat) : (serveReenter h l p s).1.storeOk := by
  rcases serveReenter_cases h l p s with e | ⟨p, l, rp, hp, -, -, e⟩ <;> rw [e]
  · exact hs
  · obtain ⟨hi, hr, -⟩ := reentered_keeps l rp p
    exact State.storeOk_of_view (storeView_setSlot hp hi hr) hs

/-- Settles O5: each kind of step keeps the store in order, and so does every command. -/
theorem storeOrderKept : Obligations.StoreOrderKept := by
  intro s t hs h
  exact step_keeps_records (fun _ _ h hs => h.storeOk hs) (fun _ h d hs => State.storeOk_serveRetire hs h d)
    (fun _ h l p hs => State.storeOk_serveReenter hs h l p) (fun _ => State.reset_storeOk) hs h

end Sys2Proof.Machine
end

section
/-! SUPPORT. The oven's ranges (R10, R136, R138, R146): what each step makes of a zone entry and of cure fields stays in
range. -/

namespace Sys2Proof.Machine

/-! ### Zone entries -/

/-- The state that a stale count above 0 gives agrees with the count (R136, R137). -/
theorem staleState_iff {limit n : Nat} (h0 : n ≠ 0) (hn : n ≤ limit) :
    (staleState limit n = .valid ↔ n = 0) ∧ (staleState limit n = .invalid ↔ n = limit) := by
  unfold staleState
  split <;> simp <;> omega

theorem zoneOk_applyReply {limit : Nat} {z : Zone} (r : SensorReply) (hl : 1 ≤ limit) (hz : zoneOk limit z) :
    zoneOk limit (applyReply limit r z) := by
  obtain ⟨hair, hle, -, -, hrest⟩ := hz
  unfold applyReply
  split
  · refine ⟨?_, Nat.zero_le _, by simp, ?_, hrest⟩
    · simp only [tempOk, clampInt]; omega
    · simp only [reduceCtorEq, false_iff]; omega
  · have h : ∀ n, n ≠ 0 → n ≤ limit → zoneOk limit { z with stale := n, state := staleState limit n } :=
      fun n h0 hn => ⟨hair, hn, (staleState_iff h0 hn).1, (staleState_iff h0 hn).2, hrest⟩
    refine h _ ?_ ?_ <;> split <;> omega

/-- The zone entries under a new stale limit (R137). -/
theorem zoneOk_relimit {old limit : Nat} {z : Zone} (ho : 1 ≤ old) (hl : 1 ≤ limit) (hz : zoneOk old z) :
    zoneOk limit (relimit limit z) := by
  obtain ⟨hair, hle, hv, hi, hrest⟩ := hz
  unfold relimit
  simp only
  split
  · rename_i h0
    have hz0 : z.stale = 0 := by omega
    refine ⟨hair, by simp [hz0], ?_, ?_, hrest⟩
    · simpa [hz0] using hv
    · have : z.state ≠ .invalid := fun e => by have := hi.1 e; omega
      simp only [this, hz0, false_iff]; omega
  · rename_i h0
    have hle : min z.stale limit ≤ limit := Nat.min_le_right _ _
    exact ⟨hair, hle, (staleState_iff h0 hle).1, (staleState_iff h0 hle).2, hrest⟩

theorem airflowClass_le (c : ClassLimits) (d : Nat) : airflowClass c d ≤ 5 := by
  unfold airflowClass
  split; · omega
  split; · omega
  split; · omega
  split; · omega
  split <;> omega

/-- A reading at a sample at which the tachometer has not been read: its last edge lies before it (R138, R186). -/
theorem zoneOk_tachSample {limit t : Nat} {z : Zone} (c : ClassLimits) (level : Bool) (hu : unreadAt t z = true)
    (hz : zoneOk limit z) : zoneOk limit (tachSample c t level z) := by
  obtain ⟨hair, hle, hv, hi, hflow, hper, hedge⟩ := hz
  have hlt : ∀ e, z.lastEdge = some e → e < t := by
    intro e he
    obtain ⟨r, hr, hle⟩ := hedge e he
    simp only [unreadAt, hr, decide_eq_true_eq] at hu
    omega
  unfold tachSample
  simp only
  split
  · unfold fanEdge
    split
    · exact ⟨hair, hle, hv, hi, hflow, hper, fun e he => ⟨t, rfl, (Option.some.inj he) ▸ Nat.le_refl _⟩⟩
    · rename_i d hd
      refine ⟨hair, hle, hv, hi, airflowClass_le c d, fun d' hd' => ?_,
        fun e he => ⟨t, rfl, (Option.some.inj he) ▸ Nat.le_refl _⟩⟩
      obtain rfl : d = d' := Option.some.inj hd'
      unfold fanPeriod at hd
      split at hd
      · cases hd
      · rename_i e he
        have := hlt e he
        obtain rfl := Option.some.inj hd
        unfold stallTime
        split <;> omega
  · exact ⟨hair, hle, hv, hi, hflow, hper, fun e he => ⟨t, rfl, Nat.le_of_lt (hlt e he)⟩⟩

theorem ZoneEdit.zoneOk {s : State} {x y : Zone} (he : ZoneEdit s x y) (hl : 1 ≤ s.params.staleLimit)
    (hx : zoneOk s.params.staleLimit x) : zoneOk s.params.staleLimit y := by
  cases he with
  | reply r => exact zoneOk_applyReply r hl hx
  | reading t level hu => exact zoneOk_tachSample _ level hu hx
  | stalled =>
    obtain ⟨hair, hle, hv, hi, -, hrest⟩ := hx
    exact ⟨hair, hle, hv, hi, Nat.zero_le _, hrest⟩

/-! ### Cure fields -/

/-- The rounding of R146 does not pass the value that a factor of 65536 would give. -/
theorem roundQ16_between {d : Int} {g : Nat} (hg : g ≤ 65535) :
    (0 ≤ d → 0 ≤ roundQ16 (d * g) ∧ roundQ16 (d * g) ≤ d) ∧
    (d ≤ 0 → d ≤ roundQ16 (d * g) ∧ roundQ16 (d * g) ≤ 0) := by
  have hg' : (g : Int) ≤ 65535 := by exact_mod_cast hg
  have hg0 : (0 : Int) ≤ g := Int.natCast_nonneg g
  unfold roundQ16
  constructor <;> intro hd
  · have h1 : 0 ≤ d * g := Int.mul_nonneg hd hg0
    have h2 : d * g ≤ d * 65535 := Int.mul_le_mul_of_nonneg_left hg' hd
    rw [if_pos h1]
    omega
  · have h1 : d * g ≤ 0 := Int.mul_nonpos_of_nonpos_of_nonneg hd hg0
    have h2 : d * 65535 ≤ d * g := Int.mul_le_mul_of_nonpos_left hd hg'
    split <;> omega

/-- The panel temperature stays between the air's and its own (R146). -/
theorem tempOk_tempStep {air temp : Int} {g : Nat} (ha : tempOk air) (ht : tempOk temp) (hg : g ≤ 65535) :
    tempOk (tempStep air temp g) := by
  obtain ⟨h1, h2⟩ := roundQ16_between (d := air - temp) hg
  unfold tempOk tempStep at *
  rcases Int.le_total 0 (air - temp) with h | h
  · have := h1 h; omega
  · have := h2 h; omega

theorem cureOk_cureUpdate {gain : Nat} {air : Int} {prof : CureProfile} {now : Tick} {c : Cure} (ha : tempOk air)
    (hc : cureOk c) : cureOk (cureUpdate gain air prof now c) := by
  obtain ⟨ht, hp, hd, ho⟩ := hc
  have ht' := tempOk_tempStep (g := gainStep gain (now - c.last).toNat) ha ht (Nat.min_le_left _ _)
  refine ⟨ht', ?_, ?_, Nat.min_le_left _ _⟩
  · unfold tempOk at *
    simp only [cureUpdate]
    omega
  · simp only [cureUpdate]
    split
    · exact Nat.min_le_left _ _
    · exact hd

theorem CureEdit.cureOk {s : State} {a b : Option Cure} {c : Cure} (he : CureEdit s a b) (hs : s.ovenOk)
    (ha : ∀ x, a = some x → cureOk x) (hb : b = some c) : cureOk c := by
  obtain ⟨-, hamb, hzones, -⟩ := hs
  cases he with
  | same => exact ha c hb
  | transferred =>
    obtain rfl := Option.some.inj hb
    have ht : tempOk s.params.ambient := by unfold tempOk; omega
    cases a with
    | none => exact ⟨ht, by simp [tempOk, cureAtTransfer], Nat.zero_le _, Nat.zero_le _⟩
    | some x =>
      obtain ⟨-, hp, hd, ho⟩ := ha x rfl
      exact ⟨ht, hp, hd, ho⟩
  | updated x gain i z prof hz =>
    obtain rfl := Option.some.inj hb
    exact cureOk_cureUpdate (hzones i z hz).1 (ha x rfl)
  | judged x v =>
    obtain rfl := Option.some.inj hb
    exact ha x rfl

/-! ### The kinds of step -/

/-- The oven's ranges from the parts of the state that they read. -/
theorem State.ovenOk_of_fields {s t : State} (hs : s.ovenOk) (h1 : t.params.staleLimit = s.params.staleLimit)
    (h2 : t.params.ambient = s.params.ambient) (h3 : t.zones = s.zones)
    (h4 : ∀ k q c, t.panel k = some q → q.cure = some c →
      (∃ p, s.panel k = some p ∧ p.cure = some c) ∨ cureOk c) : t.ovenOk := by
  obtain ⟨hl, ha, hz, hc⟩ := hs
  refine ⟨h1 ▸ hl, h2 ▸ ha, h1 ▸ h3 ▸ hz, fun k q c hq e => ?_⟩
  rcases h4 k q c hq e with ⟨p, hp, e⟩ | h
  · exact hc k p c hp e
  · exact h

theorem State.ovenOk_setSlot {s : State} {h : Nat} {o : Option Panel} (hs : s.ovenOk)
    (ho : ∀ q c, o = some q → q.cure = some c → cureOk c) : (s.setSlot h o).ovenOk := by
  refine State.ovenOk_of_fields hs rfl rfl rfl fun k q c hq e => ?_
  by_cases hk : k = h
  · subst k
    by_cases hh : h < 48
    · rw [State.panel_setSlot_self _ hh] at hq
      exact .inr (ho q c hq e)
    · exact absurd (State.panel_lt hq) hh
  · rw [State.panel_setSlot_ne _ hk] at hq
    exact .inl ⟨q, hq, e⟩

theorem State.zones_modZone (s : State) (i j : Nat) (f : Zone → Zone) :
    (s.modZone i f).zones[j]? = if j = i then (s.zones[j]?).map f else s.zones[j]? := by
  unfold State.modZone
  split
  · rename_i e
    split
    · subst j; simp [e]
    · rfl
  · rename_i z e
    have hi : i < 6 := by
      by_contra hn
      simp [Vector.getElem?_eq_none (Nat.le_of_not_lt hn)] at e
    simp only [Vector.getElem?_setIfInBounds]
    by_cases hj : i = j
    · subst j; rw [e]; simp [hi]
    · simp [hj, Ne.symm hj]

theorem State.zones_relimitAt (s : State) (i j : Nat) :
    (s.relimitAt i).zones[j]? = if j = i then (s.zones[j]?).map (relimit s.params.staleLimit) else s.zones[j]? := by
  have ha : ∀ (u : State) b, (u.alarmIfInvalid b i).zones = u.zones := by
    intro u b
    unfold State.alarmIfInvalid
    split; · rfl
    split <;> rfl
  unfold State.relimitAt
  split
  · rename_i e
    split
    · subst j; simp [e]
    · rfl
  · rw [ha, State.zones_modZone]

theorem State.params_relimitAt (s : State) (i : Nat) : (s.relimitAt i).params = s.params := by
  obtain ⟨-, -, -, -, h, -⟩ := State.fields_of_zoneRest (s.relimitAt_zoneRest i)
  exact h

theorem State.zones_relimitAll {s : State} {i : Nat} {z : Zone} (h : s.relimitAll.zones[i]? = some z) :
    ∃ x, s.zones[i]? = some x ∧ z = relimit s.params.staleLimit x := by
  have hi : i < 6 := by
    by_contra hn
    simp [Vector.getElem?_eq_none (Nat.le_of_not_lt hn)] at h
  simp only [State.relimitAll, State.zones_relimitAt, State.params_relimitAt] at h
  have : (s.zones[i]?).map (relimit s.params.staleLimit) = some z := by
    rw [← h]
    interval_cases i <;> simp
  obtain ⟨x, hx, rfl⟩ := Option.map_eq_some_iff.1 this
  exact ⟨x, hx, rfl⟩

theorem Evolves.ovenOk {s t : State} (h : Evolves s t) (hs : s.ovenOk) : t.ovenOk := by
  induction h with
  | quiet h =>
    have hv := h.view
    simp only [State.recordView, RecordView.mk.injEq] at hv
    obtain ⟨h1, -, -, -, h5, h6, h7⟩ := hv
    exact State.ovenOk_of_fields hs h6 h7 h5 fun k q c hq e => .inl ⟨q, by rwa [← State.panel_of_slots h1], e⟩
  | trans _ _ ih1 ih2 => exact ih2 (ih1 hs)
  | @panel s h p q hp he =>
    refine State.ovenOk_setSlot hs fun q' c e hc => ?_
    cases e
    exact he.cure.cureOk hs (fun x hx => hs.2.2.2 h p x hp hx) hc
  | @create s h rest l hf =>
    refine State.ovenOk_setSlot (s := { s with freeList := rest }) hs fun q c e hc => ?_
    cases e
    cases hc
  | @identify s h p id hp hn hf =>
    have : (s.modPanel h fun p => { p with id := some id }).ovenOk := by
      rw [State.modPanel_of_live hp]
      refine State.ovenOk_setSlot hs fun q c e hc => ?_
      cases e
      exact hs.2.2.2 h p c hp hc
    exact this
  | @assign s h p r m hp =>
    rw [State.moveRefs_frame]
    have : (s.setSlot h (some { p with recipe := some r, mask := m })).ovenOk := by
      refine State.ovenOk_setSlot hs fun q c e hc => ?_
      cases e
      exact hs.2.2.2 h p c hp hc
    exact this
  | parts hx h0 hy => exact hs
  | @zone s i f hz =>
    obtain ⟨hl, ha, hzones, hc⟩ := hs
    refine ⟨by simpa using hl, by simpa using ha, fun j y hy => ?_, fun k p c hp => ?_⟩
    · simp only [State.modZone_params]
      rw [State.zones_modZone] at hy
      split at hy
      · obtain ⟨x, hx, rfl⟩ := Option.map_eq_some_iff.1 hy
        subst j
        exact (hz x hx).zoneOk hl.1 (hzones i x hx)
      · exact hzones j y hy
    · exact hc k p c (by simpa using hp)
  | @relimit s n h1 h5 =>
    obtain ⟨hl, ha, hzones, hc⟩ := hs
    obtain ⟨e1, -, -, -, e5, -⟩ := State.fields_of_zoneRest
      (State.relimitAll_zoneRest (s.writeParams fun p => { p with staleLimit := n }))
    refine ⟨by rw [e5]; exact ⟨h1, h5⟩, by rw [e5]; exact ha, fun i z hz => ?_, fun k p c hp => ?_⟩
    · rw [e5]
      obtain ⟨x, hx, rfl⟩ := State.zones_relimitAll hz
      exact zoneOk_relimit hl.1 h1 (hzones i x hx)
    · exact hc k p c (by rwa [State.panel_of_slots e1] at hp)
  | ambient v h1 h2 =>
    obtain ⟨hl, -, hzones, hc⟩ := hs
    exact ⟨hl, ⟨h1, h2⟩, hzones, hc⟩

theorem State.ovenOk_serveRetire {s : State} (hs : s.ovenOk) (h d : Nat) : (serveRetire h d s).1.ovenOk := by
  rcases serveRetire_cases h d s with e | ⟨p, hp, -, -, -, e⟩ <;> rw [e]
  · exact hs
  · rw [State.retireRecord_frame]
    exact State.ovenOk_setSlot (h := h) (o := none) hs fun q c e => by cases e

theorem State.ovenOk_serveReenter {s : State} (hs : s.ovenOk) (h l p : Nat) : (serveReenter h l p s).1.ovenOk := by
  rcases serveReenter_cases h l p s with e | ⟨p, l, rp, hp, -, -, e⟩ <;> rw [e]
  · exact hs
  · obtain ⟨-, -, -, -, hcure⟩ := reentered_keeps l rp p
    have : (s.setSlot h (some (reentered l rp p))).ovenOk := by
      refine State.ovenOk_setSlot hs fun q c e hc => ?_
      cases e
      obtain ⟨a, ha, rfl⟩ := hcure c hc
      exact hs.2.2.2 h p a hp ha
    exact this

theorem State.reset_ovenOk : State.reset.ovenOk := by
  refine ⟨by decide, by decide, fun i z hz => ?_, fun k p c hp => ?_⟩
  · simp only [State.reset, Vector.getElem?_replicate] at hz
    split at hz
    · cases hz
      refine ⟨⟨by decide, by decide⟩, by decide, by decide, by decide, by decide, fun d e => (by cases e),
        fun e he => (by cases he)⟩
    · cases hz
  · rw [State.reset_panel] at hp
    cases hp

/-- Settles O9: each kind of step keeps zone entries and cure fields in range, and so does every command. -/
theorem ovenRangesKept : Obligations.OvenRangesKept := by
  intro s t hs h
  exact step_keeps_records (fun _ _ h hs => h.ovenOk hs) (fun _ h d hs => State.ovenOk_serveRetire hs h d)
    (fun _ h l p hs => State.ovenOk_serveReenter hs h l p) (fun _ => State.reset_ovenOk) hs h

end Sys2Proof.Machine
end

section
/-! SUPPORT. The lists keep their capacities (R47, R50, R72, R87). -/

namespace Sys2Proof.Machine

/-- The capacities read the lanes, the mask verifier and the station link alone. -/
theorem State.capacityOk_of_fields {s t : State} (hs : s.capacityOk) (h1 : t.ltk = s.ltk) (h2 : t.mvf = s.mvf)
    (h3 : t.slr = s.slr) : t.capacityOk := by
  rw [State.capacityOk, h1, h2, h3]; exact hs

theorem Evolves.capacityOk {s t : State} (h : Evolves s t) (hs : s.capacityOk) : t.capacityOk := by
  induction h with
  | quiet h => exact h.capacity hs
  | trans _ _ ih1 ih2 => exact ih2 (ih1 hs)
  | panel | create | parts | ambient => exact hs
  | @identify s h p id =>
    exact State.capacityOk_of_fields hs (s.modPanel_ltk h _) (s.modPanel_mvf h _) (s.modPanel_slr h _)
  | assign => rw [State.moveRefs_frame]; exact hs
  | zone => exact State.capacityOk_of_fields hs (by simp) (by simp) (by simp)
  | @relimit s n =>
    obtain ⟨-, -, -, -, -, e6, e7, e8⟩ := State.fields_of_zoneRest
      (State.relimitAll_zoneRest (s.writeParams fun p => { p with staleLimit := n }))
    exact State.capacityOk_of_fields hs e6 e7 e8

theorem State.capacityOk_serveRetire {s : State} (hs : s.capacityOk) (h d : Nat) :
    (serveRetire h d s).1.capacityOk := by
  rcases serveRetire_cases h d s with e | ⟨p, -, -, -, -, e⟩ <;> rw [e]
  · exact hs
  · rw [State.retireRecord_frame]; exact hs

theorem State.capacityOk_serveReenter {s : State} (hs : s.capacityOk) (h l p : Nat) :
    (serveReenter h l p s).1.capacityOk := by
  rcases serveReenter_cases h l p s with e | ⟨p, l, rp, -, -, hroom, e⟩ <;> rw [e]
  · exact hs
  · refine (Quiet.modLtk (s := s.setSlot h (some (reentered l rp p))) ⟨id, id, fun _ => ?_⟩).capacity hs
    simp only [State.setSlot_ltk, List.length_append, List.length_singleton]
    omega

theorem State.reset_capacityOk : State.reset.capacityOk :=
  ⟨fun l => by cases l <;> decide, Nat.zero_le _⟩

theorem listCapacitiesKept : Claims.ListCapacitiesKept := by
  intro s t hs h
  exact step_keeps_records (fun _ _ h hs => h.capacityOk hs) (fun _ h d hs => State.capacityOk_serveRetire hs h d)
    (fun _ h l p hs => State.capacityOk_serveReenter hs h l p) (fun _ => State.reset_capacityOk) hs h

end Sys2Proof.Machine
end

section
/-! SUPPORT. A FIXED hold stays (R22, R167): no edit of a hold list removes the last FIXED entry, a FIXED entry governs,
and a record without governing hold alone becomes DONE. -/

namespace Sys2Proof.Machine

/-! ### FIXED entries in a hold list -/

/-- The hold list carries a FIXED entry (R153). -/
def HasFixed (holds : List HoldEntry) : Prop := ∃ e ∈ holds, e.reason.fixed = true

/-- No hold mask covers a FIXED reason (R29, R156). -/
theorem covers_of_fixed (m : HoldMask) {r : HoldReason} (h : r.fixed = true) : m.covers r = false := by
  cases r with
  | overtemp | overcure => rfl
  | _ => cases h

theorem mem_insertByRank (prm : Params) (m : HoldMask) (e x : HoldEntry) (xs : List HoldEntry) :
    x ∈ insertByRank prm m e xs ↔ x = e ∨ x ∈ xs := by
  induction xs with
  | nil => simp [insertByRank]
  | cons y ys ih =>
    unfold insertByRank
    split
    · simp
    · simp only [List.mem_cons, ih]; tauto

theorem mem_inRankOrder (prm : Params) (m : HoldMask) (x : HoldEntry) (holds : List HoldEntry) :
    x ∈ inRankOrder prm m holds ↔ x ∈ holds := by
  unfold inRankOrder
  induction holds with
  | nil => rfl
  | cons e es ih => rw [List.foldr_cons, mem_insertByRank, ih, List.mem_cons]

/-- No hold governs exactly when every entry is masked (R158). -/
theorem governingOf_eq_none_iff (prm : Params) (m : HoldMask) (holds : List HoldEntry) :
    governingOf prm m holds = none ↔ ∀ e ∈ holds, m.covers e.reason = true := by
  simp [governingOf, mem_inRankOrder]

theorem HasFixed.governing {s : State} {p : Panel} (h : HasFixed p.holds) : s.governingPanel p ≠ none := by
  obtain ⟨e, he, hf⟩ := h
  rw [State.governingPanel, Ne, governingOf_eq_none_iff]
  intro hall
  exact absurd (hall e he) (by simp [covers_of_fixed _ hf])

/-- Only a FIXED reason outranks a FIXED one (R157). -/
theorem fixed_of_outranks {prm : Params} {m : HoldMask} {a b : HoldReason}
    (h : (rankOf prm m a).outranks (rankOf prm m b) = true) (hb : b.fixed = true) : a.fixed = true := by
  by_contra ha
  cases hm : m.covers a <;> simp [Rank.outranks, rankOf, covers_of_fixed m hb, hb, hm, ha] at h

@[simp] theorem bumpEntry_reason (r : HoldReason) (e : HoldEntry) : (bumpEntry r e).reason = e.reason := by
  unfold bumpEntry
  split <;> rfl

theorem HasFixed.append {a b : List HoldEntry} (h : HasFixed a) : HasFixed (a ++ b) := by
  obtain ⟨e, he, hf⟩ := h
  exact ⟨e, List.mem_append_left _ he, hf⟩

theorem HasFixed.raise {p : Panel} (h : HasFixed p.holds) (prm : Params) (m : HoldMask) (r : HoldReason) :
    HasFixed (p.raise prm m r).1.holds := by
  obtain ⟨e, he, hf⟩ := h
  unfold Panel.raise
  simp only
  split
  · exact ⟨_, List.mem_map.2 ⟨e, he, rfl⟩, by rw [bumpEntry_reason]; exact hf⟩
  split
  · exact HasFixed.append ⟨e, he, hf⟩
  split
  · exact ⟨e, he, hf⟩
  rename_i low _
  split
  · rename_i hout
    by_cases hr : e.reason = low.reason
    · have : r.fixed = true := fixed_of_outranks hout (hr ▸ hf)
      exact ⟨newEntry r, by simp, this⟩
    · exact HasFixed.append ⟨e, List.mem_filter.2 ⟨he, by simpa using hr⟩, hf⟩
  · exact ⟨e, he, hf⟩

theorem HasFixed.takeInService {holds : List HoldEntry} (h : HasFixed holds) (k : Rank) (r : HoldReason) :
    HasFixed (takeInService k r holds) := by
  obtain ⟨e, he, hf⟩ := h
  unfold Machine.takeInService
  by_cases hr : e.reason = r
  · refine ⟨{ e with state := .inService k }, List.mem_append_right _ (List.mem_map.2 ⟨e, ?_, rfl⟩), hf⟩
    exact List.mem_filter.2 ⟨he, by simpa using hr⟩
  · exact ⟨e, List.mem_append_left _ (List.mem_filter.2 ⟨he, by simpa using hr⟩), hf⟩

/-- No edit of a hold list removes its last FIXED entry (R160, R166, R167). -/
theorem HoldsEdit.hasFixed {s : State} {p : Panel} {holds : List HoldEntry} (he : HoldsEdit s p holds)
    (h : HasFixed p.holds) : HasFixed holds := by
  cases he with
  | same => exact h
  | raised r => exact h.raise _ _ r
  | served r _ => exact h.takeInService _ r
  | released top _ hf =>
    obtain ⟨e, hm, hfix⟩ := h
    refine ⟨e, List.mem_filter.2 ⟨hm, ?_⟩, hfix⟩
    have : e.reason ≠ top.reason := fun heq => by rw [heq, hf] at hfix; cases hfix
    simpa using this

/-! ### A record with a FIXED hold -/

/-- The handle's record is live, not DONE and carries a FIXED hold. -/
def State.fixedHeld (s : State) (h : Nat) : Prop :=
  ∃ p, s.panel h = some p ∧ p.stage ≠ .done ∧ HasFixed p.holds

theorem State.fixedHeld_of_slots {s t : State} {h : Nat} (hs : s.fixedHeld h) (e : t.slots = s.slots) :
    t.fixedHeld h := by
  obtain ⟨p, hp, hrest⟩ := hs
  exact ⟨p, by rwa [State.panel_of_slots e], hrest⟩

/-- One slot changes, and its record stays held. -/
theorem State.fixedHeld_setSlot {s : State} {h k : Nat} {p q : Panel} (hs : s.fixedHeld k) (hp : s.panel h = some p)
    (hq : p.stage ≠ .done → HasFixed p.holds → q.stage ≠ .done ∧ HasFixed q.holds) :
    (s.setSlot h (some q)).fixedHeld k := by
  obtain ⟨x, hx, hst, hf⟩ := hs
  by_cases e : k = h
  · subst k
    obtain rfl : p = x := Option.some.inj (hp.symm.trans hx)
    obtain ⟨h1, h2⟩ := hq hst hf
    exact ⟨q, State.panel_setSlot_self _ (State.panel_lt hp), h1, h2⟩
  · exact ⟨x, by rw [State.panel_setSlot_ne _ e]; exact hx, hst, hf⟩

theorem Evolves.fixedHeld {s t : State} {k : Nat} (h : Evolves s t) (hok : s.storeOk) (hs : s.fixedHeld k) :
    t.fixedHeld k := by
  induction h with
  | quiet h =>
    have hv := h.view
    simp only [State.recordView, RecordView.mk.injEq] at hv
    exact State.fixedHeld_of_slots hs hv.1
  | trans h1 _ ih1 ih2 => exact ih2 (h1.storeOk hok) (ih1 hok hs)
  | panel hp he =>
    refine State.fixedHeld_setSlot hs hp fun hst hf => ⟨fun e => ?_, he.holds.hasFixed hf⟩
    exact (he.done e).elim hst hf.governing
  | @create s h rest l hf =>
    obtain ⟨-, hnone⟩ := State.panel_of_freeList hok.1 (h := h) (by rw [hf]; exact List.mem_cons_self)
    obtain ⟨p, hp, hrest⟩ := hs
    have hne : k ≠ h := fun e => by rw [e, hnone] at hp; cases hp
    refine ⟨p, ?_, hrest⟩
    rw [← hp]
    exact State.panel_setSlot_ne (s := { s with freeList := rest }) _ hne
  | @identify s h p id hp hn hf =>
    have : (s.modPanel h fun p => { p with id := some id }).fixedHeld k := by
      rw [State.modPanel_of_live hp]
      exact State.fixedHeld_setSlot hs hp fun h1 h2 => ⟨h1, h2⟩
    exact this
  | @assign s h p r m hp =>
    have := State.fixedHeld_setSlot (q := { p with recipe := some r, mask := m }) hs hp fun h1 h2 => ⟨h1, h2⟩
    exact State.fixedHeld_of_slots this (by rw [State.moveRefs_frame])
  | parts => exact hs
  | zone => exact State.fixedHeld_of_slots hs (by simp)
  | @relimit s n =>
    obtain ⟨e1, -⟩ := State.fields_of_zoneRest
      (State.relimitAll_zoneRest (s.writeParams fun p => { p with staleLimit := n }))
    exact State.fixedHeld_of_slots hs e1
  | ambient => exact hs

/-- RETIRE of a record with a FIXED hold that is not DONE frees it only with SCRAP (R22). -/
theorem State.fixedHeld_serveRetire {s : State} {k : Nat} (hs : s.fixedHeld k) (h d : Nat) :
    (serveRetire h d s).1.fixedHeld k ∨ (h = k ∧ d = 1) := by
  rcases serveRetire_cases h d s with e | ⟨p, hp, hd, ha, hh, e⟩ <;> rw [e]
  · exact .inl hs
  · obtain ⟨x, hx, hst, hf⟩ := hs
    by_cases hk : k = h
    · subst k
      obtain rfl : p = x := Option.some.inj (hp.symm.trans hx)
      have hparked : p.stage = .parked := by simpa [retireAllowed, hst] using ha
      have hne : p.holds ≠ [] := by
        obtain ⟨y, hy, -⟩ := hf
        exact List.ne_nil_of_mem hy
      have : d ≠ 0 := fun e => hh ⟨hparked, e, hne⟩
      exact .inr ⟨rfl, by omega⟩
    · refine .inl ⟨x, ?_, hst, hf⟩
      rw [State.retireRecord_frame, ← hx]
      exact State.panel_setSlot_ne (s := s) _ hk

theorem State.fixedHeld_serveReenter {s : State} {k : Nat} (hs : s.fixedHeld k) (h l p : Nat) :
    (serveReenter h l p s).1.fixedHeld k := by
  rcases serveReenter_cases h l p s with e | ⟨p, l, rp, hp, -, -, e⟩ <;> rw [e]
  · exact hs
  · obtain ⟨-, -, hholds, hstage, -⟩ := reentered_keeps l rp p
    have := State.fixedHeld_setSlot (q := reentered l rp p) hs hp fun _ hf => ⟨by simp [hstage], hholds ▸ hf⟩
    exact State.fixedHeld_of_slots this rfl

/-- Settles O13: by the kinds of step, with RETIRE and REENTER apart. -/
theorem fixedHoldStays : Obligations.FixedHoldStays := by
  intro c s t h p hok hx hc hp hst hf
  have hs : s.fixedHeld h := ⟨p, hp, hst, hf⟩
  have hquiet : ∀ {u : State}, u.fixedHeld h → Quiet u t → t.fixedHeld h := fun hu hq => by
    have hv := hq.view
    simp only [State.recordView, RecordView.mk.injEq] at hv
    exact State.fixedHeld_of_slots hu hv.1
  rcases exec_cases hx with he | ⟨k, d, hcar, hq⟩ | ⟨k, l, rp, -, hq⟩ | ⟨rfl, -⟩
  · exact .inl (he.fixedHeld hok hs)
  · rcases State.fixedHeld_serveRetire hs k d with hkept | ⟨rfl, rfl⟩
    · exact .inl (hquiet hkept hq)
    · exact .inr hcar
  · exact .inl (hquiet (State.fixedHeld_serveReenter hs k l rp) hq)
  · exact absurd rfl hc

end Sys2Proof.Machine
end

section
/-! SUPPORT. Every step keeps the records and the lists they stand in agreed (R6, R7, R47, R50, R84): each command is
one of the operations that keep `LineEx`, or leaves alone all that it reads. -/

namespace Sys2Proof.Machine

/-! ### Operations that leave the view alone -/

section
variable (s : State)

@[simp] theorem lineView_modSlr (f : StationLink → StationLink) : (s.modSlr f).lineView = s.lineView := rfl

@[simp] theorem lineView_abandonIfQuiet : s.abandonIfQuiet.lineView = s.lineView := by
  unfold State.abandonIfQuiet
  split <;> rfl

@[simp] theorem lineView_enterBreak : s.enterBreak.lineView = s.lineView := by
  unfold State.enterBreak
  split <;> rfl

@[simp] theorem lineView_lineQuiet : s.lineQuiet.lineView = s.lineView := by
  unfold State.lineQuiet
  split
  · rw [lineView_abandonIfQuiet, lineView_modSlr]
  · rfl

@[simp] theorem lineView_assemble : s.assemble.lineView = s.lineView := by
  unfold State.assemble
  split
  · rfl
  split
  · simp only [lineView_abandonIfQuiet]
    split <;> rfl
  · rfl

@[simp] theorem lineView_clockedFrame (bits : List Bool) : (s.clockedFrame bits).lineView = s.lineView := by
  have h1 : ∀ f, (s.onFrame f).lineView = s.lineView := fun f => by
    unfold State.onFrame
    split <;> rfl
  have h2 : ∀ n, (s.ignoreFrame n).lineView = s.lineView := fun n => by
    unfold State.ignoreFrame
    simp only
    split
    · exact h1 _
    · exact h1 _
  rcases s.clockedFrame_cases bits with ⟨-, e⟩ | ⟨-, e⟩ | ⟨-, -, e⟩ <;> rw [e]
  · exact h1 _
  · exact h1 _
  · exact h2 _

end

/-! ### Commands -/

section
variable {s t : State}

theorem lineOk_of_view (hs : s.lineOk) (h : t.lineView = s.lineView) : t.lineOk :=
  (lineOk_iff t).2 fun hr => .of_view h <| (lineOk_iff s).1 hs <| (congrArg LineView.inReset h).symm.trans hr

/-- An event, which acts while the part runs alone. -/
theorem lineOk_of_event {f : State → State} (hs : s.lineOk) (h : whenRunning f s = .next t)
    (hf : LineEx s (fun _ => False) → LineEx (f s) fun _ => False) : t.lineOk := by
  rcases whenRunning_cases h with rfl | ⟨hr, rfl⟩
  · exact hs
  · exact (lineOk_iff _).2 fun _ => hf ((lineOk_iff s).1 hs hr)

/-- An event that leaves the view alone. -/
theorem lineOk_of_quiet {f : State → State} (hs : s.lineOk) (h : whenRunning f s = .next t)
    (hf : (f s).lineView = s.lineView) : t.lineOk :=
  lineOk_of_event hs h (.of_view hf)

/-- The event of a rising edge, which sees the state with the new level kept (R186). -/
theorem LineEx.onEdge {ex : Nat → Prop} {l : LaneNo} {k : LaneInput} {v : Bool} {ev : State → State}
    (hs : LineEx s ex) (hf : LineEx (s.keepLevel l k v) ex → LineEx (ev (s.keepLevel l k v)) ex) :
    LineEx (s.onEdge l k v ev) ex := by
  have hk : LineEx (s.keepLevel l k v) ex := .of_view (lineView_keepLevel ..) hs
  unfold State.onEdge
  split
  · exact hf hk
  · exact hk

/-- A request row acts when its request is in process (log 3). -/
theorem lineOk_of_request {c : Instr} (hb : s.boothOk) (hm : s.modeOk) (hs : s.lineOk)
    (hx : exec c s = takeEffect c (serve c) s) (h : exec c s = .next t) : t.lineOk := by
  rw [hx] at h
  cases hp : s.inProcess c with
  | true =>
    rw [takeEffect_in hp] at h
    cases h
    have hl := (lineOk_iff s).1 hs ((State.inProcess_iff s c).1 hp).1
    exact (lineOk_iff _).2 fun _ => .of_view (s := (serve c s).1) rfl (hl.serve hb hm c)
  | false =>
    rw [takeEffect_out hp] at h
    cases h
    exact hs

theorem LineEx.complete {ex : Nat → Prop} (hs : LineEx s ex) (hb : s.boothOk) (hm : s.modeOk) :
    LineEx s.complete ex := by
  unfold State.complete
  split
  · split
    · exact .of_view (s := s) rfl hs
    · unfold State.completeUnserved
      split
      · exact .of_view (s := s) rfl hs
      · exact .of_view (s := s) rfl hs
      · exact .of_view (s := (Machine.serve _ s).1) rfl (hs.serve hb hm _)
    · exact hs
  · exact hs

theorem State.lineOk_beginReset (s : State) : s.beginReset.lineOk := fun h => by cases h

/-- Right after reset no slot is live and every list is empty (R24, R42). -/
theorem State.reset_lineEx : LineEx State.reset fun _ => False := by
  have hnone := State.reset_panel
  have hempty : ∀ (f : LaneNo → List Nat) (kind : LaneNo → Panel → Prop), (∀ l, f l = []) →
      State.reset.lists f kind := fun f kind hf l => by simp [hf, hnone]
  refine ⟨fun k p hp => ?_, hempty _ _ ?_, hempty _ _ ?_, hempty _ _ ?_, hempty _ _ ?_, fun a b p q hp => ?_,
    fun l k hk => ?_, fun k p pl hp => ?_, fun hrun => by cases hrun⟩
  · rw [hnone] at hp; cases hp
  · intro l; cases l <;> rfl
  · intro l; cases l <;> rfl
  · intro l; cases l <;> rfl
  · intro l; cases l <;> rfl
  · rw [hnone] at hp; cases hp
  · cases l <;> cases hk
  · rw [hnone] at hp; cases hp

theorem State.reset_lineOk : State.reset.lineOk := (lineOk_iff _).2 fun _ => State.reset_lineEx

theorem State.lineOk_endReset (s : State) : s.endReset.lineOk := lineOk_of_view State.reset_lineOk rfl

/-- What every command does to the records and the lists they stand in. -/
theorem State.lineOk_exec {c : Instr} (hf : s.freeListOk) (hb : s.boothOk) (hm : s.modeOk) (hs : s.lineOk)
    (h : exec c s = .next t) : t.lineOk := by
  cases c with
  | requestFrame bits | fetchFrame bits | ignoredFrame bits =>
    cases h; exact lineOk_of_view hs (lineView_clockedFrame s bits)
  | processingComplete => exact lineOk_of_event hs h fun hl => hl.complete hb hm
  | csnFallingEdge => cases h; exact lineOk_of_view hs rfl
  | rxdEdge level =>
    simp only [exec, execRxdEdge] at h
    split at h <;> cases h <;> exact lineOk_of_view hs rfl
  | deviceReset cause =>
    simp only [exec, execDeviceReset] at h
    split at h <;> cases h
    · exact s.lineOk_beginReset
    · exact hs
  | resetEnd =>
    simp only [exec, execResetEnd] at h
    split at h <;> cases h
    · exact s.lineOk_endReset
    · exact hs
  | encoderCount l sec v => exact lineOk_of_event hs h fun hl => hl.onEdge fun hk => hk.count hm l sec
  | eyeEntry l v => exact lineOk_of_event hs h fun hl => hl.onEdge fun hk => hk.entryEdge hf l
  | eyeOven l v => exact lineOk_of_event hs h fun hl => hl.onEdge fun hk => hk.ovenEdge hm l
  | eyeUnload l v => exact lineOk_of_event hs h fun hl => hl.onEdge fun hk => hk.unloadEdge l
  | moveDone l v => exact lineOk_of_event hs h fun hl => hl.onEdge fun hk => hk.moveDoneEdge l
  | flowPulse l v => exact lineOk_of_event hs h fun hl => hl.onEdge fun hk => .of_view (lineView_countPulse ..) hk
  | settledEvent l => exact lineOk_of_event hs h fun hl => hl.quietEnd l
  | inspectWindowExpiry k => exact lineOk_of_event hs h fun hl => hl.windowTimeout k
  | idRead => exact lineOk_of_event hs h fun hl => hl.takeRead
  | maskReport => exact lineOk_of_event hs h fun hl => hl.takeReport
  | durationExpiry l => exact lineOk_of_event hs h fun hl => hl.durationEnd l
  | recoatExpiry l => exact lineOk_of_event hs h fun hl => hl.recoatEnd l
  | flashClaimExpiry l => exact lineOk_of_quiet hs h (lineView_claimEnd s l)
  | divertPulseEnd l g => exact lineOk_of_quiet hs h (lineView_pulseEnd s l g)
  | inspectTrigPulseEnd l => exact lineOk_of_quiet hs h (lineView_trigPulseEnd s l)
  | inspectTrigRecoveryEnd l => exact lineOk_of_quiet hs h (lineView_trigRecoveryEnd s l)
  | breakEntry => exact lineOk_of_quiet hs h (lineView_enterBreak s)
  | lineQuiet => exact lineOk_of_quiet hs h (lineView_lineQuiet s)
  | assemblerByteTake => exact lineOk_of_quiet hs h (lineView_assemble s)
  | gantryTransferEnd => exact lineOk_of_quiet hs h (lineView_portEnd s)
  | moveTimeout l => exact lineOk_of_quiet hs h (lineView_moveTimeoutEnd s l)
  | gantryErr l v => exact lineOk_of_quiet hs h (lineView_gantryErrSample s l v)
  | pollCompletion rs => exact lineOk_of_quiet hs h (lineView_completePoll s rs)
  | tachEdge z v n => exact lineOk_of_quiet hs h (lineView_readTach ..)
  | stallWatchExpiry z n =>
    exact lineOk_of_quiet hs (f := fun s => (s.atSample (s.sampleAt n)).stallAt z (s.sampleAt n)) h
      (lineView_stallAt ..)
  | pollStart => exact lineOk_of_quiet hs h (by split <;> rfl)
  | tick | characterReceived | breakEnd => exact lineOk_of_quiet hs h rfl
  | _ => exact lineOk_of_request hb hm hs rfl h

theorem lineKept : Claims.LineKept := by
  intro s t hstore hb hm hs h
  unfold step at h
  split at h
  · cases h; exact hs
  · rename_i c q _
    exact State.lineOk_exec (s := { s with pending := q }) hstore.1 hb hm hs h

end

/-! ### Inspecting lists -/

/-- A list of 4-bit tags without repeats holds at most 16 of them. -/
theorem length_le_of_nodup_tags {tags : List (BitVec 4)} (h : tags.Nodup) : tags.length ≤ 16 := by
  have hinj : Function.Injective (BitVec.toFin (w := 4)) := fun _ _ => BitVec.eq_of_toFin_eq
  simpa using (h.map hinj).length_le_card

/-- The tag of a handle's record, if the handle is live and its record inspected. -/
def State.tagOf (s : State) (h : Nat) : Option (BitVec 4) := (s.panel h).bind Panel.inspectTag

theorem inspectingAtMost16 : Claims.InspectingAtMost16 := by
  intro s l hs hr
  obtain ⟨hplaced, -, -, -, hins, htags, -⟩ := hs hr
  obtain ⟨hnodup, hmem⟩ := hins l
  have hrec : ∀ h ∈ (s.mvf.get l).inspecting.map Window.handle,
      ∃ p tag, s.panel h = some p ∧ p.lane = l ∧ p.stage = .inspecting ∧ p.inspectTag = some tag := by
    intro h hh
    obtain ⟨p, hp, hl, hst⟩ := (hmem h).1 hh
    obtain ⟨tag, htag⟩ := Option.isSome_iff_exists.1 ((hplaced h p hp).2.2.1.2 hst)
    exact ⟨p, tag, hp, hl, hst, htag⟩
  have hinj : (((s.mvf.get l).inspecting.map Window.handle).map fun h => (s.tagOf h).getD 0).Nodup := by
    refine (List.nodup_map_iff_inj_on hnodup).2 fun a ha b hb e => ?_
    obtain ⟨p, x, hp, hpl, hpst, hpx⟩ := hrec a ha
    obtain ⟨q, y, hq, hql, hqst, hqy⟩ := hrec b hb
    have hxy : x = y := by simpa [State.tagOf, hp, hq, hpx, hqy] using e
    exact htags a b p q hp hq hpst hqst (hpl.trans hql.symm) (by rw [hpx, hqy, hxy])
  simpa using length_le_of_nodup_tags hinj

/-- Settles O8: the capacities, the lists and the bound on the inspecting lists. -/
theorem capacitiesKept : Obligations.CapacitiesKept := ⟨listCapacitiesKept, lineKept, inspectingAtMost16⟩

end Sys2Proof.Machine
end

section
/-! SUPPORT. The state right after reset (R24, R42, R69, R133, R142, R184). -/

namespace Sys2Proof.Machine

theorem State.reset_holdListsOk : State.reset.holdListsOk := fun h p hp => by rw [State.reset_panel] at hp; cases hp

theorem State.reset_boothOk : State.reset.boothOk := fun l => by cases l <;> simp [boothLaneOk, reset, PerLane.get,
  Channel.reset, LaneTrack.reset]

theorem State.reset_modeOk : State.reset.modeOk :=
  ⟨fun _ l => by cases l <;> exact ⟨rfl, rfl, rfl, rfl, rfl, rfl⟩, fun h => by cases h⟩

theorem State.reset_recipesOk : State.reset.recipesOk := by
  refine ⟨fun i g hg => ?_, fun r x hx => ?_⟩
  · simp only [State.reset, Vector.getElem?_replicate] at hg
    split at hg <;> cases hg
  · obtain rfl := State.recipe_of_reset hx
    exact ⟨⟨List.Pairwise.nil, fun z hz => by cases hz⟩, fun b hb => by cases hb⟩

/-- Settles O11: invariant by invariant. -/
theorem resetMeetsInvariants : Obligations.ResetMeetsInvariants :=
  ⟨State.reset_storeOk, State.reset_holdListsOk, State.reset_boothOk, State.reset_modeOk, State.reset_capacityOk,
    State.reset_lineOk, State.reset_ovenOk, State.reset_recipesOk⟩

end Sys2Proof.Machine
end

section
/-! SUPPORT. The requests that read, and the checks that requests share (R15, R16, R17, R26, R34, R41, R141). -/

namespace Sys2Proof.Machine

/-! ### The ID map as a search finds it (R14, R16) -/

theorem State.findId_eq_some_iff {s : State} (hm : s.idMapOk) (id : PanelId) (h : Nat) :
    s.findId id = some h ↔ ∃ p, s.panel h = some p ∧ p.id = some id := by
  obtain ⟨hnodup, hmem⟩ := hm
  rw [← hmem]
  constructor
  · intro hf
    obtain ⟨⟨i, k⟩, he, rfl⟩ := Option.map_eq_some_iff.1 hf
    obtain rfl : i = id := by simpa using List.find?_some he
    exact List.mem_of_find?_eq_some he
  · intro hin
    obtain ⟨e, he⟩ : ∃ e, s.idMap.find? (fun e => e.1 == id) = some e :=
      Option.isSome_iff_exists.1 (List.find?_isSome.2 ⟨(id, h), hin, by simp⟩)
    have hid : e.1 = id := by simpa using List.find?_some he
    have : e = (id, h) := List.inj_on_of_nodup_map hnodup (List.mem_of_find?_eq_some he) hin hid
    rw [State.findId, he, this]
    rfl

theorem State.findId_eq_none_iff {s : State} (hm : s.idMapOk) (id : PanelId) :
    s.findId id = none ↔ ∀ h p, s.panel h = some p → p.id ≠ some id := by
  rw [Option.eq_none_iff_forall_ne_some]
  refine forall_congr' fun h => ?_
  simp only [Ne, State.findId_eq_some_iff hm, not_exists, not_and]

/-! ### Reading requests -/

theorem findAnswers : Claims.FindAnswers := by
  intro s id hm hp
  rw [← idOk_iff]
  refine ⟨fun hbad => ?_, fun hok => ⟨fun h p hh hid => ?_, fun hnone => ?_⟩⟩
  · exact refuses_of_serve (f := serveFind id) rfl hp (by simp [serveFind, hbad])
  · have hf := (State.findId_eq_some_iff hm id h).2 ⟨p, hh, hid⟩
    exact accepts_of_serve (f := serveFind id) rfl hp (by simp [serveFind, hok, hf])
  · have hf := (State.findId_eq_none_iff hm id).2 hnone
    exact refuses_of_serve (f := serveFind id) rfl hp (by simp [serveFind, hok, hf])

/-- Every part 0..4 of a record has its data, and no other part (R17). -/
theorem State.panelPart_cases (s : State) (h part : Nat) (p : Panel) :
    (part ≤ 4 → ∃ data, s.panelPart h part p = some data) ∧ (5 ≤ part → s.panelPart h part p = none) := by
  constructor
  · intro hle
    interval_cases part <;> exact ⟨_, rfl⟩
  · intro hge
    obtain ⟨n, rfl⟩ := Nat.exists_eq_add_of_le' hge
    rfl

theorem readSegment_rule {s : State} {i : Nat} (hp : s.inProcess (.readSegment i) = true) :
    (∀ o, s.pool[i]? = some o → Accepts (.readSegment i) s s (segmentBytes o)) ∧
    (384 ≤ i → Refuses (.readSegment i) s .range) := by
  refine ⟨fun o ho => ?_, fun hi => ?_⟩
  · exact accepts_of_serve (f := serveReadSegment i) rfl hp (by simp [serveReadSegment, ho])
  · have hnone : s.pool[i]? = none := Vector.getElem?_eq_none hi
    exact refuses_of_serve (f := serveReadSegment i) rfl hp (by simp [serveReadSegment, hnone])

theorem readRecipe_rule {s : State} {r part : Nat} (hp : s.inProcess (.readRecipe r part) = true) :
    (∀ x, s.recipe r = some x → part = 0 → Accepts (.readRecipe r part) s s (recipePart0 x)) ∧
    (∀ x, s.recipe r = some x → part = 1 → Accepts (.readRecipe r part) s s (recipePart1 x)) ∧
    (16 ≤ r ∨ 2 ≤ part → Refuses (.readRecipe r part) s .range) := by
  refine ⟨fun x hx h0 => ?_, fun x hx h1 => ?_, fun hbad => ?_⟩
  · exact accepts_of_serve (f := serveReadRecipe r part) rfl hp (by simp [serveReadRecipe, hx, h0])
  · exact accepts_of_serve (f := serveReadRecipe r part) rfl hp (by simp [serveReadRecipe, hx, h1])
  · refine refuses_of_serve (f := serveReadRecipe r part) rfl hp ?_
    unfold serveReadRecipe
    split
    · rfl
    · rename_i x hx
      have := State.recipe_lt hx
      split
      · omega
      · omega
      · rfl

theorem readPanel_rule {s : State} {h part : Nat} {p : Panel} (hp : s.inProcess (.readPanel h part) = true)
    (hh : s.panel h = some p) :
    (part ≤ 4 → ∃ data, s.panelPart h part p = some data ∧ Accepts (.readPanel h part) s s data) ∧
    (5 ≤ part → Refuses (.readPanel h part) s .range) := by
  obtain ⟨hsome, hnone⟩ := s.panelPart_cases h part p
  refine ⟨fun hle => ?_, fun hge => ?_⟩
  · obtain ⟨data, hd⟩ := hsome hle
    exact ⟨data, hd, accepts_of_serve (f := serveReadPanel h part) rfl hp (by simp [serveReadPanel, hh, hd])⟩
  · exact refuses_of_serve (f := serveReadPanel h part) rfl hp (by simp [serveReadPanel, hh, hnone hge])

theorem readsChangeNothing : Claims.ReadsChangeNothing :=
  ⟨fun _ _ hp => readSegment_rule hp, fun _ _ _ hp => readRecipe_rule hp, fun _ _ _ _ hp hh => readPanel_rule hp hh,
    fun _ hp => accepts_of_serve (f := serveReadZones) rfl hp rfl⟩

/-- Settles O19: FIND through the ID map, and the other reads one by one. -/
theorem readRequests : Obligations.ReadRequests := ⟨findAnswers, readsChangeNothing⟩

/-! ### Shared refusals -/

theorem badHandleRefused : Claims.BadHandleRefused := by
  intro s h a b id c hn hc hp
  simp only [List.mem_cons, List.not_mem_nil, or_false] at hc
  rcases hc with rfl | rfl | rfl | rfl | rfl | rfl | rfl | rfl | rfl | rfl
  · exact refuses_of_serve (f := serveReadPanel h a) rfl hp (by simp [serveReadPanel, hn])
  · exact refuses_of_serve (f := serveAssignRecipe h a) rfl hp (by simp [serveAssignRecipe, hn])
  · exact refuses_of_serve (f := serveBindId h id) rfl hp (by simp [serveBindId, hn])
  · exact refuses_of_serve (f := serveRetire h a) rfl hp (by simp [serveRetire, hn])
  · exact refuses_of_serve (f := serveHold h a) rfl hp (by simp [serveHold, hn])
  · exact refuses_of_serve (f := serveService h a) rfl hp (by simp [serveService, hn])
  · exact refuses_of_serve (f := serveRelease h) rfl hp (by simp [serveRelease, hn])
  · exact refuses_of_serve (f := serveWaiveMask h) rfl hp (by simp [serveWaiveMask, hn])
  · exact refuses_of_serve (f := serveReenter h a b) rfl hp (by simp [serveReenter, hn])
  · exact refuses_of_serve (f := serveWithdraw h) rfl hp (by simp [serveWithdraw, hn])

/-- The checks of R26, which come before the request's own. -/
theorem withFreeRecipe_refuses {s : State} {r : Nat} (f : Recipe → State × Response) :
    (16 ≤ r → s.withFreeRecipe r f = s.refuse .range) ∧
    (∀ x, s.recipe r = some x → 0 < x.refs → s.withFreeRecipe r f = s.refuse .inUse) := by
  refine ⟨fun hr => ?_, fun x hx h0 => by simp [State.withFreeRecipe, hx, h0]⟩
  have hn : s.recipe r = none := Vector.getElem?_eq_none hr
  simp [State.withFreeRecipe, hn]

/-- A request that makes the checks of R26 before its own is refused by them. -/
theorem refuses_of_withFreeRecipe {s : State} {r : Nat} {c : Instr} {f : Recipe → State × Response}
    (hx : exec c s = takeEffect c (serve c) s) (hf : serve c s = s.withFreeRecipe r f)
    (hp : s.inProcess c = true) :
    (16 ≤ r → Refuses c s .range) ∧ (∀ x, s.recipe r = some x → 0 < x.refs → Refuses c s .inUse) := by
  obtain ⟨hrange, huse⟩ := withFreeRecipe_refuses (s := s) (r := r) f
  exact ⟨fun hr => refuses_of_serve hx hp (hf.trans (hrange hr)),
    fun x hxr h0 => refuses_of_serve hx hp (hf.trans (huse x hxr h0))⟩

theorem recipeGuards : Claims.RecipeGuards := by
  intro s r zone crit x0 y0 x1 y1 f g c hc hp
  simp only [List.mem_cons, List.not_mem_nil, or_false] at hc
  rcases hc with rfl | rfl | rfl | rfl | rfl <;> exact refuses_of_withFreeRecipe rfl rfl hp

/-- Settles O23: the handle's check, and the checks of R26. -/
theorem sharedRefusals : Obligations.SharedRefusals := ⟨badHandleRefused, recipeGuards⟩

end Sys2Proof.Machine
end

section
/-! SUPPORT. ASSIGN_RECIPE, BIND_ID, LINE_STATUS, NEXT_NOTICE and RETIRE of a live record (R18, R20 to R23, R182). -/

namespace Sys2Proof.Machine

/-! ### ASSIGN_RECIPE and BIND_ID -/

theorem Stage.assignable_iff (st : Stage) :
    st.assignable = true ↔ st = .entered ∨ st = .admitted ∨ st = .parked := by
  cases st <;> simp [Stage.assignable]

/-- A recipe number without a DEFINED recipe (R18). -/
theorem State.definedRecipe_eq_false {s : State} {r : Nat}
    (h : ∀ x, s.recipe r = some x → x.body = none ∨ x.cure = none) : s.definedRecipe r = false := by
  unfold State.definedRecipe
  split
  · rename_i x hx
    rcases h x hx with e | e <;> simp [recipeDefined, e]
  · rfl

theorem overCoatLimit_iff {p : Panel} {n : Nat} (h : p.stage = .entered ∨ p.stage = .admitted ∨ p.stage = .parked) :
    overCoatLimit p n = true ↔ p.stage ≠ .parked ∧ p.resume ≠ some .fromOven ∧ 3 < p.coatsApplied + n := by
  rcases h with e | e | e <;> simp [overCoatLimit, e]

/-- A record put back as it was. -/
theorem State.setSlot_same {s : State} {h : Nat} {p : Panel} (hh : s.panel h = some p) :
    s.setSlot h (some p) = s := by
  have hlt := State.panel_lt hh
  have he : s.slots[h] = some p := by simpa [State.panel, hlt] using hh
  have hv : s.slots.setIfInBounds h (some p) = s.slots := Vector.ext fun i hi => by
    rw [Vector.getElem_setIfInBounds]
    split
    · subst i; exact he.symm
    · rfl
  rw [State.setSlot, hv]

/-- What ASSIGN_RECIPE does when its checks pass (R18). -/
theorem serveAssignRecipe_accepted {s : State} {h r : Nat} {p : Panel} {x : Recipe} {b : Body}
    (hh : s.panel h = some p) (hst : p.stage.assignable = true) (hx : s.recipe r = some x) (hb : x.body = some b)
    (hc : x.cure.isSome = true) (hlim : overCoatLimit p b.coats = false) :
    serveAssignRecipe h r s = ((s.setSlot h (some (withRecipe r p))).moveRefs p.recipe r).answer [] := by
  have hdef : s.definedRecipe r = true := by simp [State.definedRecipe, hx, recipeDefined, hb, hc]
  simp [serveAssignRecipe, hh, hst, hdef, hx, hb, hlim, State.modPanel_of_live hh]

theorem assignRecipeRule : Claims.AssignRecipeRule := by
  intro s h r p hp hh
  have hser : exec (.assignRecipe h r) s = takeEffect (.assignRecipe h r) (serveAssignRecipe h r) s := rfl
  refine ⟨fun hst => ?_, fun hst hdef => ?_, fun x b hst hx hb hc => ⟨fun hover => ?_, fun hover heq => ?_,
    fun hover hne => ?_⟩⟩
  · rw [← Stage.assignable_iff] at hst
    exact refuses_of_serve hser hp (by simp [serveAssignRecipe, hh, hst])
  · rw [← Stage.assignable_iff] at hst
    exact refuses_of_serve hser hp (by simp [serveAssignRecipe, hh, hst, State.definedRecipe_eq_false hdef])
  · have hlim := (overCoatLimit_iff hst).2 hover
    rw [← Stage.assignable_iff] at hst
    have hdef : s.definedRecipe r = true := by simp [State.definedRecipe, hx, recipeDefined, hb, hc]
    exact refuses_of_serve hser hp (by simp [serveAssignRecipe, hh, hst, hdef, hx, hb, hlim])
  · have hlim := eq_false_of_ne_true (mt (overCoatLimit_iff hst).1 hover)
    have hsame : withRecipe r p = p := by simp [withRecipe, heq]
    refine accepts_of_serve hser hp ?_
    rw [serveAssignRecipe_accepted hh ((Stage.assignable_iff _).2 hst) hx hb hc hlim, hsame, heq, State.moveRefs_same,
      State.setSlot_same hh]
  · have hlim := eq_false_of_ne_true (mt (overCoatLimit_iff hst).1 hover)
    have hnew : withRecipe r p = { p with recipe := some r, mask := none } := by simp [withRecipe, hne]
    refine ⟨_, accepts_of_serve hser hp
      (serveAssignRecipe_accepted hh ((Stage.assignable_iff _).2 hst) hx hb hc hlim), ?_, ?_, fun k hk => ?_,
      fun k y hy => ?_⟩
    · rw [State.moveRefs_frame]; rfl
    · rw [State.panel_moveRefs, State.panel_setSlot_self _ (State.panel_lt hh), hnew]
    · rw [State.panel_moveRefs, State.panel_setSlot_ne _ hk]
    · exact ⟨_, by rw [State.recipe_moveRefs _ hne, State.setSlot_recipe, hy]; rfl, rfl⟩

theorem bindIdRule : Claims.BindIdRule := by
  intro s h id p hm hp hh
  have hser : exec (.bindId h id) s = takeEffect (.bindId h id) (serveBindId h id) s := rfl
  simp only [← idOk_iff, ← Stage.assignable_iff]
  refine ⟨fun hid => ?_, fun hid hst => ?_, fun hid hst hn hmap => ?_, fun hid hst hn hmap => ?_⟩
  · exact refuses_of_serve hser hp (by simp [serveBindId, hh, hid])
  · refine refuses_of_serve hser hp ?_
    have : (!p.stage.assignable || p.id.isSome) = true := by
      cases hn : p.id <;> simp_all
    simp [serveBindId, hh, hid, this]
  · obtain ⟨k, q, hq, hqid⟩ := hmap
    have hf := (State.findId_eq_some_iff hm id k).2 ⟨q, hq, hqid⟩
    exact refuses_of_serve hser hp (by simp [serveBindId, hh, hid, hst, hn, hf])
  · have hf := (State.findId_eq_none_iff hm id).2 fun k q hq hqid => hmap ⟨k, q, hq, hqid⟩
    refine ⟨{ s.modPanel h fun p => { p with id := some id } with idMap := s.idMap ++ [(id, h)] },
      accepts_of_serve hser hp (by simp [serveBindId, hh, hid, hst, hn, hf]), ?_, ?_, fun k hk => ?_, rfl⟩
    · rw [State.modPanel_of_live hh]; rfl
    · exact (s.panel_modPanel_self h fun p => { p with id := some id }).trans (by rw [hh]; rfl)
    · exact s.panel_modPanel_ne (fun p => { p with id := some id }) hk

/-- Settles O27: the two requests' checks in order. -/
theorem assignAndBind : Obligations.AssignAndBind := ⟨assignRecipeRule, bindIdRule⟩

/-! ### LINE_STATUS and NEXT_NOTICE -/

theorem lineStatusReadsAndClears : Claims.LineStatusReadsAndClears := fun _ hp =>
  accepts_of_serve (f := serveLineStatus) rfl hp rfl

/-- The slot's record has a notice. -/
def State.noticed (s : State) (h : Nat) : Bool :=
  match s.panel h with
  | some p => p.notices.any
  | none => false

theorem State.firstNotice_eq (s : State) : s.firstNotice = (List.range 48).find? s.noticed := rfl

theorem State.noticed_of_live {s : State} {h : Nat} {p : Panel} (hh : s.panel h = some p) :
    s.noticed h = p.notices.any := by simp [State.noticed, hh]

theorem State.noticed_eq_false {s : State} {h : Nat} (hs : ∀ p, s.panel h = some p → p.notices.any = false) :
    s.noticed h = false := by
  unfold State.noticed
  split
  · exact hs _ ‹_›
  · rfl

theorem nextNoticeRule : Claims.NextNoticeRule := by
  intro s hp
  refine ⟨fun hnone => ?_, fun h p hh hany hbelow => ?_⟩
  · have hf : s.firstNotice = none := by
      rw [State.firstNotice_eq, List.find?_eq_none]
      exact fun k _ => by simp [State.noticed_eq_false (hnone k)]
    exact refuses_of_serve (f := serveNextNotice) rfl hp (by simp [serveNextNotice, hf])
  · have hf : s.firstNotice = some h := by
      rw [State.firstNotice_eq, List.find?_range_eq_some]
      refine ⟨by rw [State.noticed_of_live hh, hany], List.mem_range.2 (State.panel_lt hh), fun k hk => ?_⟩
      simp [State.noticed_eq_false fun q hq => hbelow k q hk hq]
    obtain ⟨hslots, hothers⟩ := s.modPanel_frame h fun p => { p with notices := noNotices }
    exact ⟨_, accepts_of_serve (f := serveNextNotice) rfl hp (by simp only [serveNextNotice, hf, hh]), hslots,
      by rw [State.panel_modPanel_self, hh]; rfl, hothers⟩

/-- Settles O28: LINE_STATUS by its definition, NEXT_NOTICE by its search from handle 0 up. -/
theorem statusAndNotices : Obligations.StatusAndNotices := ⟨lineStatusReadsAndClears, nextNoticeRule⟩

/-! ### RETIRE -/

theorem retireAllowed_iff (st : Stage) (d : Nat) :
    retireAllowed st d = true ↔ (st = .done ∧ d = 0) ∨ st = .parked := by
  simp [retireAllowed]

/-- RETIRE of a live record, by its checks in order (R22). -/
theorem serveRetire_of_live {s : State} {h d : Nat} {p : Panel} (hh : s.panel h = some p) :
    serveRetire h d s =
      if 1 < d then s.refuse .range
      else if retireAllowed p.stage d = true then
        if p.stage = .parked ∧ d = 0 ∧ p.holds ≠ [] then s.refuse .held else (s.retireRecord h p).answer []
      else s.refuse .badState := by
  simp only [serveRetire, hh]
  cases retireAllowed p.stage d <;> simp [and_assoc]

/-- Settles O29: its checks in order, and what retiring leaves. -/
theorem retireRule : Obligations.RetireRule := by
  intro s h d p hp hh
  have hser : exec (.retire h d) s = takeEffect (.retire h d) (serveRetire h d) s := rfl
  simp only [← retireAllowed_iff]
  refine ⟨fun hd => ?_, fun hd ha => ?_, fun hd hheld => ?_, fun hd ha hheld => ?_⟩
  · refine refuses_of_serve hser hp ?_
    rw [serveRetire_of_live hh, if_pos (by omega)]
  · refine refuses_of_serve hser hp ?_
    rw [serveRetire_of_live hh, if_neg (by omega), if_neg ha]
  · refine refuses_of_serve hser hp ?_
    rw [serveRetire_of_live hh, if_neg (by omega), if_pos ((retireAllowed_iff _ _).2 (.inr hheld.1)), if_pos hheld]
  · have hfr := s.retireRecord_frame h p
    have hlist : (s.retireRecord h p).freeList = insertHandle h s.freeList := by rw [hfr]
    refine ⟨s.retireRecord h p, accepts_of_serve hser hp ?_, ?_, State.panel_retireRecord_self hh,
      s.othersKept_retireRecord h p, fun k => ?_, ?_, fun hfree => State.freeListOk_retireRecord hfree hh, ?_,
      fun k y hy => ?_⟩
    · rw [serveRetire_of_live hh, if_neg (by omega), if_pos ha, if_neg hheld]
    · rw [hfr]
    · rw [hlist, mem_insertHandle]
    · rw [State.freeCount, hlist, length_insertHandle]; rfl
    · rw [hfr]
    · exact ⟨_, by rw [State.recipe_retireRecord, hy]; rfl, rfl⟩

end Sys2Proof.Machine
end

section
/-! SUPPORT. The entry edge and the transfer (R2, R3, R10, R49, R51, R62). -/

namespace Sys2Proof.Machine

/-! ### Edges -/

/-- A rising edge on a lane's input hands the state with the new level kept to its event (R186). -/
theorem whenRunning_edge {s : State} {l : LaneNo} {k : LaneInput} (ev : State → State) (h : s.edgeAt l k) :
    whenRunning (State.onEdge l k true ev) s = .next (ev (s.keepLevel l k true)) := by
  rw [whenRunning_run _ h.1, State.onEdge_rise ev h.2]

theorem State.modLtk_twice (s : State) (l : LaneNo) (f g : LaneTrack → LaneTrack) :
    (s.modLtk l f).modLtk l g = s.modLtk l fun t => g (f t) := by
  simp [State.modLtk]

theorem State.get_modLtk (s : State) (l : LaneNo) (f : LaneTrack → LaneTrack) :
    (s.modLtk l f).ltk.get l = f (s.ltk.get l) := by simp

theorem State.raise_ltk (s : State) (r : HoldReason) (h : Nat) : (s.raise r h).ltk = s.ltk := by
  rw [State.raise_frame]

/-! ### The checks at a placement (R51) -/

theorem State.closeBehind_iff (s : State) (tail : Option Nat) :
    s.closeBehind tail = true ↔
      ∃ k p pl, tail = some k ∧ s.panel k = some p ∧ p.place = some pl ∧ pl.pos < s.params.minimumGap := by
  unfold State.closeBehind
  split
  · rename_i pos e
    simp only [State.posOf, Option.bind_eq_some_iff, Option.map_eq_some_iff] at e
    obtain ⟨k, rfl, p, hp, pl, hpl, rfl⟩ := e
    simp only [decide_eq_true_eq]
    constructor
    · exact fun h => ⟨k, p, pl, rfl, hp, hpl, h⟩
    · rintro ⟨k', p', pl', e, hp', hpl', h⟩
      cases e
      rw [hp] at hp'
      cases hp'
      rw [hpl] at hpl'
      cases hpl'
      exact h
  · rename_i e
    simp only [Bool.false_eq_true, false_iff]
    rintro ⟨k, p, pl, rfl, hp, hpl, -⟩
    simp [State.posOf, hp, hpl] at e

theorem placementChecks : Claims.PlacementChecks := by
  intro s l h tail
  simp only [← State.closeBehind_iff]
  refine ⟨fun hf hc => ?_, fun hf hc => ?_, fun hf hc => ?_, fun hf hc => ?_⟩ <;>
    simp [State.checkPlacement, State.raise_ltk, hf, hc]

/-! ### The entry edge (R49) -/

theorem State.entryEdge_idle {s : State} {l : LaneNo} (h : (s.ltk.get l).state = .idle) : s.entryEdge l = s := by
  simp [State.entryEdge, h]

theorem State.entryEdge_full {s : State} {l : LaneNo} (h : (s.ltk.get l).state ≠ .idle)
    (hf : 24 ≤ (s.ltk.get l).front.length) : s.entryEdge l = s.faultCause l := by
  simp [State.entryEdge, h, hf]

theorem State.entryEdge_reentry {s : State} {l : LaneNo} {h : Nat} {rest : List Nat}
    (hi : (s.ltk.get l).state ≠ .idle) (hf : (s.ltk.get l).front.length < 24)
    (hr : (s.ltk.get l).reentry = h :: rest) :
    s.entryEdge l = (s.modLtk l fun t => { t with reentry := rest }).placeFront l h := by
  simp [State.entryEdge, hi, hr, Nat.not_le.2 hf]

theorem State.entryEdge_new {s : State} {l : LaneNo} {h : Nat} {rest : List Nat}
    (hi : (s.ltk.get l).state = .tracking) (hf : (s.ltk.get l).front.length < 24)
    (hr : (s.ltk.get l).reentry = []) (hl : s.freeList = h :: rest) :
    s.entryEdge l = (s.createRecord l h rest).placeFront l h := by
  simp [State.entryEdge, hi, hr, hl, Nat.not_le.2 hf]

theorem State.entryEdge_none {s : State} {l : LaneNo} (hi : (s.ltk.get l).state ≠ .idle)
    (hf : (s.ltk.get l).front.length < 24) (hr : (s.ltk.get l).reentry = [])
    (hn : (s.ltk.get l).state = .fault ∨ s.freeList = []) : s.entryEdge l = s.faultCause l := by
  unfold State.entryEdge
  simp only [if_neg hi, if_neg (Nat.not_le.2 hf), hr]
  split
  · rename_i hl
    have hfault : (s.ltk.get l).state = .fault := hn.resolve_right (by simp [hl])
    rw [if_neg (by simp [hfault])]
  · rfl

/-- The state in which a new record has joined its front queue, before the checks of its placement (R2, R49). -/
def State.entered (l : LaneNo) (h : Nat) (rest : List Nat) (s : State) : State :=
  ((s.createRecord l h rest).modLtk l fun t => { t with front := t.front ++ [h] }).modPanel h
    fun p => { p with stage := .entered, place := some { sect := .front, pos := 0 } }

/-- A new record joins the queue with the values of R3, and nothing else of the state changes but the free list. -/
theorem State.entered_spec {s : State} {h : Nat} (l : LaneNo) (rest : List Nat) (hh : h < 48) :
    s.entered l h rest = { s with
      freeList := rest, slots := (s.entered l h rest).slots
      ltk := (s.modLtk l fun t => { t with front := t.front ++ [h] }).ltk } ∧
    s.othersKept (s.entered l h rest) h ∧ (s.entered l h rest).panel h = some (newPanel l) := by
  have hnew : (s.createRecord l h rest).panel h = some (newPanel l) :=
    State.panel_setSlot_self (s := { s with freeList := rest }) _ hh
  have hlive : ((s.createRecord l h rest).modLtk l fun t => { t with front := t.front ++ [h] }).panel h =
      some (newPanel l) := hnew
  refine ⟨?_, fun k hk => ?_, ?_⟩
  · rw [State.entered, State.modPanel_of_live hlive]; rfl
  · rw [State.entered, State.panel_modPanel_ne _ _ hk]
    exact State.panel_setSlot_ne (s := { s with freeList := rest }) _ hk
  · rw [State.entered, State.panel_modPanel_self, hlive]; rfl

theorem entryEdgeRule : Claims.EntryEdgeRule := by
  intro s l hedge
  have hx : exec (.eyeEntry l true) s = .next ((s.keepLevel l .eyeEntry true).entryEdge l) := whenRunning_edge _ hedge
  have hlane : (s.keepLevel l .eyeEntry true).ltk.get l = s.ltk.get l := rfl
  simp only [hx, Host.Outcome.next.injEq, ← hlane]
  refine ⟨State.entryEdge_idle, State.entryEdge_full, fun h rest hi hf hr => ?_, fun h rest hi hf hr hl hh => ?_,
    State.entryEdge_none⟩
  · rw [State.entryEdge_reentry hi hf hr, State.placeFront, State.modLtk_twice, State.get_modLtk]
  · obtain ⟨hframe, hothers, hpanel⟩ := State.entered_spec (s := s.keepLevel l .eyeEntry true) l rest hh
    refine ⟨(s.keepLevel l .eyeEntry true).entered l h rest, State.entryEdge_new hi hf hr hl, ?_, hothers, ?_, hpanel⟩
    · rw [hframe]
    · rw [hframe]; rfl

/-- Settles O36: the edge by its cases in order, and the checks of a placement. -/
theorem entryRule : Obligations.EntryRule := ⟨entryEdgeRule, placementChecks⟩

/-! ### The transfer (R62) -/

theorem withinEye_iff (offset tol pos : Nat) :
    withinEye offset tol pos = true ↔ offset - tol ≤ pos ∧ pos ≤ offset + tol := by
  simp only [withinEye, Bool.and_eq_true, decide_eq_true_eq]
  omega

theorem State.transferable_iff {s : State} {l : LaneNo} {h : Nat} {p : Panel} {pl : Place}
    (hp : s.panel h = some p) (hpl : p.place = some pl) :
    s.transferable l h = true ↔
      s.params.offset .transfer - s.params.eyeTolerance ≤ pl.pos ∧
      pl.pos ≤ s.params.offset .transfer + s.params.eyeTolerance ∧
      (s.bch.get l).served ≠ some h ∧ (s.ltk.get l).oven.length < 24 := by
  have hpos : s.posOf h = some pl.pos := by simp [State.posOf, hp, hpl]
  have hserved : s.served l = (s.bch.get l).served := rfl
  simp [State.transferable, hpos, hserved, withinEye_iff, and_assoc]

theorem State.ovenEdge_idle {s : State} {l : LaneNo} (h : (s.ltk.get l).state = .idle) : s.ovenEdge l = s := by
  simp [State.ovenEdge, h]

theorem State.ovenEdge_empty {s : State} {l : LaneNo} (hi : (s.ltk.get l).state ≠ .idle)
    (hf : (s.ltk.get l).front = []) : s.ovenEdge l = s.faultCause l := by
  simp [State.ovenEdge, hi, hf]

theorem State.ovenEdge_of_head {s : State} {l : LaneNo} {h : Nat} {rest : List Nat}
    (hi : (s.ltk.get l).state ≠ .idle) (hf : (s.ltk.get l).front = h :: rest) :
    s.ovenEdge l = if s.transferable l h = true then s.transfer l h rest else s.faultCause l := by
  simp [State.ovenEdge, hi, hf]

/-- The state in which the head has joined the oven queue with its cure fields, before TRACK_LOST on a lane in FAULT
(R10, R62). -/
def State.moved (l : LaneNo) (h : Nat) (rest : List Nat) (s : State) : State :=
  (s.modLtk l fun t => { t with front := rest, oven := t.oven ++ [h] }).modPanel h
    (transferred s.params.ambient s.tick)

theorem State.moved_spec {s : State} {h : Nat} {p : Panel} (l : LaneNo) (rest : List Nat)
    (hp : s.panel h = some p) :
    s.moved l h rest = { s with
      slots := (s.moved l h rest).slots
      ltk := (s.modLtk l fun t => { t with front := rest, oven := t.oven ++ [h] }).ltk } ∧
    s.othersKept (s.moved l h rest) h ∧
    (s.moved l h rest).panel h = some (transferred s.params.ambient s.tick p) := by
  have hlive : (s.modLtk l fun t => { t with front := rest, oven := t.oven ++ [h] }).panel h = some p := hp
  refine ⟨?_, fun k hk => ?_, ?_⟩
  · rw [State.moved, State.modPanel_of_live hlive]; rfl
  · exact State.panel_modPanel_ne _ _ hk
  · rw [State.moved, State.panel_modPanel_self, hlive]; rfl

theorem State.transfer_eq (s : State) (l : LaneNo) (h : Nat) (rest : List Nat) :
    s.transfer l h rest =
      if (s.ltk.get l).state = .fault then (s.moved l h rest).raise .trackLost h else s.moved l h rest := by
  have hst : ((s.moved l h rest).ltk.get l).state = (s.ltk.get l).state := by
    simp [State.moved]
  rw [← hst]
  rfl

/-- The cure fields at a transfer: renewed temperature and last update; the rest created or kept (R10). -/
theorem cureAtTransfer_spec (ambient : Int) (now : Tick) (o : Option Cure) :
    (cureAtTransfer ambient now o).temp = ambient ∧ (cureAtTransfer ambient now o).last = now ∧
    (o = none → (cureAtTransfer ambient now o).dose = 0 ∧ (cureAtTransfer ambient now o).peak = 0 ∧
      (cureAtTransfer ambient now o).ovenTime = 0 ∧ (cureAtTransfer ambient now o).verdict = none) ∧
    ∀ a, o = some a → (cureAtTransfer ambient now o).dose = a.dose ∧ (cureAtTransfer ambient now o).peak = a.peak ∧
      (cureAtTransfer ambient now o).ovenTime = a.ovenTime := by
  cases o <;> simp [cureAtTransfer]

/-- Settles O37: the edge by its cases in order. -/
theorem transferRule : Obligations.TransferRule := by
  intro s l hedge
  have hx : exec (.eyeOven l true) s = .next ((s.keepLevel l .eyeOven true).ovenEdge l) := whenRunning_edge _ hedge
  have hlane : (s.keepLevel l .eyeOven true).ltk.get l = s.ltk.get l := rfl
  simp only [hx, Host.Outcome.next.injEq, ← hlane]
  refine ⟨State.ovenEdge_idle, State.ovenEdge_empty, fun h rest p pl hi hf hp hpl => ?_⟩
  have hk : (s.keepLevel l .eyeOven true).panel h = some p := hp
  have htr := State.transferable_iff (l := l) hk hpl
  rw [State.ovenEdge_of_head hi hf]
  refine ⟨fun hno => if_neg (mt htr.1 hno), fun hok => ?_⟩
  rw [if_pos (htr.2 hok), State.transfer_eq]
  obtain ⟨hframe, hothers, hpanel⟩ := State.moved_spec l rest hk
  refine ⟨(s.keepLevel l .eyeOven true).moved l h rest, rfl, ?_, hothers, ?_, _, hpanel,
    cureAtTransfer_spec _ _ p.cure⟩
  · rw [hframe]
  · rw [hframe]; rfl

end Sys2Proof.Machine
end

section
/-! SUPPORT. What a command can do to the recipes' parts and the path pool (Chapter 2): nothing, unless it carries out
one of the requests that edit them, or ends a device reset. -/

namespace Sys2Proof.Machine

/-! ### The recipe book -/

/-- A recipe without its reference count: body, mask map and cure profile (R25). -/
def Recipe.parts (x : Recipe) : Option Body × List MaskZone × Option CureProfile := (x.body, x.map, x.cure)

/-- The parts of every recipe, and the path pool. -/
structure RecipeBook where
  parts : Nat → Option (Option Body × List MaskZone × Option CureProfile)
  pool : Vector (Option Segment) 384

/-- The recipe book of a state. -/
def State.recipeBook (s : State) : RecipeBook := { parts := fun r => (s.recipe r).map Recipe.parts, pool := s.pool }

theorem recipeBook_of_fields {s t : State} (hr : t.recipes = s.recipes) (hp : t.pool = s.pool) :
    t.recipeBook = s.recipeBook := by
  simp only [State.recipeBook, State.recipe, hr, hp]

theorem pool_of_recipeBook {s t : State} (h : t.recipeBook = s.recipeBook) : t.pool = s.pool :=
  congrArg RecipeBook.pool h

/-- A recipe of one of two states with the same book has the same parts in the other. -/
theorem recipe_of_recipeBook {s t : State} (h : t.recipeBook = s.recipeBook) {r : Nat} {x : Recipe}
    (hx : s.recipe r = some x) : ∃ y, t.recipe r = some y ∧ y.body = x.body ∧ y.map = x.map ∧ y.cure = x.cure := by
  have hr : (t.recipe r).map Recipe.parts = (s.recipe r).map Recipe.parts := congrFun (congrArg RecipeBook.parts h) r
  rw [hx, Option.map_some, Option.map_eq_some_iff] at hr
  obtain ⟨y, hy, hparts⟩ := hr
  simp only [Recipe.parts, Prod.mk.injEq] at hparts
  exact ⟨y, hy, hparts⟩

/-- The operations of a booth channel write no recipe and no pool entry. -/
theorem recipeBook_of_boothRest {s t : State} (h : t.boothRest = s.boothRest) : t.recipeBook = s.recipeBook :=
  recipeBook_of_fields (s := s) (t := t) (congrArg State.recipes h :) (congrArg State.pool h :)

/-- A new stale limit writes no recipe and no pool entry (R137). -/
theorem recipeBook_of_zoneRest {s t : State} (h : t.zoneRest = s.zoneRest) : t.recipeBook = s.recipeBook :=
  recipeBook_of_fields (s := s) (t := t) (congrArg State.recipes h :) (congrArg State.pool h :)

/-! ### Named updates -/

@[simp] theorem recipeBook_ite (c : Prop) [Decidable c] (s t : State) :
    (if c then s else t).recipeBook = if c then s.recipeBook else t.recipeBook := apply_ite ..

@[simp] theorem recipeBook_fst_ite (c : Prop) [Decidable c] (a b : State × Response) :
    (if c then a else b).1.recipeBook = if c then a.1.recipeBook else b.1.recipeBook := by split <;> rfl

theorem recipeBook_foldl {α : Type} {f : State → α → State} (hf : ∀ s a, (f s a).recipeBook = s.recipeBook)
    (as : List α) (s : State) : (as.foldl f s).recipeBook = s.recipeBook := by
  induction as generalizing s with
  | nil => rfl
  | cons a as ih => rw [List.foldl_cons, ih, hf]

section
variable (s : State) (l : LaneNo)

@[simp] theorem recipeBook_modLtk (f : LaneTrack → LaneTrack) : (s.modLtk l f).recipeBook = s.recipeBook := rfl
@[simp] theorem recipeBook_modMvf (f : MaskLane → MaskLane) : (s.modMvf l f).recipeBook = s.recipeBook := rfl
@[simp] theorem recipeBook_modPgn (f : Generator → Generator) : (s.modPgn l f).recipeBook = s.recipeBook := rfl
@[simp] theorem recipeBook_modBch (f : Channel → Channel) : (s.modBch l f).recipeBook = s.recipeBook := rfl
@[simp] theorem recipeBook_modSlr (f : StationLink → StationLink) : (s.modSlr f).recipeBook = s.recipeBook := rfl
@[simp] theorem recipeBook_modZone (z : Nat) (f : Zone → Zone) : (s.modZone z f).recipeBook = s.recipeBook :=
  recipeBook_of_fields (by simp) (by simp)
@[simp] theorem recipeBook_setSlot (h : Nat) (o : Option Panel) : (s.setSlot h o).recipeBook = s.recipeBook := rfl
@[simp] theorem recipeBook_modPanel (h : Nat) (f : Panel → Panel) : (s.modPanel h f).recipeBook = s.recipeBook :=
  recipeBook_of_fields (by simp) (by simp)
@[simp] theorem recipeBook_raiseFlag (g : Flag) : (s.raiseFlag g).recipeBook = s.recipeBook := rfl
@[simp] theorem recipeBook_keepLevel (k : LaneInput) (v : Bool) : (s.keepLevel l k v).recipeBook = s.recipeBook := rfl
@[simp] theorem recipeBook_atSample (n : Nat) : (s.atSample n).recipeBook = s.recipeBook := rfl
@[simp] theorem recipeBook_resumeAssembler : s.resumeAssembler.recipeBook = s.recipeBook := rfl
@[simp] theorem recipeBook_writeParams (f : Params → Params) : (s.writeParams f).recipeBook = s.recipeBook := rfl
@[simp] theorem recipeBook_withEffect (r : Response) : (s.withEffect r).recipeBook = s.recipeBook := rfl
@[simp] theorem recipeBook_respond (r : Response) : (s.respond r).recipeBook = s.recipeBook := rfl

/-- A change of a recipe's count alone. -/
theorem recipeBook_modRecipe (r : Nat) {f : Recipe → Recipe} (hf : ∀ x, (f x).parts = x.parts) :
    (s.modRecipe r f).recipeBook = s.recipeBook := by
  have hparts : Recipe.parts ∘ f = Recipe.parts := funext hf
  simp only [State.recipeBook, State.recipe_modRecipe, State.modRecipe_pool, RecipeBook.mk.injEq, and_true]
  funext k
  split
  · rw [Option.map_map, hparts]
  · rfl

@[simp] theorem recipeBook_addRef (r : Nat) : (s.addRef r).recipeBook = s.recipeBook :=
  recipeBook_modRecipe s r fun _ => rfl

@[simp] theorem recipeBook_dropRef (r : Nat) : (s.dropRef r).recipeBook = s.recipeBook :=
  recipeBook_modRecipe s r fun _ => rfl

@[simp] theorem recipeBook_moveRefs (old : Option Nat) (r : Nat) : (s.moveRefs old r).recipeBook = s.recipeBook := by
  unfold State.moveRefs
  cases old <;> simp

/-! ### Holds and the booth channels -/

@[simp] theorem recipeBook_raise (r : HoldReason) (h : Nat) : (s.raise r h).recipeBook = s.recipeBook :=
  recipeBook_of_boothRest (s.raise_boothRest r h)

@[simp] theorem recipeBook_askAbort : (s.askAbort l).recipeBook = s.recipeBook :=
  recipeBook_of_boothRest (s.askAbort_boothRest l)

@[simp] theorem recipeBook_raiseAll (r : HoldReason) (hs : List Nat) : (s.raiseAll r hs).recipeBook = s.recipeBook :=
  recipeBook_foldl (fun s h => recipeBook_raise s r h) hs s

@[simp] theorem recipeBook_raiseEach (h : Nat) (rs : List HoldReason) :
    (s.raiseEach h rs).recipeBook = s.recipeBook :=
  recipeBook_foldl (fun s r => recipeBook_raise s r h) rs s

@[simp] theorem recipeBook_raiseOpt (r : Option HoldReason) (h : Nat) : (s.raiseOpt r h).recipeBook = s.recipeBook := by
  cases r <;> simp [State.raiseOpt]

@[simp] theorem recipeBook_portEnd : s.portEnd.recipeBook = s.recipeBook :=
  recipeBook_of_boothRest s.portEnd_boothRest

@[simp] theorem recipeBook_channelIdle : (s.channelIdle l).recipeBook = s.recipeBook := rfl

@[simp] theorem recipeBook_nextCoat : (s.nextCoat l).recipeBook = s.recipeBook :=
  recipeBook_of_boothRest (s.nextCoat_boothRest l)

@[simp] theorem recipeBook_completeOrder : (s.completeOrder l).recipeBook = s.recipeBook :=
  recipeBook_of_boothRest (s.completeOrder_boothRest l)

@[simp] theorem recipeBook_enterFault : (s.enterFault l).recipeBook = s.recipeBook :=
  recipeBook_of_boothRest (s.enterFault_boothRest l)

@[simp] theorem recipeBook_arriveBooth (h : Nat) : (s.arriveBooth l h).recipeBook = s.recipeBook :=
  recipeBook_of_boothRest (s.arriveBooth_boothRest l h)

@[simp] theorem recipeBook_settled : (s.settled l).recipeBook = s.recipeBook :=
  recipeBook_of_boothRest (s.settled_boothRest l)

@[simp] theorem recipeBook_clearBooth : (s.clearBooth l).recipeBook = s.recipeBook := by
  unfold State.clearBooth
  simp only
  split <;> simp

@[simp] theorem recipeBook_moveDoneEdge : (s.moveDoneEdge l).recipeBook = s.recipeBook := by
  simp [State.moveDoneEdge]

@[simp] theorem recipeBook_durationEnd : (s.durationEnd l).recipeBook = s.recipeBook := by
  unfold State.durationEnd
  simp only
  split <;> simp

@[simp] theorem recipeBook_moveTimeoutEnd : (s.moveTimeoutEnd l).recipeBook = s.recipeBook := by
  unfold State.moveTimeoutEnd
  simp only
  split <;> simp

@[simp] theorem recipeBook_gantryErrSample (v : Bool) : (s.gantryErrSample l v).recipeBook = s.recipeBook := by
  simp [State.gantryErrSample]

@[simp] theorem recipeBook_countPulse : (s.countPulse l).recipeBook = s.recipeBook := by
  unfold State.countPulse
  simp only
  split <;> simp

@[simp] theorem recipeBook_recoatEnd : (s.recoatEnd l).recipeBook = s.recipeBook := by simp [State.recoatEnd]

/-! ### The mask verifier -/

@[simp] theorem recipeBook_leaveInspecting (h : Nat) : (s.leaveInspecting l h).recipeBook = s.recipeBook := rfl

@[simp] theorem recipeBook_endWindow (h : Nat) : (s.endWindow h).recipeBook = s.recipeBook := by
  unfold State.endWindow
  split <;> simp

@[simp] theorem recipeBook_reuseTag : (s.reuseTag l).recipeBook = s.recipeBook := by
  unfold State.reuseTag
  split <;> simp

@[simp] theorem recipeBook_trigger (h : Nat) : (s.trigger l h).recipeBook = s.recipeBook := by
  simp [State.trigger, State.owePulse]

@[simp] theorem recipeBook_maskStation (h : Nat) : (s.maskStation l h).recipeBook = s.recipeBook := by
  unfold State.maskStation
  split <;> simp

@[simp] theorem recipeBook_applyReport (h : Nat) (pairs : List (Nat × ZoneStatus)) :
    (s.applyReport h pairs).recipeBook = s.recipeBook := by
  unfold State.applyReport
  split <;> simp

@[simp] theorem recipeBook_takeReport : s.takeReport.recipeBook = s.recipeBook := by
  unfold State.takeReport State.acceptReport
  split
  · split <;> simp
  · rfl

@[simp] theorem recipeBook_trigPulseEnd : (s.trigPulseEnd l).recipeBook = s.recipeBook := by
  unfold State.trigPulseEnd
  split <;> simp

@[simp] theorem recipeBook_trigRecoveryEnd : (s.trigRecoveryEnd l).recipeBook = s.recipeBook := by
  unfold State.trigRecoveryEnd
  split <;> simp

@[simp] theorem recipeBook_windowTimeout (h : Nat) : (s.windowTimeout h).recipeBook = s.recipeBook := by
  unfold State.windowTimeout
  split <;> simp

/-! ### The oven -/

@[simp] theorem recipeBook_alarmIfInvalid (before : ZoneState) (z : Nat) :
    (s.alarmIfInvalid before z).recipeBook = s.recipeBook := by
  unfold State.alarmIfInvalid
  split <;> simp

@[simp] theorem recipeBook_applyReplyAt (r : SensorReply) (z : Nat) :
    (s.applyReplyAt r z).recipeBook = s.recipeBook := by
  unfold State.applyReplyAt
  split <;> simp

@[simp] theorem recipeBook_readTach (z : Nat) (v : Bool) (n : Nat) : (s.readTach z v n).recipeBook = s.recipeBook := by
  unfold State.readTach
  split <;> simp

@[simp] theorem recipeBook_stallAt (z n : Nat) : (s.stallAt z n).recipeBook = s.recipeBook := by
  unfold State.stallAt
  split <;> simp

@[simp] theorem recipeBook_updateCuring (h : Nat) : (s.updateCuring h).recipeBook = s.recipeBook := by
  unfold State.updateCuring
  split
  · rfl
  · split <;> simp

@[simp] theorem recipeBook_completePoll (rs : Vector SensorReply 6) :
    (s.completePoll rs).recipeBook = s.recipeBook := by
  unfold State.completePoll
  split
  · refine (recipeBook_foldl recipeBook_updateCuring ..).trans ?_
    simp only [State.applyReplies, recipeBook_applyReplyAt]
    rfl
  · rfl

@[simp] theorem recipeBook_exitDecision (h : Nat) : (s.exitDecision h).recipeBook = s.recipeBook := by
  unfold State.exitDecision
  split
  · rfl
  · split <;> simp

/-! ### The lane tracker -/

@[simp] theorem recipeBook_faultCause : (s.faultCause l).recipeBook = s.recipeBook := by
  unfold State.faultCause
  simp only
  split <;> simp

@[simp] theorem recipeBook_divert (g : DivertGate) (h : Nat) : (s.divert l g h).recipeBook = s.recipeBook := by
  simp [State.divert]

@[simp] theorem recipeBook_placeFront (h : Nat) : (s.placeFront l h).recipeBook = s.recipeBook := by
  simp [State.placeFront, State.checkPlacement]

@[simp] theorem recipeBook_createRecord (h : Nat) (rest : List Nat) :
    (s.createRecord l h rest).recipeBook = s.recipeBook := rfl

@[simp] theorem recipeBook_entryEdge : (s.entryEdge l).recipeBook = s.recipeBook := by
  unfold State.entryEdge
  simp only
  split; · rfl
  split; · simp
  split
  · simp
  · split <;> simp

@[simp] theorem recipeBook_leaveEntered (h : Nat) : (s.leaveEntered h).recipeBook = s.recipeBook := by
  simp [State.leaveEntered]

@[simp] theorem recipeBook_storeId (h : Nat) (i : PanelId) : (s.storeId h i).recipeBook = s.recipeBook :=
  recipeBook_modPanel s h _

@[simp] theorem recipeBook_bindRead (h : Nat) (p : Panel) (i : PanelId) :
    (s.bindRead h p i).recipeBook = s.recipeBook := by
  unfold State.bindRead
  split <;> simp

@[simp] theorem recipeBook_takeRead : s.takeRead.recipeBook = s.recipeBook := by
  unfold State.takeRead State.acceptRead
  split
  · split
    · simp
    · split <;> simp
  · rfl

@[simp] theorem recipeBook_closeIdWindow (h : Nat) : (s.closeIdWindow h).recipeBook = s.recipeBook := by
  unfold State.closeIdWindow
  split <;> simp

@[simp] theorem recipeBook_arriveMask (h : Nat) : (s.arriveMask l h).recipeBook = s.recipeBook := by
  unfold State.arriveMask
  split; · rfl
  split
  · split
    · simp
    · split <;> simp
  · rfl

@[simp] theorem recipeBook_arriveDivertA (h : Nat) : (s.arriveDivertA l h).recipeBook = s.recipeBook := by
  have hwindow : (s.endOpenWindow h).recipeBook = s.recipeBook := by
    unfold State.endOpenWindow
    split <;> simp
  simp [State.arriveDivertA, hwindow]

@[simp] theorem recipeBook_arriveDivertB (h : Nat) : (s.arriveDivertB l h).recipeBook = s.recipeBook := by
  unfold State.arriveDivertB
  split <;> simp

@[simp] theorem recipeBook_arriveFlash (h : Nat) : (s.arriveFlash l h).recipeBook = s.recipeBook := by
  unfold State.arriveFlash
  split
  · rfl
  · split <;> simp

@[simp] theorem recipeBook_arriveOvenOut (h : Nat) : (s.arriveOvenOut h).recipeBook = s.recipeBook := by
  unfold State.arriveOvenOut
  split <;> simp

@[simp] theorem recipeBook_arrive (a : StationNo × Nat) : (s.arrive l a).recipeBook = s.recipeBook := by
  obtain ⟨station, h⟩ := a
  cases station <;> simp [State.arrive, State.missTransfer, State.missUnload]

@[simp] theorem recipeBook_count (sec : LineSection) : (s.count l sec).recipeBook = s.recipeBook := by
  have hquiet : { s.restartQuiet l sec with free := s.free + 1 }.recipeBook = s.recipeBook := by cases sec <;> rfl
  unfold State.count
  split
  · rfl
  · exact (recipeBook_foldl (fun s a => recipeBook_arrive s l a) ..).trans
      ((recipeBook_foldl (fun s h => recipeBook_modPanel s h _) ..).trans hquiet)

@[simp] theorem recipeBook_quietEnd : (s.quietEnd l).recipeBook = s.recipeBook := by simp [State.quietEnd]

@[simp] theorem recipeBook_claimEnd : (s.claimEnd l).recipeBook = s.recipeBook := by simp [State.claimEnd]

@[simp] theorem recipeBook_pulseEnd (g : DivertGate) : (s.pulseEnd l g).recipeBook = s.recipeBook := by
  simp [State.pulseEnd]

@[simp] theorem recipeBook_ovenEdge : (s.ovenEdge l).recipeBook = s.recipeBook := by
  unfold State.ovenEdge
  split; · rfl
  split <;> simp [State.transfer]

@[simp] theorem recipeBook_unloadEdge : (s.unloadEdge l).recipeBook = s.recipeBook := by
  unfold State.unloadEdge
  split; · rfl
  split; · simp
  split <;> simp [State.finish]

/-- The event of a rising edge, which sees the state with the new level kept (R186). -/
theorem recipeBook_onEdge {ev : State → State} (hf : ∀ s, (ev s).recipeBook = s.recipeBook) (k : LaneInput) (v : Bool) :
    (s.onEdge l k v ev).recipeBook = s.recipeBook := by
  simp [State.onEdge, hf]

/-! ### The station link and the line link -/

@[simp] theorem recipeBook_enterBreak : s.enterBreak.recipeBook = s.recipeBook := by simp [State.enterBreak]

@[simp] theorem recipeBook_abandonIfQuiet : s.abandonIfQuiet.recipeBook = s.recipeBook := by
  simp [State.abandonIfQuiet]

@[simp] theorem recipeBook_lineQuiet : s.lineQuiet.recipeBook = s.recipeBook := by simp [State.lineQuiet]

@[simp] theorem recipeBook_assemble : s.assemble.recipeBook = s.recipeBook := by
  unfold State.assemble
  split <;> simp

@[simp] theorem recipeBook_clockedFrame (bits : List Bool) : (s.clockedFrame bits).recipeBook = s.recipeBook := by
  have hon : ∀ f, (s.onFrame f).recipeBook = s.recipeBook := fun f => by
    unfold State.onFrame
    split <;> rfl
  have hignored : ∀ n, (s.ignoreFrame n).recipeBook = s.recipeBook := fun n => by
    unfold State.ignoreFrame
    simp only
    split <;> exact hon _
  rcases s.clockedFrame_cases bits with ⟨-, e⟩ | ⟨-, e⟩ | ⟨-, -, e⟩ <;> rw [e]
  · exact hon _
  · exact hon _
  · exact hignored _

end

end Sys2Proof.Machine
end

section
/-! SUPPORT. What the requests do to the recipes' parts and the path pool (R26 to R33, R39, R40), and that no other
command but RESET_END changes them. -/

namespace Sys2Proof.Machine

/-! ### Requests that edit no recipe -/

section
variable (s : State)

@[simp] theorem recipeBook_startLine : (serveStartLine s).1.recipeBook = s.recipeBook := by
  unfold serveStartLine
  split; · rfl
  split <;> rfl

@[simp] theorem recipeBook_stopLine : (serveStopLine s).1.recipeBook = s.recipeBook := by
  unfold serveStopLine
  split; · rfl
  split <;> rfl

@[simp] theorem recipeBook_clearLane (lane : Nat) : (serveClearLane lane s).1.recipeBook = s.recipeBook := by
  have hpark : ∀ l, (s.parkQueued l).recipeBook = s.recipeBook := fun l =>
    recipeBook_foldl (fun s h => recipeBook_modPanel s h _) ..
  have hclear : ∀ (u : State) l, (u.clearInspecting l).recipeBook = u.recipeBook := fun u l =>
    recipeBook_foldl (fun s w => recipeBook_modPanel s _ _) ..
  unfold serveClearLane
  split <;> simp [hpark, hclear]

@[simp] theorem recipeBook_resetBooth (lane : Nat) : (serveResetBooth lane s).1.recipeBook = s.recipeBook := by
  unfold serveResetBooth
  split <;> simp

@[simp] theorem recipeBook_resyncTag (lane : Nat) : (serveResyncTag lane s).1.recipeBook = s.recipeBook := by
  unfold serveResyncTag
  split <;> simp

@[simp] theorem recipeBook_assignRecipe (h r : Nat) : (serveAssignRecipe h r s).1.recipeBook = s.recipeBook := by
  unfold serveAssignRecipe
  split <;> simp

@[simp] theorem recipeBook_bindId (h : Nat) (i : PanelId) : (serveBindId h i s).1.recipeBook = s.recipeBook := by
  unfold serveBindId
  split
  · rfl
  · simp only [recipeBook_fst_ite, State.refuse_fst, State.answer_fst, ite_eq_left_iff]
    exact fun _ _ _ => recipeBook_modPanel s h _

@[simp] theorem recipeBook_nextNotice : (serveNextNotice s).1.recipeBook = s.recipeBook := by
  unfold serveNextNotice
  split; · rfl
  split <;> simp

@[simp] theorem recipeBook_retire (h d : Nat) : (serveRetire h d s).1.recipeBook = s.recipeBook := by
  rcases serveRetire_cases h d s with e | ⟨p, -, -, -, -, e⟩ <;> rw [e]
  unfold State.retireRecord
  cases p.recipe with
  | none => rfl
  | some r => exact recipeBook_dropRef s r

@[simp] theorem recipeBook_hold (h r : Nat) : (serveHold h r s).1.recipeBook = s.recipeBook := by
  unfold serveHold
  split <;> simp

@[simp] theorem recipeBook_service (h r : Nat) : (serveService h r s).1.recipeBook = s.recipeBook := by
  unfold serveService
  split; · rfl
  split <;> simp

@[simp] theorem recipeBook_release (h : Nat) : (serveRelease h s).1.recipeBook = s.recipeBook := by
  unfold serveRelease
  split; · rfl
  split; · rfl
  split <;> simp

@[simp] theorem recipeBook_waiveMask (h : Nat) : (serveWaiveMask h s).1.recipeBook = s.recipeBook := by
  unfold serveWaiveMask
  split; · rfl
  split <;> simp

@[simp] theorem recipeBook_reenter (h lane point : Nat) :
    (serveReenter h lane point s).1.recipeBook = s.recipeBook := by
  rcases serveReenter_cases h lane point s with e | ⟨p, l, rp, -, -, -, e⟩ <;> rw [e]
  simp

@[simp] theorem recipeBook_withdraw (h : Nat) : (serveWithdraw h s).1.recipeBook = s.recipeBook := by
  unfold serveWithdraw
  split <;> simp

theorem recipeBook_setParam {modes : ParamModes} {valid : Bool} {write : State → State}
    (hw : (write s).recipeBook = s.recipeBook) : (s.setParam modes valid write).1.recipeBook = s.recipeBook := by
  simp [State.setParam, hw]

@[simp] theorem recipeBook_writeBaud (rate : Nat) : (s.writeBaud rate).recipeBook = s.recipeBook := by
  simp [State.writeBaud]

@[simp] theorem recipeBook_relimitAll : s.relimitAll.recipeBook = s.recipeBook :=
  recipeBook_of_zoneRest s.relimitAll_zoneRest

@[simp] theorem recipeBook_setParamAbortLevel (v : Int) :
    (serveSetParamAbortLevel v s).1.recipeBook = s.recipeBook :=
  recipeBook_setParam s <| by rw [recipeBook_askAbort, recipeBook_askAbort, recipeBook_writeParams]

@[simp] theorem recipeBook_setParamStaleLimit (v : Int) :
    (serveSetParamStaleLimit v s).1.recipeBook = s.recipeBook :=
  recipeBook_setParam s <| by rw [recipeBook_relimitAll, recipeBook_writeParams]

end

/-! ### Requests that edit a recipe or the pool -/

/-- What an accepted request may make of a recipe's parts: DEFINE_RECIPE (R27, R28), SET_MASK_ZONE (R30),
CLEAR_MASK_ZONE (R31), SET_CURE_PROFILE (R32), ERASE_RECIPE (R33). -/
inductive PartsEdit (s : State) (x : Recipe) : Recipe → Prop
  | define (f : RecipeFields) (hf : pathFieldsOk f = true) (hp : poolRangeOk s.pool f = true) :
      PartsEdit s x { x with body := some (bodyOfFields f) }
  | putZone (z : MaskZone) (hz : z.zone ≤ 23) : PartsEdit s x { x with map := putZone z x.map }
  | dropZone (zone : Nat) : PartsEdit s x { x with map := x.map.filter fun z => z.zone != zone }
  | cure (f : CureFields) : PartsEdit s x { x with cure := some (profileOfFields f) }
  | erase : PartsEdit s x { x with body := none, map := [], cure := none }

/-- What WRITE_SEGMENT has checked of an entry it writes (R38 to R40). -/
structure SegmentFits (s : State) (i : Nat) (g : Segment) : Prop where
  entry : segmentOk g
  unused : ∀ r x, s.recipe r = some x → 0 < x.refs → rangeIncludes i x = false
  rows : ∀ r x, s.recipe r = some x → keepsRows i g x = true

/-- The state with one pool entry replaced. -/
def State.putSegment (i : Nat) (g : Segment) (s : State) : State := { s with pool := s.pool.setIfInBounds i (some g) }

/-- The recipe book after one command: as it was, a recipe that no record names edited (R26), or a pool entry
replaced (R39). -/
inductive BookEdit (s : State) : State → Prop
  | same {t : State} (h : t.recipeBook = s.recipeBook) : BookEdit s t
  | parts {t : State} {r : Nat} {x y : Recipe} (hx : s.recipe r = some x) (h0 : x.refs = 0) (hy : PartsEdit s x y)
      (h : t.recipeBook = (s.putRecipe r y).recipeBook) : BookEdit s t
  | segment {t : State} {i : Nat} {g : Segment} (hg : SegmentFits s i g)
      (h : t.recipeBook = (s.putSegment i g).recipeBook) : BookEdit s t

theorem BookEdit.of_book {s t u : State} (h : BookEdit s t) (hu : u.recipeBook = t.recipeBook) : BookEdit s u := by
  cases h with
  | same h => exact .same (hu.trans h)
  | parts hx h0 hy h => exact .parts hx h0 hy (hu.trans h)
  | segment hg h => exact .segment hg (hu.trans h)

/-- A request behind the checks of R26. -/
theorem BookEdit.withFreeRecipe {s : State} {r : Nat} {f : Recipe → State × Response}
    (hf : ∀ x, s.recipe r = some x → x.refs = 0 → BookEdit s (f x).1) : BookEdit s (s.withFreeRecipe r f).1 := by
  unfold State.withFreeRecipe
  split; · exact .same rfl
  rename_i x hx
  split
  · exact .same rfl
  · exact hf x hx (by omega)

theorem BookEdit.modRecipe {s : State} {r : Nat} {x : Recipe} {f : Recipe → Recipe} (hx : s.recipe r = some x)
    (h0 : x.refs = 0) (hy : PartsEdit s x (f x)) : BookEdit s (s.modRecipe r f) :=
  .parts hx h0 hy (by rw [State.modRecipe_of_some hx])

theorem BookEdit.defineRecipe (s : State) (r : Nat) (f : RecipeFields) : BookEdit s (serveDefineRecipe r f s).1 := by
  refine .withFreeRecipe fun x hx h0 => ?_
  split
  · rename_i hok
    simp only [Bool.and_eq_true] at hok
    obtain ⟨⟨-, hpath⟩, hpool⟩ := hok
    exact .modRecipe hx h0 (.define f hpath hpool)
  · exact .same rfl

theorem BookEdit.setMaskZone (s : State) (r zone crit x0 y0 x1 y1 : Nat) :
    BookEdit s (serveSetMaskZone r zone crit x0 y0 x1 y1 s).1 := by
  refine .withFreeRecipe fun x hx h0 => ?_
  split
  · rename_i hok
    simp only [maskZoneOk, Bool.and_eq_true, decide_eq_true_eq] at hok
    exact .modRecipe hx h0 (.putZone _ (by tauto))
  · exact .same rfl

theorem BookEdit.clearMaskZone (s : State) (r zone : Nat) : BookEdit s (serveClearMaskZone r zone s).1 := by
  refine .withFreeRecipe fun x hx h0 => ?_
  split; · exact .same rfl
  split
  · exact .modRecipe hx h0 (.dropZone zone)
  · exact .same rfl

theorem BookEdit.setCureProfile (s : State) (r : Nat) (f : CureFields) : BookEdit s (serveSetCureProfile r f s).1 := by
  refine .withFreeRecipe fun x hx h0 => ?_
  split
  · exact .modRecipe hx h0 (.cure f)
  · exact .same rfl

theorem State.mem_recipes {s : State} {x : Recipe} : x ∈ s.recipes.toList ↔ ∃ r, s.recipe r = some x := by
  simp [List.mem_iff_getElem?, State.recipe]

/-- The fields of a segment as the checks 2 and 3 of WRITE_SEGMENT have them (R38, R39). -/
theorem segmentFieldsOk_iff (x0 y0 x1 y1 v o : Nat) :
    segmentFieldsOk x0 y0 x1 y1 v o = true ↔
      x0 ≤ 600 ∧ y0 ≤ 600 ∧ x1 ≤ 600 ∧ y1 ≤ 600 ∧ 5 ≤ v ∧ v ≤ 400 ∧ o ≤ 1 := by
  simp [segmentFieldsOk, and_assoc]

theorem axisAligned_iff (x0 y0 x1 y1 : Nat) :
    axisAligned x0 y0 x1 y1 = true ↔ (y0 = y1 ∧ x0 ≠ x1) ∨ (x0 = x1 ∧ y0 ≠ y1) := by
  simp [axisAligned]

/-- Check 4 of WRITE_SEGMENT: a recipe that a record names has the entry in its range (R39). -/
theorem State.segmentInUse_iff (s : State) (i : Nat) :
    (s.recipes.toList.any fun x => 0 < x.refs && rangeIncludes i x) = true ↔
      ∃ r x, s.recipe r = some x ∧ 0 < x.refs ∧ rangeIncludes i x = true := by
  simp only [List.any_eq_true, State.mem_recipes, Bool.and_eq_true, decide_eq_true_eq]
  constructor
  · rintro ⟨x, ⟨r, hx⟩, h⟩
    exact ⟨r, x, hx, h⟩
  · rintro ⟨r, x, hx, h⟩
    exact ⟨x, ⟨r, hx⟩, h⟩

/-- Check 5 of WRITE_SEGMENT, over the recipes by their numbers (R40). -/
theorem State.rowsKept_iff (s : State) (i : Nat) (g : Segment) :
    s.recipes.toList.all (keepsRows i g) = true ↔ ∀ r x, s.recipe r = some x → keepsRows i g x = true := by
  simp only [List.all_eq_true, State.mem_recipes]
  exact ⟨fun h r x hx => h x ⟨r, hx⟩, fun h x ⟨r, hx⟩ => h r x hx⟩

theorem BookEdit.writeSegment (s : State) (i x0 y0 x1 y1 v o : Nat) :
    BookEdit s (serveWriteSegment i x0 y0 x1 y1 v o s).1 := by
  unfold serveWriteSegment
  simp only
  split; · exact .same rfl
  split; · exact .same rfl
  rename_i hfields
  split; · exact .same rfl
  rename_i haxis
  split; · exact .same rfl
  rename_i hused
  split; · exact .same rfl
  rename_i hrows
  simp only [Bool.not_eq_true', Bool.not_eq_false, segmentFieldsOk_iff, axisAligned_iff, State.rowsKept_iff]
    at hfields haxis hrows
  rw [State.segmentInUse_iff] at hused
  obtain ⟨hx0, hy0, hx1, hy1, hv, hv', -⟩ := hfields
  refine .segment ⟨⟨hx0, hy0, hx1, hy1, hv, hv', haxis⟩, fun r x hx href => ?_, hrows⟩ rfl
  exact eq_false_of_ne_true fun hin => hused ⟨r, x, hx, href, hin⟩

/-! ### Every request and every command -/

theorem bookEdit_serve (c : Instr) (s : State) : BookEdit s (serve c s).1 := by
  cases c with
  | defineRecipe r f => exact .defineRecipe s r f
  | setMaskZone r z c x0 y0 x1 y1 => exact .setMaskZone s r z c x0 y0 x1 y1
  | clearMaskZone r z => exact .clearMaskZone s r z
  | setCureProfile r f => exact .setCureProfile s r f
  | eraseRecipe r => exact .withFreeRecipe fun x hx h0 => .modRecipe hx h0 .erase
  | writeSegment i x0 y0 x1 y1 v o => exact .writeSegment s i x0 y0 x1 y1 v o
  | startLine => exact .same (recipeBook_startLine s)
  | stopLine => exact .same (recipeBook_stopLine s)
  | clearLane l => exact .same (recipeBook_clearLane s l)
  | resetBooth l => exact .same (recipeBook_resetBooth s l)
  | resyncTag l => exact .same (recipeBook_resyncTag s l)
  | readRecipe r p => exact .same (congrArg State.recipeBook (serveReadRecipe_fst r p s))
  | readSegment i => exact .same (congrArg State.recipeBook (serveReadSegment_fst i s))
  | find id => exact .same (congrArg State.recipeBook (serveFind_fst id s))
  | readPanel h p => exact .same (congrArg State.recipeBook (serveReadPanel_fst h p s))
  | assignRecipe h r => exact .same (recipeBook_assignRecipe s h r)
  | bindId h id => exact .same (recipeBook_bindId s h id)
  | nextNotice => exact .same (recipeBook_nextNotice s)
  | retire h d => exact .same (recipeBook_retire s h d)
  | hold h r => exact .same (recipeBook_hold s h r)
  | service h r => exact .same (recipeBook_service s h r)
  | release h => exact .same (recipeBook_release s h)
  | waiveMask h => exact .same (recipeBook_waiveMask s h)
  | reenter h l p => exact .same (recipeBook_reenter s h l p)
  | withdraw h => exact .same (recipeBook_withdraw s h)
  | setParamBaudRate v => exact .same (recipeBook_setParam s (recipeBook_writeBaud s v.toNat))
  | setParamAbortLevel v => exact .same (recipeBook_setParamAbortLevel s v)
  | setParamStaleLimit v => exact .same (recipeBook_setParamStaleLimit s v)
  | setParamStationOffset | setParamEyeTolerance | setParamDivertPulse | setParamMinimumGap | setParamSettleTime
  | setParamEntryReserve | setParamDefaultRecipe | setParamInspectTimeout | setParamTraverseSpeed
  | setParamSamplePeriod | setParamAmbient | setParamClassLimits | setParamGainEntry | setParamReasonLevel =>
    exact .same (recipeBook_setParam s (recipeBook_writeParams s _))
  | _ => exact .same rfl

theorem bookEdit_complete (s : State) : BookEdit s s.complete := by
  unfold State.complete
  split; swap; · exact .same rfl
  split
  · exact .same rfl
  · unfold State.completeUnserved
    split
    · exact .same rfl
    · exact .same rfl
    · exact (bookEdit_serve _ s).of_book (recipeBook_respond ..)
  · exact .same rfl

/-- A request row acts when its request is in process, and does nothing otherwise (log 3). -/
theorem bookEdit_of_request {c : Instr} {s t : State} (hx : exec c s = takeEffect c (serve c) s)
    (h : exec c s = .next t) : BookEdit s t := by
  rw [hx] at h
  cases hp : s.inProcess c with
  | true =>
    rw [takeEffect_in hp] at h
    cases h
    exact (bookEdit_serve c s).of_book (recipeBook_withEffect ..)
  | false =>
    rw [takeEffect_out hp] at h
    cases h
    exact .same rfl

/-- An event that leaves the recipe book alone. -/
theorem bookEdit_of_event {f : State → State} {s t : State} (h : whenRunning f s = .next t)
    (hf : (f s).recipeBook = s.recipeBook) : BookEdit s t := by
  rcases whenRunning_cases h with rfl | ⟨-, rfl⟩
  · exact .same rfl
  · exact .same hf

/-- What every command does to the recipe book. -/
theorem bookEdit_exec {c : Instr} {s t : State} (h : exec c s = .next t) :
    BookEdit s t ∨ (c = .resetEnd ∧ t = s.endReset) := by
  have hedge : ∀ {l k v} {ev : State → State}, whenRunning (State.onEdge l k v ev) s = .next t →
      (∀ s, (ev s).recipeBook = s.recipeBook) → BookEdit s t :=
    fun h hf => bookEdit_of_event h (recipeBook_onEdge s _ hf _ _)
  cases c with
  | requestFrame bits | fetchFrame bits | ignoredFrame bits =>
    cases h; exact .inl (.same (recipeBook_clockedFrame s bits))
  | processingComplete =>
    rcases whenRunning_cases h with rfl | ⟨-, rfl⟩
    · exact .inl (.same rfl)
    · exact .inl (bookEdit_complete s)
  | csnFallingEdge => cases h; exact .inl (.same rfl)
  | rxdEdge level =>
    simp only [exec, execRxdEdge] at h
    split at h <;> cases h <;> exact .inl (.same rfl)
  | deviceReset cause =>
    simp only [exec, execDeviceReset] at h
    split at h <;> cases h <;> exact .inl (.same rfl)
  | resetEnd =>
    simp only [exec, execResetEnd] at h
    split at h <;> cases h
    · exact .inr ⟨rfl, rfl⟩
    · exact .inl (.same rfl)
  | encoderCount l sec v => exact .inl (hedge h fun s => recipeBook_count s l sec)
  | eyeEntry l v => exact .inl (hedge h fun s => recipeBook_entryEdge s l)
  | eyeOven l v => exact .inl (hedge h fun s => recipeBook_ovenEdge s l)
  | eyeUnload l v => exact .inl (hedge h fun s => recipeBook_unloadEdge s l)
  | moveDone l v => exact .inl (hedge h fun s => recipeBook_moveDoneEdge s l)
  | flowPulse l v => exact .inl (hedge h fun s => recipeBook_countPulse s l)
  | settledEvent l => exact .inl (bookEdit_of_event h (recipeBook_quietEnd s l))
  | flashClaimExpiry l => exact .inl (bookEdit_of_event h (recipeBook_claimEnd s l))
  | divertPulseEnd l g => exact .inl (bookEdit_of_event h (recipeBook_pulseEnd s l g))
  | inspectTrigPulseEnd l => exact .inl (bookEdit_of_event h (recipeBook_trigPulseEnd s l))
  | inspectTrigRecoveryEnd l => exact .inl (bookEdit_of_event h (recipeBook_trigRecoveryEnd s l))
  | inspectWindowExpiry k => exact .inl (bookEdit_of_event h (recipeBook_windowTimeout s k))
  | breakEntry => exact .inl (bookEdit_of_event h (recipeBook_enterBreak s))
  | lineQuiet => exact .inl (bookEdit_of_event h (recipeBook_lineQuiet s))
  | assemblerByteTake => exact .inl (bookEdit_of_event h (recipeBook_assemble s))
  | idRead => exact .inl (bookEdit_of_event h (recipeBook_takeRead s))
  | maskReport => exact .inl (bookEdit_of_event h (recipeBook_takeReport s))
  | gantryTransferEnd => exact .inl (bookEdit_of_event h (recipeBook_portEnd s))
  | durationExpiry l => exact .inl (bookEdit_of_event h (recipeBook_durationEnd s l))
  | moveTimeout l => exact .inl (bookEdit_of_event h (recipeBook_moveTimeoutEnd s l))
  | gantryErr l v => exact .inl (bookEdit_of_event h (recipeBook_gantryErrSample s l v))
  | recoatExpiry l => exact .inl (bookEdit_of_event h (recipeBook_recoatEnd s l))
  | pollStart => exact .inl (bookEdit_of_event h (by split <;> rfl))
  | pollCompletion rs => exact .inl (bookEdit_of_event h (recipeBook_completePoll s rs))
  | tachEdge z v n => exact .inl (bookEdit_of_event h (recipeBook_readTach ..))
  | stallWatchExpiry z n =>
    exact .inl (bookEdit_of_event (f := fun s => (s.atSample (s.sampleAt n)).stallAt z (s.sampleAt n)) h
      (recipeBook_stallAt ..))
  | tick | characterReceived | breakEnd => exact .inl (bookEdit_of_event h rfl)
  | _ => exact .inl (bookEdit_of_request rfl h)

end Sys2Proof.Machine
end

section
/-! SUPPORT. Recipes and the path pool stay in order (R28, R30, R38, R40), and a recipe that a record names stays as it
is (R35). -/

namespace Sys2Proof.Machine

/-! ### Rows on the panel (R28, R40) -/

/-- A coordinate on the panel at row 0 and at the last row is on it at every row between. -/
theorem row_within {y : Nat} {dy : Int} {rows row : Nat} (hy : y ≤ 600) (hlast : rowFits rows dy y = true)
    (hrow : row < rows) : 0 ≤ (y : Int) + row * dy ∧ (y : Int) + row * dy ≤ 600 := by
  simp only [rowFits, Bool.and_eq_true, decide_eq_true_eq] at hlast
  obtain ⟨hlo, hhi⟩ := hlast
  have hle : (row : Int) ≤ rows - 1 := by omega
  have hy' : (y : Int) ≤ 600 := by exact_mod_cast hy
  rcases le_total 0 dy with hd | hd
  · have h0 : 0 ≤ (row : Int) * dy := mul_nonneg (Int.natCast_nonneg row) hd
    have h1 : (row : Int) * dy ≤ (rows - 1) * dy := mul_le_mul_of_nonneg_right hle hd
    omega
  · have h0 : (row : Int) * dy ≤ 0 := mul_nonpos_of_nonneg_of_nonpos (Int.natCast_nonneg row) hd
    have h1 : ((rows : Int) - 1) * dy ≤ row * dy := mul_le_mul_of_nonpos_right hle hd
    omega

theorem rowsWithin_of_fit {b : Body} {g : Segment} (hg : segmentOk g) (hfit : segmentRowsFit b.rows b.dy g = true) :
    rowsWithin b g := by
  obtain ⟨-, hy0, -, hy1, -⟩ := hg
  simp only [segmentRowsFit, Bool.and_eq_true] at hfit
  intro row hrow
  obtain ⟨h1, h2⟩ := row_within hy0 hfit.1 hrow
  obtain ⟨h3, h4⟩ := row_within hy1 hfit.2 hrow
  exact ⟨h1, h2, h3, h4⟩

/-! ### Checks of DEFINE_RECIPE (R27, R28) -/

theorem processFieldsOk_iff (f : RecipeFields) : processFieldsOk f = true ↔
    1 ≤ f.coats ∧ f.coats ≤ 3 ∧ f.massClass ≤ 3 ∧ 0 ≤ f.recoat ∧ f.recoat ≤ 300 ∧ 0 ≤ f.flashMin ∧
      f.flashMin ≤ 900 ∧ 10 ≤ f.flowRate ∧ f.flowRate ≤ 5000 ∧ 1 ≤ f.flowTol ∧ f.flowTol ≤ 50 ∧
      f.minorTol ≤ 7 ∧ f.holdMask ≤ 15 := by
  simp only [processFieldsOk, Bool.and_eq_true, decide_eq_true_eq, and_assoc]

theorem pathFieldsOk_iff (f : RecipeFields) : pathFieldsOk f = true ↔
    f.base ≤ 383 ∧ 1 ≤ f.segs ∧ f.segs ≤ 32 ∧ 1 ≤ f.rows ∧ f.rows ≤ 64 ∧ -200 ≤ f.dy ∧ f.dy ≤ 200 ∧
      f.mode ≤ 1 ∧ f.rotation ≤ f.segs - 1 ∧ f.reversal ≤ 1 ∧ f.base + f.segs - 1 ≤ 383 := by
  simp only [pathFieldsOk, Bool.and_eq_true, decide_eq_true_eq, and_assoc]

theorem segmentRowsFit_iff (rows : Nat) (dy : Int) (g : Segment) : segmentRowsFit rows dy g = true ↔
    0 ≤ (g.y0 : Int) + ((rows : Int) - 1) * dy ∧ (g.y0 : Int) + ((rows : Int) - 1) * dy ≤ 600 ∧
      0 ≤ (g.y1 : Int) + ((rows : Int) - 1) * dy ∧ (g.y1 : Int) + ((rows : Int) - 1) * dy ≤ 600 := by
  simp only [segmentRowsFit, rowFits, Bool.and_eq_true, decide_eq_true_eq, and_assoc]

theorem poolRangeOk_iff (pool : Vector (Option Segment) 384) (f : RecipeFields) : poolRangeOk pool f = true ↔
    ∀ k, k < f.segs → ∃ g, pool[f.base + k]? = some (some g) ∧ segmentRowsFit f.rows f.dy g = true := by
  simp only [poolRangeOk, List.all_eq_true, List.mem_range]
  refine forall₂_congr fun k _ => ?_
  split
  · rename_i hnone
    simp only [Bool.false_eq_true, false_iff, not_exists, not_and]
    intro g hg
    simp [hg] at hnone
  · rename_i g hg
    rw [Option.join_eq_some_iff] at hg
    simp [hg]

/-- The body that DEFINE_RECIPE writes is in order when the pool's entries are (R28). -/
theorem State.bodyOk_bodyOfFields {s : State} {f : RecipeFields}
    (hpool : ∀ (i : Nat) (g : Segment), s.pool[i]? = some (some g) → segmentOk g) (hf : pathFieldsOk f = true)
    (hr : poolRangeOk s.pool f = true) : s.bodyOk (bodyOfFields f) := by
  obtain ⟨-, hsegs, -, hrows, -, -, -, -, hrot, -, hend⟩ := (pathFieldsOk_iff f).1 hf
  refine ⟨hsegs, ?_, ?_, hrows, fun k hk => ?_⟩
  · show f.base + f.segs ≤ 384
    omega
  · show f.rotation < f.segs
    omega
  · obtain ⟨g, hg, hfit⟩ := (poolRangeOk_iff _ _).1 hr k hk
    exact ⟨g, hg, rowsWithin_of_fit (hpool _ g hg) hfit⟩

/-! ### Mask maps (R30, R31) -/

/-- A zone put in a map in order: the map without its old entry, and the new one. -/
theorem mem_putZone {z w : MaskZone} {m : List MaskZone} (hm : (m.map MaskZone.zone).Pairwise (· < ·)) :
    w ∈ putZone z m ↔ w = z ∨ (w ∈ m ∧ w.zone ≠ z.zone) := by
  induction m with
  | nil => simp [putZone]
  | cons x xs ih =>
    rw [List.map_cons, List.pairwise_cons] at hm
    obtain ⟨hhead, htail⟩ := hm
    have hgt : w ∈ xs → x.zone < w.zone := fun hw => hhead _ (List.mem_map_of_mem hw)
    simp only [putZone]
    split
    · rename_i hlt
      have hne : w ∈ x :: xs → w.zone ≠ z.zone := fun hw => by
        rcases List.mem_cons.1 hw with rfl | hw
        · omega
        · have := hgt hw; omega
      rw [List.mem_cons, and_iff_left_of_imp hne]
    · split
      · rename_i heq
        have hne : w ∈ xs → w.zone ≠ z.zone := fun hw => by have := hgt hw; omega
        have hx : w = x → w.zone = z.zone := fun e => e ▸ heq.symm
        simp only [List.mem_cons]
        tauto
      · rename_i heq
        have hx : w = x → w.zone ≠ z.zone := fun e => e ▸ Ne.symm heq
        simp only [List.mem_cons, ih htail]
        tauto

theorem mapOk_putZone {z : MaskZone} {m : List MaskZone} (hz : z.zone ≤ 23) (hm : mapOk m) : mapOk (putZone z m) := by
  obtain ⟨hsorted, hle⟩ := hm
  refine ⟨?_, fun w hw => ?_⟩
  · clear hle
    induction m with
    | nil => simp [putZone]
    | cons x xs ih =>
      have hm := hsorted
      rw [List.map_cons, List.pairwise_cons] at hm
      obtain ⟨hhead, htail⟩ := hm
      simp only [putZone]
      split
      · rename_i hlt
        refine List.pairwise_cons.2 ⟨fun n hn => ?_, hsorted⟩
        rcases List.mem_cons.1 hn with rfl | hn
        · exact hlt
        · exact hlt.trans (hhead n hn)
      · split
        · rename_i heq
          exact List.pairwise_cons.2 ⟨fun n hn => heq ▸ hhead n hn, htail⟩
        · refine List.pairwise_cons.2 ⟨fun n hn => ?_, ih htail⟩
          obtain ⟨w, hw, rfl⟩ := List.mem_map.1 hn
          rcases (mem_putZone htail).1 hw with rfl | ⟨hw, -⟩
          · omega
          · exact hhead _ (List.mem_map_of_mem hw)
  · rcases (mem_putZone hsorted).1 hw with rfl | ⟨hw, -⟩
    · exact hz
    · exact hle w hw

theorem mapOk_filter {m : List MaskZone} (q : MaskZone → Bool) (hm : mapOk m) : mapOk (m.filter q) :=
  ⟨hm.1.sublist (List.filter_sublist.map _), fun z hz => hm.2 z (List.mem_of_mem_filter hz)⟩

/-! ### What an edit keeps -/

theorem PartsEdit.mapOk {s : State} {x y : Recipe} (h : PartsEdit s x y) (hx : Machine.mapOk x.map) :
    Machine.mapOk y.map := by
  cases h with
  | define | cure => exact hx
  | putZone z hz => exact mapOk_putZone hz hx
  | dropZone zone => exact mapOk_filter _ hx
  | erase => exact ⟨.nil, fun z hz => by cases hz⟩

theorem PartsEdit.bodyOk {s : State} {x y : Recipe} {b : Body} (h : PartsEdit s x y)
    (hpool : ∀ (i : Nat) (g : Segment), s.pool[i]? = some (some g) → segmentOk g)
    (hx : ∀ b, x.body = some b → s.bodyOk b) (hb : y.body = some b) : s.bodyOk b := by
  cases h with
  | define f hf hp =>
    cases hb
    exact State.bodyOk_bodyOfFields hpool hf hp
  | putZone | dropZone | cure => exact hx b hb
  | erase => cases hb

theorem State.pool_putSegment (s : State) (i j : Nat) (g : Segment) :
    (s.putSegment i g).pool[j]? = if j = i ∧ i < 384 then some (some g) else s.pool[j]? := by
  simp only [State.putSegment, Vector.getElem?_setIfInBounds, eq_comm (a := j)]
  by_cases h : i = j
  · subst j
    by_cases hi : i < 384 <;> simp [hi]
  · simp [h]

theorem rangeIncludes_iff {i : Nat} {x : Recipe} {b : Body} (hb : x.body = some b) :
    rangeIncludes i x = true ↔ b.base ≤ i ∧ i ≤ b.base + b.segs - 1 := by
  simp [rangeIncludes, hb]

theorem keepsRows_iff {i : Nat} {g : Segment} {x : Recipe} {b : Body} (hb : x.body = some b) :
    keepsRows i g x = true ↔
      (b.base ≤ i ∧ i ≤ b.base + b.segs - 1 → segmentRowsFit b.rows b.dy g = true) := by
  rw [← rangeIncludes_iff hb]
  simp only [keepsRows, hb]
  cases rangeIncludes i x <;> simp

/-- An entry written keeps the body of each recipe in order (R40). -/
theorem SegmentFits.bodyOk {s : State} {i r : Nat} {g : Segment} {x : Recipe} {b : Body} (hg : SegmentFits s i g)
    (hx : s.recipe r = some x) (hb : x.body = some b) (hok : s.bodyOk b) : (s.putSegment i g).bodyOk b := by
  obtain ⟨hsegs, hend, hrot, hrows, hentries⟩ := hok
  refine ⟨hsegs, hend, hrot, hrows, fun k hk => ?_⟩
  rw [State.pool_putSegment]
  split
  · rename_i hi
    have hfit := (keepsRows_iff hb).1 (hg.rows r x hx) (by omega)
    exact ⟨g, rfl, rowsWithin_of_fit hg.entry hfit⟩
  · exact hentries k hk

/-! ### The invariant -/

theorem State.recipesOk_of_book {s t : State} (h : t.recipeBook = s.recipeBook) (hs : s.recipesOk) : t.recipesOk := by
  obtain ⟨hpool, hrec⟩ := hs
  have hp := pool_of_recipeBook h
  refine ⟨fun i g hg => hpool i g (hp ▸ hg), fun r y hy => ?_⟩
  obtain ⟨x, hx, hbody, hmap, -⟩ := recipe_of_recipeBook h.symm hy
  obtain ⟨hmok, hbok⟩ := hrec r x hx
  refine ⟨hmap ▸ hmok, fun b hb => ?_⟩
  have := hbok b (hbody.trans hb)
  simpa only [State.bodyOk, hp] using this

theorem State.recipesOk_putRecipe {s : State} {r : Nat} {x y : Recipe} (hs : s.recipesOk) (hx : s.recipe r = some x)
    (hy : PartsEdit s x y) : (s.putRecipe r y).recipesOk := by
  obtain ⟨hpool, hrec⟩ := hs
  refine ⟨hpool, fun k z hz => ?_⟩
  rw [State.recipe_putRecipe] at hz
  split at hz
  · cases hz
    exact ⟨hy.mapOk (hrec r x hx).1, fun b hb => hy.bodyOk hpool (hrec r x hx).2 hb⟩
  · exact hrec k z hz

theorem State.recipesOk_putSegment {s : State} {i : Nat} {g : Segment} (hs : s.recipesOk) (hg : SegmentFits s i g) :
    (s.putSegment i g).recipesOk := by
  obtain ⟨hpool, hrec⟩ := hs
  refine ⟨fun j e he => ?_, fun r x hx => ?_⟩
  · rw [State.pool_putSegment] at he
    split at he
    · cases he
      exact hg.entry
    · exact hpool j e he
  · obtain ⟨hmap, hbody⟩ := hrec r x hx
    exact ⟨hmap, fun b hb => hg.bodyOk hx hb (hbody b hb)⟩

theorem BookEdit.recipesOk {s t : State} (h : BookEdit s t) (hs : s.recipesOk) : t.recipesOk := by
  cases h with
  | same h => exact State.recipesOk_of_book h hs
  | parts hx _ hy h => exact State.recipesOk_of_book h (State.recipesOk_putRecipe hs hx hy)
  | segment hg h => exact State.recipesOk_of_book h (State.recipesOk_putSegment hs hg)

/-- Settles O10: what one command does to the recipe book keeps it in order, and the reset state's is empty. -/
theorem recipesKept : Obligations.RecipesKept := by
  intro s t hs h
  refine step_keeps (P := State.recipesOk) (fun s q hs => State.recipesOk_of_book rfl hs) (fun c s t hs h => ?_) hs h
  rcases bookEdit_exec h with hedit | ⟨-, rfl⟩
  · exact hedit.recipesOk hs
  · exact State.recipesOk_of_book (s := State.reset) rfl State.reset_recipesOk

/-! ### A recipe that a record names (R35) -/

/-- What one command leaves of a recipe that a record names: its parts, and the pool entries of its range. -/
theorem BookEdit.referenced {s t : State} {r : Nat} {x : Recipe} (h : BookEdit s t) (hx : s.recipe r = some x)
    (href : 0 < x.refs) :
    (∃ y, t.recipe r = some y ∧ y.body = x.body ∧ y.map = x.map ∧ y.cure = x.cure) ∧
    ∀ b, x.body = some b → ∀ i, b.base ≤ i → i < b.base + b.segs → t.pool[i]? = s.pool[i]? := by
  cases h with
  | same h => exact ⟨recipe_of_recipeBook h hx, fun b _ i _ _ => by rw [pool_of_recipeBook h]⟩
  | @parts k x' y' hx' h0 _ h =>
    have hne : r ≠ k := by
      rintro rfl
      cases hx.symm.trans hx'
      omega
    have hsame : (s.putRecipe k y').recipe r = some x := by rw [State.recipe_putRecipe, if_neg (by tauto), hx]
    exact ⟨recipe_of_recipeBook h hsame, fun b _ i _ _ => by rw [pool_of_recipeBook h]; rfl⟩
  | @segment k g hg h =>
    refine ⟨recipe_of_recipeBook h hx, fun b hb i hlo hhi => ?_⟩
    have hout := hg.unused r x hx href
    have hne : i ≠ k := by
      rintro rfl
      rw [(rangeIncludes_iff hb).2 (by omega)] at hout
      cases hout
    rw [pool_of_recipeBook h, State.pool_putSegment, if_neg (by tauto)]

/-- Settles O12: an edit of a recipe or of its pool entries needs that no record names the recipe (R26, R39). -/
theorem referencedRecipeUnchanged : Obligations.ReferencedRecipeUnchanged := by
  intro c s t r x hc h hx href
  rcases bookEdit_exec h with hedit | ⟨rfl, -⟩
  · exact hedit.referenced hx href
  · exact absurd rfl hc

end Sys2Proof.Machine
end

section
/-! SUPPORT. The requests that edit a free recipe, and WRITE_SEGMENT (R26 to R33, R39, R40). -/

namespace Sys2Proof.Machine

/-! ### Behind the checks of R26 -/

theorem State.withFreeRecipe_of_free {s : State} {r : Nat} {x : Recipe} (hx : s.recipe r = some x) (h0 : x.refs = 0)
    (f : Recipe → State × Response) : s.withFreeRecipe r f = f x := by
  simp [State.withFreeRecipe, hx, h0]

/-- A request whose own check decides whether one recipe is replaced or RANGE answered. -/
theorem editRule {c : Instr} {s : State} {r : Nat} {x : Recipe} {ok : Bool} {f : Recipe → Recipe}
    (hc : exec c s = takeEffect c (serve c) s) (hp : s.inProcess c = true) (hx : s.recipe r = some x)
    (hf : serve c s = if ok then (s.modRecipe r f).answer [] else s.refuse .range) :
    (ok = true → Accepts c s (s.putRecipe r (f x)) []) ∧ (¬ok = true → Refuses c s .range) := by
  refine ⟨fun hok => accepts_of_serve hc hp ?_, fun hbad => refuses_of_serve hc hp ?_⟩
  · rw [hf, if_pos hok, State.modRecipe_of_some hx]
  · rw [hf, if_neg hbad]

/-- Settles O24: the checks of R27 and R28 are those of the statement, one by one. -/
theorem defineRecipeRule : Obligations.DefineRecipeRule := by
  intro s r f x hp hx h0
  simp only [← segmentRowsFit_iff]
  rw [← processFieldsOk_iff, ← pathFieldsOk_iff, ← poolRangeOk_iff, ← Bool.and_eq_true, ← Bool.and_eq_true,
    ← Bool.and_assoc]
  exact editRule rfl hp hx (State.withFreeRecipe_of_free hx h0 _)

theorem maskZoneOk_iff (zone crit x0 y0 x1 y1 : Nat) : maskZoneOk zone crit x0 y0 x1 y1 = true ↔
    zone ≤ 23 ∧ crit ≤ 1 ∧ x0 ≤ 600 ∧ y0 ≤ 600 ∧ x1 ≤ 600 ∧ y1 ≤ 600 ∧ x0 ≤ x1 ∧ y0 ≤ y1 := by
  simp only [maskZoneOk, Bool.and_eq_true, decide_eq_true_eq, and_assoc]

theorem cureFieldsOk_iff (f : CureFields) : cureFieldsOk f = true ↔
    500 ≤ f.tRef ∧ f.tRef ≤ 2500 ∧ 4 ≤ f.doubling ∧ f.doubling ≤ 20 ∧
      f.tRef - 80 * (f.doubling : Int) ≤ f.tFloor ∧ f.tFloor ≤ f.tRef ∧ 1 ≤ f.target ∧ f.target ≤ 2000000000 ∧
      f.target < f.ceiling ∧ f.ceiling ≤ 4294967295 ∧ -400 ≤ f.minPeak ∧ f.minPeak ≤ 3500 ∧
      -400 ≤ f.peakLimit ∧ f.peakLimit ≤ 3500 ∧ f.minPeak ≤ f.peakLimit := by
  simp only [cureFieldsOk, Bool.and_eq_true, decide_eq_true_eq, and_assoc]

/-- CLEAR_MASK_ZONE of a free recipe, by its checks in order (R31). -/
theorem serveClearMaskZone_of_free {s : State} {r zone : Nat} {x : Recipe} (hx : s.recipe r = some x)
    (h0 : x.refs = 0) :
    serveClearMaskZone r zone s =
      if 23 < zone then s.refuse .range
      else if ∃ z ∈ x.map, z.zone = zone then
        (s.putRecipe r { x with map := x.map.filter fun z => z.zone != zone }).answer []
      else s.refuse .notFound := by
  rw [serveClearMaskZone, State.withFreeRecipe_of_free hx h0, State.modRecipe_of_some hx]
  simp only [List.any_eq_true, beq_iff_eq]

/-- Settles O25: the four requests behind the checks of R26, each by its own check. -/
theorem recipePartEdits : Obligations.RecipePartEdits := by
  intro s r x hx h0
  refine ⟨fun zone crit x0 y0 x1 y1 hp => ?_, fun zone hp => ?_, fun f hp => ?_, fun hp => ?_⟩
  · simp only [← maskZoneOk_iff]
    obtain ⟨haccept, hrefuse⟩ := editRule rfl hp hx (State.withFreeRecipe_of_free hx h0 _)
    exact ⟨fun hok hm => ⟨_, haccept hok, mapOk_putZone ((maskZoneOk_iff ..).1 hok).1 hm,
      fun z => mem_putZone hm.1⟩, hrefuse⟩
  · have hserve := serveClearMaskZone_of_free (zone := zone) hx h0
    refine ⟨fun hz => ?_, fun hz hnone => ?_, fun hz hsome => ?_⟩
    · exact refuses_of_serve (f := serveClearMaskZone r zone) rfl hp (by rw [hserve, if_pos (by omega)])
    · refine refuses_of_serve (f := serveClearMaskZone r zone) rfl hp ?_
      rw [hserve, if_neg (by omega), if_neg fun ⟨z, hz, e⟩ => hnone z hz e]
    · exact accepts_of_serve (f := serveClearMaskZone r zone) rfl hp (by rw [hserve, if_neg (by omega), if_pos hsome])
  · simp only [← cureFieldsOk_iff]
    exact editRule rfl hp hx (State.withFreeRecipe_of_free hx h0 _)
  · refine accepts_of_serve (f := serveEraseRecipe r) rfl hp ?_
    rw [serveEraseRecipe, State.withFreeRecipe_of_free hx h0, State.modRecipe_of_some hx]

/-! ### WRITE_SEGMENT -/

/-- WRITE_SEGMENT by its checks in order: the fields (R38, R39), the references (R39), the rows (R40). -/
theorem serveWriteSegment_eq (s : State) (i x0 y0 x1 y1 v o : Nat) {g : Segment}
    (hg : g = { x0 := x0, y0 := y0, x1 := x1, y1 := y1, speed := v, valveOpen := o == 1 }) :
    serveWriteSegment i x0 y0 x1 y1 v o s =
      if i ≤ 383 ∧ segmentFieldsOk x0 y0 x1 y1 v o = true ∧ axisAligned x0 y0 x1 y1 = true then
        if (s.recipes.toList.any fun x => 0 < x.refs && rangeIncludes i x) = true then s.refuse .inUse
        else if s.recipes.toList.all (keepsRows i g) = true then (s.putSegment i g).answer []
        else s.refuse .range
      else s.refuse .range := by
  simp only [serveWriteSegment, State.putSegment, ← hg]
  by_cases hi : i ≤ 383
  · have hle : ¬383 < i := by omega
    generalize s.recipes.toList.all (keepsRows i g) = kept
    cases segmentFieldsOk x0 y0 x1 y1 v o <;> cases axisAligned x0 y0 x1 y1 <;> cases kept <;> simp [hi, hle]
  · simp [hi]

/-- Settles O26: the five checks in order. -/
theorem writeSegmentRule : Obligations.WriteSegmentRule := by
  intro s i x0 y0 x1 y1 v o hp fields used keeps entry
  have hfields : fields ↔ i ≤ 383 ∧ segmentFieldsOk x0 y0 x1 y1 v o = true ∧ axisAligned x0 y0 x1 y1 = true := by
    rw [segmentFieldsOk_iff, axisAligned_iff]
    simp only [fields, and_assoc]
  have hused : used ↔ (s.recipes.toList.any fun x => 0 < x.refs && rangeIncludes i x) = true := by
    rw [State.segmentInUse_iff]
    constructor
    · rintro ⟨r, x, b, hx, href, hb, hin⟩
      exact ⟨r, x, hx, href, (rangeIncludes_iff hb).2 hin⟩
    · rintro ⟨r, x, hx, href, hin⟩
      cases hb : x.body with
      | none => simp [rangeIncludes, hb] at hin
      | some b => exact ⟨r, x, b, hx, href, hb, (rangeIncludes_iff hb).1 hin⟩
  have hkeeps : keeps ↔ s.recipes.toList.all (keepsRows i entry) = true := by
    rw [State.rowsKept_iff]
    constructor
    · intro h r x hx
      cases hb : x.body with
      | none => simp [keepsRows, hb]
      | some b => exact (keepsRows_iff hb).2 fun hin => (segmentRowsFit_iff ..).2 (h r x b hx hb hin.1 hin.2)
    · intro h r x b hx hb hlo hhi
      exact (segmentRowsFit_iff ..).1 ((keepsRows_iff hb).1 (h r x hx) ⟨hlo, hhi⟩)
  have hserve := serveWriteSegment_eq s i x0 y0 x1 y1 v o (g := entry) rfl
  rw [hfields, hused, hkeeps]
  refine ⟨fun hf => ?_, fun hf hu => ?_, fun hf hu hk => ?_, fun hf hu hk => ?_⟩
  · exact refuses_of_serve (f := serveWriteSegment i x0 y0 x1 y1 v o) rfl hp (by rw [hserve, if_neg hf])
  · exact refuses_of_serve (f := serveWriteSegment i x0 y0 x1 y1 v o) rfl hp (by rw [hserve, if_pos hf, if_pos hu])
  · refine refuses_of_serve (f := serveWriteSegment i x0 y0 x1 y1 v o) rfl hp ?_
    rw [hserve, if_pos hf, if_neg hu, if_neg hk]
  · refine accepts_of_serve (f := serveWriteSegment i x0 y0 x1 y1 v o) rfl hp ?_
    rw [hserve, if_pos hf, if_neg hu, if_pos hk]
    rfl

end Sys2Proof.Machine
end

section
/-! SUPPORT. SET_PARAM of the parameters that act by their value alone (R181). -/

namespace Sys2Proof.Machine

/-- The line modes of a parameter, by whether it is taken in CONFIG only. -/
def paramModes (configOnly : Bool) : ParamModes := if configOnly then .configOnly else .both

theorem paramModes_refuses_iff (configOnly : Bool) (m : LineMode) :
    (paramModes configOnly).refuses m = true ↔ configOnly = true ∧ m = .run := by
  cases configOnly <;> cases m <;> simp [paramModes, ParamModes.refuses]

/-- SET_PARAM by its checks 2 and 3 (R181). -/
theorem State.setParam_eq (s : State) (configOnly valid : Bool) (write : State → State) :
    s.setParam (paramModes configOnly) valid write =
      if configOnly = true ∧ s.mode = .run then s.refuse .mode
      else if valid = true then (write s).answer [] else s.refuse .range := by
  simp only [State.setParam, paramModes_refuses_iff]

/-- The rule of a parameter from the definition of its request and what its check of the value says. -/
theorem paramRule_of_setParam {c : Instr} {s t : State} {configOnly ok : Bool} {valid : Prop} {write : State → State}
    (hx : exec c s = takeEffect c (serve c) s) (hs : serve c s = s.setParam (paramModes configOnly) ok write)
    (hw : write s = t) (hv : ok = true ↔ valid) : ParamRule c s configOnly valid t := by
  rw [State.setParam_eq, hw] at hs
  refine fun hp => ⟨fun hmode => ?_, fun hmode => ⟨fun hvalid => ?_, fun hvalid => ?_⟩⟩
  · exact refuses_of_serve hx hp (by rw [hs, if_pos hmode])
  · exact accepts_of_serve hx hp (by rw [hs, if_neg hmode, if_pos (hv.2 hvalid)])
  · exact refuses_of_serve hx hp (by rw [hs, if_neg hmode, if_neg (mt hv.1 hvalid)])

theorem samplePeriodOk_iff (v : Int) :
    (inRange 250 2000 v && v.toNat % 250 == 0) = true ↔ 250 ≤ v ∧ v ≤ 2000 ∧ v % 250 = 0 := by
  rw [Bool.and_eq_true, inRange_iff, beq_iff_eq]
  omega

theorem classLimitsOk_iff (c5 c4 c3 c2 c1 : Int) :
    classLimitsOk c5 c4 c3 c2 c1 = true ↔ 1 ≤ c5 ∧ c5 < c4 ∧ c4 < c3 ∧ c3 < c2 ∧ c2 < c1 ∧ c1 ≤ 49999 := by
  simp only [classLimitsOk, Bool.and_eq_true, inRange_iff, decide_eq_true_eq]
  omega

theorem gainEntryOk_iff (m a : Nat) (v : Int) :
    (decide (m ≤ 3) && decide (a ≤ 5) && inRange 0 65535 v) = true ↔ m ≤ 3 ∧ a ≤ 5 ∧ 0 ≤ v ∧ v ≤ 65535 := by
  simp only [Bool.and_eq_true, inRange_iff, decide_eq_true_eq, and_assoc]

theorem reasonLevelOk_iff (r : Nat) (v : Int) :
    (decide (3 ≤ r) && decide (r ≤ 17) && inRange 0 7 v) = true ↔ 3 ≤ r ∧ r ≤ 17 ∧ 0 ≤ v ∧ v ≤ 7 := by
  simp only [Bool.and_eq_true, inRange_iff, decide_eq_true_eq, and_assoc]

theorem defaultRecipeOk_iff (l : LaneNo) (v : Int) :
    defaultRecipeOk (laneNum l) v = true ↔ -1 ≤ v ∧ v ≤ 15 := by
  simp [defaultRecipeOk, inRange_iff]

theorem defaultRecipeOk_of_no_lane {n : Nat} (hn : 2 ≤ n) (v : Int) : defaultRecipeOk n v = false := by
  simp [defaultRecipeOk, (laneOfNat_eq_none_iff n).2 hn]

theorem Params.withDefault_laneNum (l : LaneNo) (r : Option Nat) (p : Params) :
    p.withDefault (laneNum l) r = { p with defaultRecipe := p.defaultRecipe.set l r } := by
  simp [Params.withDefault]

theorem configParameters : Claims.ConfigParameters := by
  rintro s v p rfl
  exact ⟨fun _ => paramRule_of_setParam rfl rfl rfl (inRange_iff ..),
    paramRule_of_setParam rfl rfl rfl (inRange_iff ..),
    paramRule_of_setParam rfl rfl rfl (inRange_iff ..), paramRule_of_setParam rfl rfl rfl (inRange_iff ..),
    paramRule_of_setParam rfl rfl rfl (samplePeriodOk_iff v),
    fun c5 c4 c3 c2 c1 => paramRule_of_setParam rfl rfl rfl (classLimitsOk_iff c5 c4 c3 c2 c1),
    fun m a => paramRule_of_setParam rfl rfl rfl (gainEntryOk_iff m a v),
    fun r => paramRule_of_setParam rfl rfl rfl (reasonLevelOk_iff r v)⟩

theorem bothModeParameters : Claims.BothModeParameters := by
  rintro s v p rfl
  refine ⟨paramRule_of_setParam rfl rfl rfl (inRange_iff ..), paramRule_of_setParam rfl rfl rfl (inRange_iff ..),
    paramRule_of_setParam rfl rfl rfl (inRange_iff ..), paramRule_of_setParam rfl rfl rfl (inRange_iff ..),
    paramRule_of_setParam rfl rfl rfl (inRange_iff ..), fun l => ?_, fun n hn hp => ?_⟩
  · refine paramRule_of_setParam rfl rfl ?_ (defaultRecipeOk_iff l v)
    rw [State.writeParams, Params.withDefault_laneNum]
    rfl
  · refine refuses_of_serve (f := serveSetParamDefaultRecipe n v) rfl hp ?_
    simp [serveSetParamDefaultRecipe, State.setParam, ParamModes.refuses, defaultRecipeOk_of_no_lane hn]

/-- Settles O34: the parameters taken in CONFIG only, and those taken in both line modes. -/
theorem plainParameters : Obligations.PlainParameters := ⟨configParameters, bothModeParameters⟩

end Sys2Proof.Machine
end

section
/-! SUPPORT. An arrival at MASK and the trigger (R36, R55, R83, R85 to R87). -/

namespace Sys2Proof.Machine

/-! ### The arrival (R36, R55, R85) -/

theorem State.usableDefault_eq_some {s : State} {l : LaneNo} {r : Nat} (hr : s.params.defaultRecipe.get l = some r)
    (hd : s.definedRecipe r = true) : s.usableDefault l = some r := by
  simp [State.usableDefault, hr, hd]

theorem State.usableDefault_eq_none {s : State} {l : LaneNo}
    (h : ∀ r, s.params.defaultRecipe.get l = some r → s.definedRecipe r = false) : s.usableDefault l = none := by
  unfold State.usableDefault
  split
  · rfl
  · rename_i r hr
    simp [h r hr]

/-! An ADMITTED record at MASK, by what it has for a recipe (R55). -/

theorem State.arriveMask_of_recipe {s : State} {l : LaneNo} {h r : Nat} {p : Panel} (hp : s.panel h = some p)
    (hst : p.stage = .admitted) (hr : p.recipe = some r) : s.arriveMask l h = s.maskStation l h := by
  simp [State.arriveMask, hp, hst, hr]

theorem State.arriveMask_of_default {s : State} {l : LaneNo} {h r : Nat} {p : Panel} (hp : s.panel h = some p)
    (hst : p.stage = .admitted) (hn : p.recipe = none) (hd : s.usableDefault l = some r) :
    s.arriveMask l h = ((s.setSlot h (some { p with recipe := some r })).moveRefs none r).maskStation l h := by
  simp [State.arriveMask, hp, hst, hn, hd, State.modPanel_of_live hp, State.moveRefs]

theorem State.arriveMask_of_no_recipe {s : State} {l : LaneNo} {h : Nat} {p : Panel} (hp : s.panel h = some p)
    (hst : p.stage = .admitted) (hn : p.recipe = none) (hd : s.usableDefault l = none) :
    s.arriveMask l h = s.raise .noRecipe h := by
  simp [State.arriveMask, hp, hst, hn, hd]

theorem State.maskStation_of_live {s : State} {l : LaneNo} {h : Nat} {p : Panel} (hp : s.panel h = some p) :
    s.maskStation l h =
      if p.resume = some .fromSpray ∧ p.mask ≠ none then s.modPanel h fun p => { p with stage := .verified }
      else if (s.mvf.get l).backlog = 24 then
        (s.modPanel h fun p => { p with stage := .verified, mask := none }).raise .inspectTimeout h
      else s.trigger l h := by
  simp only [State.maskStation, hp, Bool.and_eq_true, decide_eq_true_eq, Option.isSome_iff_ne_none]

/-- A record given the lane's default recipe: its reference counted, and nothing else changed (R5, R36). -/
theorem State.assigned_spec {s : State} {h r : Nat} {p : Panel} (hp : s.panel h = some p) :
    let u := (s.setSlot h (some { p with recipe := some r })).moveRefs none r
    u = { s with slots := u.slots, recipes := u.recipes } ∧ u.panel h = some { p with recipe := some r } ∧
      s.othersKept u h ∧
      ∀ k x, s.recipe k = some x → u.recipe k = some { x with refs := if k = r then x.refs + 1 else x.refs } := by
  refine ⟨?_, ?_, fun k hk => ?_, fun k x hx => ?_⟩
  · rw [State.moveRefs_frame]; rfl
  · rw [State.panel_moveRefs, State.panel_setSlot_self _ (State.panel_lt hp)]
  · rw [State.panel_moveRefs, State.panel_setSlot_ne _ hk]
  · rw [State.recipe_moveRefs _ (by simp), State.setSlot_recipe, hx]; simp

theorem maskStationRule : Claims.MaskStationRule := by
  intro s l h p hp
  have harrive : s.arrive l (.mask, h) = s.arriveMask l h := rfl
  rw [harrive]
  refine ⟨fun hst => ?_, fun hst hn => ⟨fun r hr hd => ?_, fun hnone => ?_⟩,
    fun r hst hr => ⟨fun hspray hmask => ?_, fun hby hback => ?_, fun hby hback => ?_⟩⟩
  · simp [State.arriveMask, hp, hst]
  · obtain ⟨hframe, hpanel, hothers, hcounts⟩ := State.assigned_spec (r := r) hp
    exact ⟨_, State.arriveMask_of_default hp hst hn (State.usableDefault_eq_some hr hd), hframe, hpanel, hothers,
      hcounts⟩
  · exact State.arriveMask_of_no_recipe hp hst hn (State.usableDefault_eq_none hnone)
  · rw [State.arriveMask_of_recipe hp hst hr, State.maskStation_of_live hp, if_pos ⟨hspray, hmask⟩]
  · rw [State.arriveMask_of_recipe hp hst hr, State.maskStation_of_live hp, if_neg hby, if_pos hback]
  · rw [State.arriveMask_of_recipe hp hst hr, State.maskStation_of_live hp, if_neg hby, if_neg hback]

/-! ### The trigger (R83, R86, R87) -/

/-- A mask verifier's lane with one more window: the tag counter on by one, modulo 16 (R83, R86). -/
def MaskLane.opened (w : Window) (m : MaskLane) : MaskLane :=
  { m with tag := m.tag + 1, inspecting := m.inspecting ++ [w] }

/-- A mask verifier's lane with one more pulse: begun at once, or owed (R87). -/
def MaskLane.pulsed (until_ : Tick) (m : MaskLane) : MaskLane :=
  if m.trig = .free ∧ m.backlog = 0 then { m with trig := .asserted until_ }
  else { m with backlog := m.backlog + 1 }

/-- A trigger whose tag no record of the list holds (R86). -/
theorem State.trigger_eq {s : State} {l : LaneNo} {h : Nat} {p : Panel} (hp : s.panel h = some p)
    (hfree : s.inspectingWithTag l (s.mvf.get l).tag = none) :
    s.trigger l h =
      (s.setSlot h (some { p with inspectTag := some (s.mvf.get l).tag, stage := .inspecting })).modMvf l fun m =>
        (m.opened { handle := h, expiry := s.later s.params.inspectTimeout }).pulsed (s.later 5) := by
  simp only [State.trigger, State.reuseTag, hfree, State.modPanel_of_live hp, State.owePulse, State.modMvf,
    PerLane.get_set_self, PerLane.set_set, Bool.and_eq_true, decide_eq_true_eq]
  rfl

theorem MaskLane.pulsed_spec (until_ : Tick) (m : MaskLane) :
    (m.pulsed until_).tag = m.tag ∧ (m.pulsed until_).inspecting = m.inspecting ∧
    (m.trig = .free → m.backlog = 0 →
      (m.pulsed until_).trig = .asserted until_ ∧ (m.pulsed until_).backlog = 0) ∧
    (¬(m.trig = .free ∧ m.backlog = 0) →
      (m.pulsed until_).trig = m.trig ∧ (m.pulsed until_).backlog = m.backlog + 1) := by
  unfold MaskLane.pulsed
  split
  · rename_i hfree
    exact ⟨rfl, rfl, fun _ _ => ⟨rfl, hfree.2⟩, fun hbusy => absurd hfree hbusy⟩
  · rename_i hbusy
    exact ⟨rfl, rfl, fun ht hb => absurd ⟨ht, hb⟩ hbusy, fun _ => ⟨rfl, rfl⟩⟩

theorem triggerRule : Claims.TriggerRule := by
  intro s l h p hp hfree m u
  have hu : u = _ := State.trigger_eq hp hfree
  have hlane : u.mvf.get l =
      (m.opened { handle := h, expiry := s.later s.params.inspectTimeout }).pulsed (s.later 5) := by
    rw [hu, State.modMvf_mvf, PerLane.get_set_self]; rfl
  obtain ⟨htag, hlist, hbegun, howed⟩ := MaskLane.pulsed_spec (s.later 5)
    (m.opened { handle := h, expiry := s.later s.params.inspectTimeout })
  rw [hlane, htag, hlist]
  refine ⟨?_, fun k hk => ?_, ?_, ?_, ?_, rfl, hbegun, howed⟩
  · rw [hu]; rfl
  · rw [hu]; exact State.panel_setSlot_ne _ hk
  · rw [hu]; exact State.panel_setSlot_self _ (State.panel_lt hp)
  · rw [hu, State.modMvf_mvf, PerLane.get_set_other]; rfl
  · exact BitVec.toNat_add m.tag 1

/-- Settles O41: the arrival by the record's recipe, and the trigger. -/
theorem maskArrival : Obligations.MaskArrival := ⟨maskStationRule, triggerRule⟩

end Sys2Proof.Machine
end

section
/-! SUPPORT. Booth channels, lanes and line mode stay in order together (R43, R47, R48, R116): `LanesOk` says it lane
by lane, and every operation on a lane or a channel keeps it. -/

namespace Sys2Proof.Machine

/-! ### The invariant -/

/-- A lane's channel is in order (R116). -/
structure ChannelOk (a : LaneTrack) (c : Channel) : Prop where
  served : c.served.isSome = true ↔ c.state ≠ .idle
  claim : a.boothClaim = true ↔ c.state ≠ .idle
  order : c.order.isSome = true → c.state.mayHoldOrder = true
  flight : c.inFlight = true → c.order.isSome = true

/-- A lane agrees with the line mode: at rest in CONFIG, not IDLE in RUN (R43, R47, R48). -/
structure LaneInMode (m : LineMode) (a : LaneTrack) : Prop where
  config : m = .config → a.state = .idle ∧ a.front = [] ∧ a.oven = [] ∧ a.flashClaim = none ∧ a.quiet = none
  run : m = .run → a.state ≠ .idle

/-- A lane and its channel are in order and, where `Q` asks for it, agree with the line mode. -/
structure LaneOk (Q : Prop) (m : LineMode) (a : LaneTrack) (c : Channel) : Prop where
  channel : ChannelOk a c
  mode : Q → LaneInMode m a
  resting : Q → m = .config → c.state = .idle

/-- Both lanes are in order: `boothOk` when `Q` is false, `boothOk` and `modeOk` together when it is true. -/
def LanesOk (Q : Prop) (s : State) : Prop := ∀ l, LaneOk Q s.mode (s.ltk.get l) (s.bch.get l)

theorem lanesOk_iff (Q : Prop) (s : State) : LanesOk Q s ↔ s.boothOk ∧ (Q → s.modeOk) := by
  constructor
  · intro h
    refine ⟨fun l => ?_, fun hq => ⟨fun hm l => ?_, fun hm l => ((h l).mode hq).run hm⟩⟩
    · obtain ⟨h1, h2, h3, h4⟩ := (h l).channel
      exact ⟨h1, h2, h3, h4⟩
    · obtain ⟨h1, h2, h3, h4, h5⟩ := ((h l).mode hq).config hm
      exact ⟨h1, h2, h3, h4, h5, (h l).resting hq hm⟩
  · rintro ⟨hb, hm⟩ l
    obtain ⟨h1, h2, h3, h4⟩ := hb l
    refine ⟨⟨h1, h2, h3, h4⟩, fun hq => ⟨fun hc => ?_, fun hr => (hm hq).2 hr l⟩, fun hq hc => ?_⟩
    · obtain ⟨h1, h2, h3, h4, h5, -⟩ := (hm hq).1 hc l
      exact ⟨h1, h2, h3, h4, h5⟩
    · obtain ⟨-, -, -, -, -, h6⟩ := (hm hq).1 hc l
      exact h6

/-- What the invariant reads of a state. -/
def State.lanesView (s : State) : PerLane LaneTrack × PerLane Channel × LineMode := (s.ltk, s.bch, s.mode)

section
variable {Q : Prop} {s t : State} {l : LaneNo} {a b : LaneTrack} {c d : Channel} {m : LineMode}

theorem LanesOk.of_view (h : LanesOk Q s) (hv : t.lanesView = s.lanesView) : LanesOk Q t := by
  simp only [State.lanesView, Prod.mk.injEq] at hv
  obtain ⟨hl, hb, hm⟩ := hv
  intro k
  rw [hl, hb, hm]
  exact h k

/-- A lane whose channel is not IDLE belongs to a line in RUN. -/
theorem LaneOk.run_of_busy (h : LaneOk Q m a c) (hc : c.state ≠ .idle) (hq : Q) : m = .run := by
  cases m with
  | run => rfl
  | config => exact absurd (h.resting hq rfl) hc

/-- A lane that is not IDLE belongs to a line in RUN. -/
theorem LaneOk.run_of_lane (h : LaneOk Q m a c) (ha : a.state ≠ .idle) (hq : Q) : m = .run := by
  cases m with
  | run => rfl
  | config => exact absurd ((h.mode hq).config rfl).1 ha

/-- A channel with an order in hand is not IDLE. -/
theorem LaneOk.busy_of_order (h : LaneOk Q m a c) {o : MoveOrder} (ho : c.order = some o) : c.state ≠ .idle := by
  intro hi
  have := h.channel.order (by simp [ho])
  simp [hi, ChannelState.mayHoldOrder] at this

/-- A channel that serves a record is not IDLE. -/
theorem LaneOk.busy_of_served (h : LaneOk Q m a c) {k : Nat} (hk : c.served = some k) : c.state ≠ .idle :=
  h.channel.served.1 (by simp [hk])

/-- A channel goes from one state in which it serves its record to another. -/
theorem LaneOk.rechannel (h : LaneOk Q m a c) (hc : c.state ≠ .idle) (hd : d.state ≠ .idle)
    (hs : d.served = c.served) (ho : d.order.isSome = true → d.state.mayHoldOrder = true)
    (hf : d.inFlight = true → d.order.isSome = true) : LaneOk Q m a d where
  channel :=
    { served := by rw [hs, h.channel.served]; exact iff_of_true hc hd
      claim := h.channel.claim.trans (iff_of_true hc hd)
      order := ho
      flight := hf }
  mode := h.mode
  resting hq hm := absurd (h.resting hq hm) hc

/-- A lane is changed but for its BOOTH claim. -/
theorem LaneOk.relane (h : LaneOk Q m a c) (hc : b.boothClaim = a.boothClaim)
    (hm : LaneInMode m a → LaneInMode m b) : LaneOk Q m b c where
  channel := { h.channel with claim := by rw [hc]; exact h.channel.claim }
  mode hq := hm (h.mode hq)
  resting := h.resting

/-- A channel in IDLE, with no record served, no order in hand and no claim (R116). -/
theorem LaneOk.idle (h : LaneOk Q m a c) (hb : b = { a with boothClaim := false }) (hd : d.state = .idle)
    (hs : d.served = none) (ho : d.order = none) (hf : d.inFlight = false) : LaneOk Q m b d where
  channel := by subst b; exact ⟨by simp [hs, hd], by simp [hd], by simp [ho], by simp [hf]⟩
  mode hq := by
    subst b
    exact ⟨(h.mode hq).config, (h.mode hq).run⟩
  resting _ _ := hd

/-! ### Updates of one lane -/

/-- One lane and its channel change, the line mode and the other lane do not. -/
theorem LanesOk.update (h : LanesOk Q s) {f : LaneTrack → LaneTrack} {g : Channel → Channel}
    (hl : LaneOk Q s.mode (f (s.ltk.get l)) (g (s.bch.get l))) : LanesOk Q ((s.modBch l g).modLtk l f) := by
  intro k
  simp only [State.modLtk_mode, State.modBch_mode, State.modLtk_ltk, State.modBch_ltk, State.modLtk_bch,
    State.modBch_bch, PerLane.get_set]
  split
  · subst k; exact hl
  · exact h k

theorem LanesOk.modBch (h : LanesOk Q s) {g : Channel → Channel}
    (hl : LaneOk Q s.mode (s.ltk.get l) (g (s.bch.get l))) : LanesOk Q (s.modBch l g) :=
  (h.update (f := id) hl).of_view (by simp [State.lanesView])

theorem LanesOk.modLtk (h : LanesOk Q s) {f : LaneTrack → LaneTrack}
    (hc : (f (s.ltk.get l)).boothClaim = (s.ltk.get l).boothClaim)
    (hm : LaneInMode s.mode (s.ltk.get l) → LaneInMode s.mode (f (s.ltk.get l))) : LanesOk Q (s.modLtk l f) :=
  (h.update (g := id) ((h l).relane hc hm)).of_view (by simp [State.lanesView])

/-- On a line in RUN a lane may change in any way that keeps its claim and does not make it IDLE. -/
theorem LanesOk.modLtk_run (h : LanesOk Q s) (hr : Q → s.mode = .run) {f : LaneTrack → LaneTrack}
    (hc : (f (s.ltk.get l)).boothClaim = (s.ltk.get l).boothClaim)
    (hs : (s.ltk.get l).state ≠ .idle → (f (s.ltk.get l)).state ≠ .idle) : LanesOk Q (s.modLtk l f) := by
  have hl : LaneOk Q s.mode (f (s.ltk.get l)) (s.bch.get l) :=
    { channel := { (h l).channel with claim := by rw [hc]; exact (h l).channel.claim }
      mode := fun hq =>
        { config := fun hm => by rw [hr hq] at hm; cases hm
          run := fun hm => hs (((h l).mode hq).run hm) }
      resting := (h l).resting }
  exact (h.update (g := id) hl).of_view (by simp [State.lanesView])

theorem LanesOk.ite {e : Prop} [Decidable e] (h : LanesOk Q s) (g : LanesOk Q t) : LanesOk Q (if e then s else t) := by
  split
  · exact h
  · exact g

theorem LanesOk.foldl {α : Type} {f : State → α → State} (h : LanesOk Q s)
    (hf : ∀ u a, LanesOk Q u → LanesOk Q (f u a)) (as : List α) : LanesOk Q (as.foldl f s) :=
  List.foldlRecOn as f h fun u hu a _ => hf u a hu

end

/-! ### Operations that leave lanes, channels and line mode alone -/

section
variable (s : State) (l : LaneNo)

@[simp] theorem lanesView_modMvf (f : MaskLane → MaskLane) : (s.modMvf l f).lanesView = s.lanesView := rfl
@[simp] theorem lanesView_modPgn (f : Generator → Generator) : (s.modPgn l f).lanesView = s.lanesView := rfl
@[simp] theorem lanesView_modSlr (f : StationLink → StationLink) : (s.modSlr f).lanesView = s.lanesView := rfl
@[simp] theorem lanesView_setSlot (h : Nat) (o : Option Panel) : (s.setSlot h o).lanesView = s.lanesView := rfl
@[simp] theorem lanesView_raiseFlag (g : Flag) : (s.raiseFlag g).lanesView = s.lanesView := rfl
@[simp] theorem lanesView_keepLevel (k : LaneInput) (v : Bool) : (s.keepLevel l k v).lanesView = s.lanesView := rfl
@[simp] theorem lanesView_atSample (n : Nat) : (s.atSample n).lanesView = s.lanesView := rfl
@[simp] theorem lanesView_resumeAssembler : s.resumeAssembler.lanesView = s.lanesView := rfl
@[simp] theorem lanesView_writeParams (f : Params → Params) : (s.writeParams f).lanesView = s.lanesView := rfl
@[simp] theorem lanesView_respond (r : Response) : (s.respond r).lanesView = s.lanesView := rfl
@[simp] theorem lanesView_withEffect (r : Response) : (s.withEffect r).lanesView = s.lanesView := rfl
@[simp] theorem lanesView_putRecipe (r : Nat) (x : Recipe) : (s.putRecipe r x).lanesView = s.lanesView := rfl
@[simp] theorem lanesView_modPanel (h : Nat) (f : Panel → Panel) : (s.modPanel h f).lanesView = s.lanesView := by
  simp [State.lanesView]
@[simp] theorem lanesView_modRecipe (r : Nat) (f : Recipe → Recipe) : (s.modRecipe r f).lanesView = s.lanesView := by
  simp [State.lanesView]
@[simp] theorem lanesView_modZone (z : Nat) (f : Zone → Zone) : (s.modZone z f).lanesView = s.lanesView := by
  simp [State.lanesView]

@[simp] theorem lanesView_ite (e : Prop) [Decidable e] (t : State) :
    (if e then s else t).lanesView = if e then s.lanesView else t.lanesView := by split <;> rfl

theorem lanesView_foldl {α : Type} {f : State → α → State} (hf : ∀ s a, (f s a).lanesView = s.lanesView)
    (as : List α) : (as.foldl f s).lanesView = s.lanesView :=
  List.foldlRecOn (motive := fun u => u.lanesView = s.lanesView) as f rfl fun u hu a _ => (hf u a).trans hu

@[simp] theorem lanesView_raiseQuiet (r : HoldReason) (h : Nat) : (s.raiseQuiet r h).lanesView = s.lanesView := by
  rw [State.raiseQuiet_eq, lanesView_modPanel]

@[simp] theorem lanesView_nextOrder : (s.nextOrder l).1.lanesView = s.lanesView := by
  unfold State.nextOrder
  simp only
  split; · rfl
  split; · rfl
  split; · rfl
  split <;> rfl

@[simp] theorem lanesView_parkOrder : (s.parkOrder l).1.lanesView = s.lanesView := rfl

@[simp] theorem lanesView_startGenerator (h coat : Nat) : (s.startGenerator l h coat).lanesView = s.lanesView := rfl

@[simp] theorem lanesView_idleGenerator : (s.idleGenerator l).lanesView = s.lanesView := rfl

@[simp] theorem lanesView_flashAfterPass (h : Nat) : (s.flashAfterPass h).lanesView = s.lanesView := by
  unfold State.flashAfterPass
  split; · rfl
  split; · rfl
  split
  · exact lanesView_modPanel ..
  · rfl

@[simp] theorem lanesView_accountOrder (h : Nat) (o : MoveOrder) (flow : Nat) :
    (s.accountOrder h o flow).lanesView = s.lanesView := by
  simp [State.accountOrder]

end

/-! ### Raises -/

section
variable {Q : Prop} {s : State} {l : LaneNo}

theorem LanesOk.askAbort (h : LanesOk Q s) : LanesOk Q (s.askAbort l) := by
  unfold State.askAbort
  split; · exact h
  split
  · rename_i hc
    have hcoat : (s.bch.get l).state = .coating := by
      simp only [Bool.and_eq_true, beq_iff_eq] at hc
      exact hc.1
    exact h.modBch ((h l).rechannel (by simp [hcoat]) (by simp) rfl (fun _ => rfl) (h l).channel.flight)
  · exact h

theorem LanesOk.raise {r : HoldReason} {k : Nat} (h : LanesOk Q s) : LanesOk Q (s.raise r k) := by
  have hq : LanesOk Q (s.raiseQuiet r k) := h.of_view (lanesView_raiseQuiet ..)
  unfold State.raise State.tellBooth
  split; · exact hq
  split
  · exact hq.askAbort
  · exact hq

theorem LanesOk.raiseAll {r : HoldReason} {ks : List Nat} (h : LanesOk Q s) : LanesOk Q (s.raiseAll r ks) :=
  h.foldl (fun _ _ hu => hu.raise) ks

theorem LanesOk.raiseEach {k : Nat} {rs : List HoldReason} (h : LanesOk Q s) : LanesOk Q (s.raiseEach k rs) :=
  h.foldl (fun _ _ hu => hu.raise) rs

theorem LanesOk.raiseOpt {r : Option HoldReason} {k : Nat} (h : LanesOk Q s) : LanesOk Q (s.raiseOpt r k) := by
  cases r with
  | none => exact h
  | some r => exact h.raise

/-! ### The gantry port and parking (R120, R128, R129) -/

theorem LanesOk.send (h : LanesOk Q s) : LanesOk Q (s.send l) := by
  unfold State.send
  split; · exact h
  rename_i o ho
  have hbusy := (h l).busy_of_order ho
  have hsent : LanesOk Q (s.modBch l fun c =>
      { c with inFlight := true, doneSeen := false, durationExpired := false, flow := 0 }) :=
    h.modBch ((h l).rechannel hbusy hbusy rfl (h l).channel.order fun _ => by simp [ho])
  exact hsent.of_view rfl

/-- An order is offered by a channel in a state that may have one in hand. -/
theorem LanesOk.offer {o : MoveOrder} (h : LanesOk Q s) (hs : (s.bch.get l).state.mayHoldOrder = true) :
    LanesOk Q (s.offer l o) := by
  have hbusy : (s.bch.get l).state ≠ .idle := fun hi => by simp [hi, ChannelState.mayHoldOrder] at hs
  have hin : LanesOk Q (s.modBch l fun c => { c with order := some o, inFlight := false, sendTick := s.tick }) :=
    h.modBch ((h l).rechannel hbusy hbusy rfl (fun _ => hs) fun hf => by cases hf)
  exact .ite hin.send hin

theorem LanesOk.portEnd (h : LanesOk Q s) : LanesOk Q s.portEnd := by
  unfold State.portEnd
  split; · exact h
  have hfree : LanesOk Q { s with port := none } := h.of_view rfl
  exact .ite hfree.send (.ite hfree.send hfree)

theorem LanesOk.channelIdle (h : LanesOk Q s) : LanesOk Q (s.channelIdle l) :=
  h.update ((h l).idle rfl rfl rfl rfl rfl)

theorem LanesOk.parkDone (h : LanesOk Q s) : LanesOk Q (s.parkDone l) := by
  unfold State.parkDone
  split
  · exact h.channelIdle
  · exact (h.of_view (lanesView_flashAfterPass ..)).channelIdle

theorem LanesOk.enterPark (h : LanesOk Q s) (hs : (s.bch.get l).state ≠ .idle) : LanesOk Q (s.enterPark l) := by
  have hpark : LanesOk Q (s.modBch l fun c => { c with state := .parking, recoatExpiry := none }) :=
    h.modBch ((h l).rechannel hs (by simp) rfl (fun _ => rfl) (h l).channel.flight)
  have hreq := hpark.of_view (lanesView_parkOrder _ l)
  unfold State.enterPark
  simp only
  split
  · exact hreq.parkDone
  · exact hreq.offer (by simp [State.parkOrder, ChannelState.mayHoldOrder])

/-! ### Coats (R119, R124 to R126) -/

theorem LanesOk.askNext (h : LanesOk Q s) (hs : (s.bch.get l).state = .coating) : LanesOk Q (s.askNext l) := by
  have hreq := h.of_view (lanesView_nextOrder s l)
  have hbch : (s.nextOrder l).1.bch = s.bch := congrArg (·.2.1) (lanesView_nextOrder s l)
  unfold State.askNext
  simp only
  split
  · exact hreq
  · exact hreq.offer (by simp [hbch, hs, ChannelState.mayHoldOrder])

theorem LanesOk.startCoat (h : LanesOk Q s) : LanesOk Q (s.startCoat l) := by
  unfold State.startCoat
  split; · exact h
  rename_i k hk
  have hk' : (s.bch.get l).served = some k := hk
  simp only
  generalize hu : State.startGenerator l k _ _ = u
  have hview : u.lanesView = s.lanesView := by rw [← hu]; simp
  have hok := h.of_view hview
  have hbch : u.bch = s.bch := congrArg (·.2.1) hview
  have hbusy : (u.bch.get l).state ≠ .idle := (hok l).busy_of_served (hbch ▸ hk')
  exact LanesOk.askNext (hok.modBch ((hok l).rechannel hbusy (by simp) rfl (fun _ => rfl) (hok l).channel.flight))
    (by simp)

theorem LanesOk.nextCoat (h : LanesOk Q s) : LanesOk Q (s.nextCoat l) := by
  unfold State.nextCoat
  split; · exact h
  rename_i k hk
  split
  · exact h.enterPark ((h l).busy_of_served hk)
  · exact h.startCoat

/-- A coat that has ended is followed by the recoat wait, the next coat or PARKING. -/
theorem LanesOk.coatOver {n : Nat} {b : Body} (h : LanesOk Q s) (hs : (s.bch.get l).state ≠ .idle)
    (ho : (s.bch.get l).order = none) :
    LanesOk Q (if n < b.coats then
      let u := s.modBch l fun c =>
        { c with state := .recoatWait, coat := c.coat + 1, recoatExpiry := some (s.later (b.recoat * 1000)) }
      if b.recoat = 0 then u.nextCoat l else u
    else s.enterPark l) := by
  have hwait : LanesOk Q (s.modBch l fun c =>
      { c with state := .recoatWait, coat := c.coat + 1, recoatExpiry := some (s.later (b.recoat * 1000)) }) :=
    h.modBch ((h l).rechannel hs (by simp) rfl (by simp [ho]) (h l).channel.flight)
  exact .ite (.ite hwait.nextCoat hwait) (h.enterPark hs)

/-- A coat ends once its last order is no longer in hand. -/
theorem LanesOk.endCoat (h : LanesOk Q s) (ho : (s.bch.get l).order = none) : LanesOk Q (s.endCoat l) := by
  unfold State.endCoat
  split; · exact h
  rename_i k hk
  have hbusy := (h l).busy_of_served hk
  split; · exact h
  split; · exact h
  have hbch : ∀ u : State, u.lanesView = s.lanesView → u.bch = s.bch := fun u hu => congrArg (·.2.1) hu
  refine LanesOk.coatOver (h.of_view ?_) ?_ ?_
  · simp
  · rw [hbch _ (by simp)]; exact hbusy
  · rw [hbch _ (by simp)]; exact ho

/-- What follows a completed order on a channel in COATING with no order in hand. -/
theorem LanesOk.afterOrder {k : Nat} {o : MoveOrder} (h : LanesOk Q s) (hs : (s.bch.get l).state = .coating)
    (ho : (s.bch.get l).order = none) : LanesOk Q (s.afterOrder l k o) := by
  unfold State.afterOrder
  split; · exact h.endCoat ho
  split
  · exact h.enterPark (by simp [hs])
  · exact h.askNext hs

theorem LanesOk.completeOrder (h : LanesOk Q s) : LanesOk Q (s.completeOrder l) := by
  unfold State.completeOrder
  simp only
  split
  · rename_i o k ho hk
    have hbusy := (h l).busy_of_order ho
    have hdone : LanesOk Q (s.modBch l fun c => { c with order := none, inFlight := false }) :=
      h.modBch ((h l).rechannel hbusy hbusy rfl (by simp) (by simp))
    have hacc := hdone.of_view (lanesView_accountOrder _ k o (s.bch.get l).flow)
    have hbch := congrArg (·.2.1) (lanesView_accountOrder
      (s.modBch l fun c => { c with order := none, inFlight := false }) k o (s.bch.get l).flow)
    simp only [State.lanesView, State.modBch_bch] at hbch
    split
    · rename_i hst
      exact hacc.afterOrder (by simp [hbch, hst]) (by simp [hbch])
    · rename_i hst
      exact hacc.enterPark (by simp [hbch, hst])
    · exact hdone.parkDone
    · exact hdone
  · exact h

/-! ### FAULT, arrival at BOOTH and the settled event (R117, R118, R122, R132) -/

theorem LanesOk.enterFault (h : LanesOk Q s) (hs : (s.bch.get l).state ≠ .idle) : LanesOk Q (s.enterFault l) := by
  have hfault : LanesOk Q (s.modBch l fun c =>
      { c with state := .fault, order := none, inFlight := false, flow := 0, recoatExpiry := none }) :=
    h.modBch ((h l).rechannel hs (by simp) rfl (by simp) (by simp))
  have hgen := hfault.of_view (lanesView_idleGenerator _ l)
  unfold State.enterFault
  simp only
  split
  · exact hgen
  · exact hgen.raise

theorem LanesOk.clearBooth (h : LanesOk Q s) : LanesOk Q (s.clearBooth l) := by
  have hgen : LanesOk Q (s.modPgn l fun g => { g with state := .idle, record := none, pos := parkPoint }) :=
    h.of_view (lanesView_modPgn ..)
  unfold State.clearBooth
  simp only
  split
  · exact hgen
  · rename_i hbusy
    have hflow := hgen.modBch (l := l) (g := fun c => { c with flow := 0 })
      ((hgen l).rechannel hbusy hbusy rfl (hgen l).channel.order (hgen l).channel.flight)
    exact hflow.channelIdle

/-- An IDLE channel takes a record on a line in RUN. -/
theorem LanesOk.takeAtBooth {k : Nat} (h : LanesOk Q s) (hr : Q → s.mode = .run) (hi : (s.bch.get l).state = .idle) :
    LanesOk Q (s.takeAtBooth l k) := by
  have hnone : (s.bch.get l).order = none := by
    cases ho : (s.bch.get l).order with
    | none => rfl
    | some o => exact absurd hi ((h l).busy_of_order ho)
  have hflight : (s.bch.get l).inFlight = false := by
    simpa [hnone] using (h l).channel.flight
  have hlane : LaneOk Q s.mode { s.ltk.get l with boothClaim := true }
      { s.bch.get l with state := .settling, served := some k } :=
    { channel := ⟨by simp, by simp, by simp [hnone], by simp [hflight]⟩
      mode := fun hq => ⟨((h l).mode hq).config, ((h l).mode hq).run⟩
      resting := fun hq hm => by rw [hr hq] at hm; cases hm }
  have htaken : LanesOk Q ((s.modBch l fun c => { c with state := .settling, served := some k }).modLtk l
      fun t => { t with boothClaim := true }) := h.update hlane
  exact .ite (htaken.enterFault (by simp)) htaken

theorem LanesOk.arriveBooth {k : Nat} (h : LanesOk Q s) (hr : Q → s.mode = .run) : LanesOk Q (s.arriveBooth l k) := by
  unfold State.arriveBooth
  split; · exact h
  split
  · split
    · exact h.takeAtBooth hr ‹_›
    · exact h.raise
    · exact h.raise
  · exact h

theorem LanesOk.settled (h : LanesOk Q s) : LanesOk Q (s.settled l) := by
  unfold State.settled
  split; · exact h
  rename_i k hk
  split; swap; · exact h
  split
  · exact h.channelIdle
  · have hpass : LanesOk Q (s.modPanel k fun p => { p with coats := [], stage := .spraying }) :=
      h.of_view (lanesView_modPanel ..)
    have hbusy : ((s.modPanel k fun p => { p with coats := [], stage := .spraying }).bch.get l).state ≠ .idle := by
      rw [State.modPanel_bch]; exact (h l).busy_of_served hk
    exact LanesOk.startCoat (hpass.modBch
      ((hpass l).rechannel hbusy hbusy rfl (hpass l).channel.order (hpass l).channel.flight))

/-! ### The booth's events -/

/-- A mark on the order in hand: only fields besides state, record, order and flight change. -/
theorem LanesOk.mark (h : LanesOk Q s) {g : Channel → Channel} (hb : (s.bch.get l).state ≠ .idle)
    (hg : ∀ c, (g c).state = c.state ∧ (g c).served = c.served ∧ (g c).order = c.order ∧ (g c).inFlight = c.inFlight) :
    LanesOk Q (s.modBch l g) := by
  obtain ⟨h1, h2, h3, h4⟩ := hg (s.bch.get l)
  refine h.modBch ((h l).rechannel hb (by rwa [h1]) h2 ?_ ?_)
  · rw [h1, h3]; exact (h l).channel.order
  · rw [h3, h4]; exact (h l).channel.flight

theorem LanesOk.moveDoneEdge (h : LanesOk Q s) : LanesOk Q (s.moveDoneEdge l) := by
  unfold State.moveDoneEdge
  simp only
  split; swap; · exact h
  rename_i hc
  simp only [Bool.and_eq_true] at hc
  obtain ⟨⟨-, ho⟩, -⟩ := hc
  obtain ⟨o, ho⟩ := Option.isSome_iff_exists.1 ho
  have hseen : LanesOk Q (s.modBch l fun c => { c with doneSeen := true }) :=
    h.mark ((h l).busy_of_order ho) fun _ => ⟨rfl, rfl, rfl, rfl⟩
  exact .ite hseen.completeOrder hseen

theorem LanesOk.durationEnd (h : LanesOk Q s) : LanesOk Q (s.durationEnd l) := by
  unfold State.durationEnd
  simp only
  split; · exact h
  rename_i o ho
  have hover : LanesOk Q (s.modBch l fun c => { c with durationExpired := true }) :=
    h.mark ((h l).busy_of_order ho) fun _ => ⟨rfl, rfl, rfl, rfl⟩
  exact .ite (.ite hover.completeOrder hover) h

theorem LanesOk.moveTimeoutEnd (h : LanesOk Q s) : LanesOk Q (s.moveTimeoutEnd l) := by
  unfold State.moveTimeoutEnd
  simp only
  split; · exact h
  exact .ite (h.enterFault ((h l).busy_of_order ‹_›)) h

theorem LanesOk.gantryErrSample {v : Bool} (h : LanesOk Q s) : LanesOk Q (s.gantryErrSample l v) := by
  have hk : LanesOk Q (s.keepLevel l .gantryErr v) := h.of_view (lanesView_keepLevel ..)
  unfold State.gantryErrSample
  simp only
  split
  · rename_i hc
    have hacts : (s.bch.get l).state.gantryErrActs = true := ((Bool.and_eq_true _ _).mp hc).2
    refine hk.enterFault fun hi => ?_
    rw [show (s.bch.get l).state = .idle from hi] at hacts
    cases hacts
  · exact hk

theorem LanesOk.countPulse (h : LanesOk Q s) : LanesOk Q (s.countPulse l) := by
  unfold State.countPulse
  simp only
  split; · exact h
  exact .ite (h.mark ((h l).busy_of_order ‹_›) fun _ => ⟨rfl, rfl, rfl, rfl⟩) h

theorem LanesOk.recoatEnd (h : LanesOk Q s) : LanesOk Q (s.recoatEnd l) := by
  unfold State.recoatEnd
  split
  · rename_i hc
    have hwait : (s.bch.get l).state = .recoatWait := by
      simp only [Bool.and_eq_true, decide_eq_true_eq] at hc
      exact hc.1
    exact LanesOk.nextCoat (h.mark (by simp [hwait]) fun _ => ⟨rfl, rfl, rfl, rfl⟩)
  · exact h

end

end Sys2Proof.Machine
end

section
/-! SUPPORT. Booth channels, lanes and line mode stay in order: the mask verifier, the oven, the lane tracker and the
requests, and so every command. -/

namespace Sys2Proof.Machine

theorem mode_of_lanesView {s t : State} (h : t.lanesView = s.lanesView) : t.mode = s.mode := congrArg (·.2.2) h

theorem mode_of_lineRest {s t : State} (h : t.lineRest = s.lineRest) : t.mode = s.mode :=
  (congrArg State.mode h :)

theorem lanesView_of_zoneRest {s t : State} (h : t.zoneRest = s.zoneRest) : t.lanesView = s.lanesView :=
  (congrArg State.lanesView h :)

/-! ### The mask verifier and the oven -/

section
variable {Q : Prop} {s : State} {l : LaneNo} {k : Nat}

theorem LanesOk.modPanel {f : Panel → Panel} (h : LanesOk Q s) : LanesOk Q (s.modPanel k f) :=
  h.of_view (lanesView_modPanel ..)

theorem LanesOk.endWindow (h : LanesOk Q s) : LanesOk Q (s.endWindow k) := by
  unfold State.endWindow
  split; · exact h
  exact (h.of_view (by simp [State.leaveInspecting])).raise

theorem LanesOk.trigger (h : LanesOk Q s) : LanesOk Q (s.trigger l k) := by
  have hreuse : LanesOk Q (s.reuseTag l) := by
    unfold State.reuseTag
    split
    · exact h
    · exact h.endWindow
  exact hreuse.of_view (by simp [State.trigger, State.owePulse])

theorem LanesOk.maskStation (h : LanesOk Q s) : LanesOk Q (s.maskStation l k) := by
  unfold State.maskStation
  split; · exact h
  exact .ite h.modPanel (.ite h.modPanel.raise h.trigger)

theorem LanesOk.applyReport {pairs : List (Nat × ZoneStatus)} (h : LanesOk Q s) :
    LanesOk Q (s.applyReport k pairs) := by
  unfold State.applyReport
  split; · exact h
  exact LanesOk.modPanel (LanesOk.of_view (LanesOk.raiseOpt h.modPanel) (lanesView_modMvf ..))

theorem LanesOk.takeReport (h : LanesOk Q s) : LanesOk Q s.takeReport := by
  unfold State.takeReport State.acceptReport
  split; swap; · exact h
  have hres : LanesOk Q s.resumeAssembler := h.of_view rfl
  split
  · exact hres.of_view rfl
  · exact hres.applyReport

theorem LanesOk.windowTimeout (h : LanesOk Q s) : LanesOk Q (s.windowTimeout k) := by
  unfold State.windowTimeout
  split; · exact h
  exact .ite h.endWindow h

theorem LanesOk.updateCuring (h : LanesOk Q s) : LanesOk Q (s.updateCuring k) := by
  unfold State.updateCuring
  split; · exact h
  split; · exact h
  exact LanesOk.raiseEach h.modPanel

theorem LanesOk.exitDecision (h : LanesOk Q s) : LanesOk Q (s.exitDecision k) := by
  unfold State.exitDecision
  split; · exact h
  split; swap; · exact h
  exact .ite (h.of_view rfl) (LanesOk.raise (h.of_view rfl))

end

section
variable (s : State) (l : LaneNo)

@[simp] theorem lanesView_trigPulseEnd : (s.trigPulseEnd l).lanesView = s.lanesView := by
  unfold State.trigPulseEnd
  split <;> simp

@[simp] theorem lanesView_trigRecoveryEnd : (s.trigRecoveryEnd l).lanesView = s.lanesView := by
  unfold State.trigRecoveryEnd
  split <;> simp

@[simp] theorem lanesView_alarmIfInvalid (b : ZoneState) (z : Nat) :
    (s.alarmIfInvalid b z).lanesView = s.lanesView := by
  unfold State.alarmIfInvalid
  split <;> simp

@[simp] theorem lanesView_applyReplyAt (r : SensorReply) (z : Nat) :
    (s.applyReplyAt r z).lanesView = s.lanesView := by
  unfold State.applyReplyAt
  split <;> simp

@[simp] theorem lanesView_readTach (z : Nat) (v : Bool) (n : Nat) : (s.readTach z v n).lanesView = s.lanesView := by
  unfold State.readTach
  split <;> simp

@[simp] theorem lanesView_stallAt (z n : Nat) : (s.stallAt z n).lanesView = s.lanesView := by
  unfold State.stallAt
  split <;> simp

end

section
variable {Q : Prop} {s : State} {l : LaneNo} {k : Nat}

theorem LanesOk.completePoll {rs : Vector SensorReply 6} (h : LanesOk Q s) : LanesOk Q (s.completePoll rs) := by
  unfold State.completePoll State.updateOven
  simp only
  split
  · refine LanesOk.foldl (h.of_view ?_) (fun _ _ hu => hu.updateCuring) _
    simp only [State.applyReplies, lanesView_applyReplyAt]
    rfl
  · exact h

/-! ### The lane tracker -/

/-- A lane in TRACKING or FAULT belongs to a line in RUN. -/
theorem LanesOk.run_of_lane (h : LanesOk Q s) (hs : (s.ltk.get l).state ≠ .idle) (hq : Q) : s.mode = .run :=
  (h l).run_of_lane hs hq

theorem LanesOk.faultCause (h : LanesOk Q s) : LanesOk Q (s.faultCause l) := by
  have hflag : LanesOk Q (s.raiseFlag (laneFaultFlag l)) := h.of_view rfl
  unfold State.faultCause
  simp only
  split
  · rename_i htrack
    have hr := hflag.run_of_lane (l := l) (by rw [htrack]; decide)
    exact LanesOk.raiseAll (hflag.modLtk_run hr rfl fun _ => by simp)
  · exact hflag

theorem LaneTrack.pulse_keeps (t : LaneTrack) (g : DivertGate) (e : Tick) :
    (t.pulse g e).boothClaim = t.boothClaim ∧ (t.pulse g e).state = t.state := by
  cases g <;> exact ⟨rfl, rfl⟩

theorem LanesOk.divert {g : DivertGate} (h : LanesOk Q s) (hr : Q → s.mode = .run) : LanesOk Q (s.divert l g k) := by
  refine LanesOk.modPanel (h.modLtk_run hr ?_ ?_)
  · rw [(LaneTrack.pulse_keeps ..).1]; rfl
  · rw [(LaneTrack.pulse_keeps ..).2]; exact id

theorem LanesOk.checkPlacement {tail : Option Nat} (h : LanesOk Q s) : LanesOk Q (s.checkPlacement l k tail) :=
  have hgap : LanesOk Q (if s.closeBehind tail then s.raise .spacing k else s) := .ite h.raise h
  .ite hgap.raise hgap

theorem LanesOk.placeFront (h : LanesOk Q s) (hr : Q → s.mode = .run) : LanesOk Q (s.placeFront l k) :=
  LanesOk.checkPlacement (LanesOk.modPanel (h.modLtk_run hr rfl id))

theorem LanesOk.entryEdge (h : LanesOk Q s) : LanesOk Q (s.entryEdge l) := by
  unfold State.entryEdge
  simp only
  split; · exact h
  rename_i hidle
  have hr := h.run_of_lane hidle
  split; · exact h.faultCause
  split
  · exact LanesOk.placeFront (h.modLtk_run hr rfl id) hr
  · split
    · rename_i k rest _
      exact .ite (LanesOk.placeFront (s := s.createRecord l k rest) (h.of_view rfl) hr) h.faultCause
    · exact h.faultCause

theorem LanesOk.bindRead {p : Panel} {i : PanelId} (h : LanesOk Q s) : LanesOk Q (s.bindRead k p i) := by
  have hstored : LanesOk Q (s.storeId k i) := (h.modPanel (f := fun p => { p with id := some i })).of_view rfl
  unfold State.bindRead
  split
  · exact .ite h h.raise
  · exact .ite h.raise hstored.modPanel

theorem LanesOk.takeRead (h : LanesOk Q s) : LanesOk Q s.takeRead := by
  unfold State.takeRead State.acceptRead
  split; swap; · exact h
  have hres : LanesOk Q s.resumeAssembler := h.of_view rfl
  split; · exact hres.of_view rfl
  split; · exact hres
  exact LanesOk.modPanel hres.bindRead

/-! ### Arrivals (R44) -/

theorem LanesOk.closeIdWindow (h : LanesOk Q s) : LanesOk Q (s.closeIdWindow k) := by
  unfold State.closeIdWindow
  split; · exact h
  have hleft : LanesOk Q (s.leaveEntered k) := h.modPanel
  exact .ite (.ite hleft.raise hleft) h

theorem LanesOk.arriveMask (h : LanesOk Q s) : LanesOk Q (s.arriveMask l k) := by
  unfold State.arriveMask
  split; · exact h
  split; swap; · exact h
  split; · exact h.maskStation
  split
  · exact LanesOk.maskStation (LanesOk.of_view h.modPanel (lanesView_modRecipe ..))
  · exact h.raise

theorem LanesOk.arriveDivertA (h : LanesOk Q s) (hr : Q → s.mode = .run) : LanesOk Q (s.arriveDivertA l k) := by
  have hend : LanesOk Q (s.endOpenWindow k) ∧ (s.endOpenWindow k).mode = s.mode := by
    unfold State.endOpenWindow
    split; · exact ⟨h, rfl⟩
    split
    · exact ⟨h.endWindow, mode_of_lineRest (s.endWindow_lineRest k)⟩
    · exact ⟨h, rfl⟩
  exact .ite (hend.1.divert (hend.2.symm ▸ hr)) hend.1

theorem LanesOk.arriveDivertB (h : LanesOk Q s) (hr : Q → s.mode = .run) : LanesOk Q (s.arriveDivertB l k) := by
  unfold State.arriveDivertB
  split; · exact h
  exact .ite h.faultCause (.ite (h.divert hr) h)

theorem LanesOk.arriveFlash (h : LanesOk Q s) (hr : Q → s.mode = .run) : LanesOk Q (s.arriveFlash l k) := by
  unfold State.arriveFlash
  split; · exact h
  split; · exact h
  exact .ite (h.modLtk_run hr rfl id) h

theorem LanesOk.arriveOvenOut (h : LanesOk Q s) : LanesOk Q (s.arriveOvenOut k) := by
  unfold State.arriveOvenOut
  split; · exact h
  exact .ite (LanesOk.modPanel h.exitDecision) h

/-- An arrival, which only a count on a line in RUN raises. -/
theorem LanesOk.arrive (h : LanesOk Q s) (hr : Q → s.mode = .run) (a : StationNo × Nat) : LanesOk Q (s.arrive l a) := by
  obtain ⟨st, k⟩ := a
  cases st with
  | idWindow => exact h.closeIdWindow
  | mask => exact h.arriveMask
  | divertA => exact h.arriveDivertA hr
  | booth => exact h.arriveBooth hr
  | divertB => exact h.arriveDivertB hr
  | flashApproach => exact h.arriveFlash hr
  | missedTransfer => exact .ite h.faultCause h
  | ovenOut => exact h.arriveOvenOut
  | missedUnload => exact .ite h.faultCause h

theorem LanesOk.arrivals (h : LanesOk Q s) (hr : Q → s.mode = .run) (as : List (StationNo × Nat)) :
    LanesOk Q (as.foldl (fun s a => s.arrive l a) s) := by
  induction as generalizing s with
  | nil => exact h
  | cons a as ih =>
    have hmode : (s.arrive l a).mode = s.mode := mode_of_lineRest (s.arrive_lineRest l a)
    exact ih (h.arrive hr a) (hmode.symm ▸ hr)

theorem LanesOk.count {sec : LineSection} (h : LanesOk Q s) : LanesOk Q (s.count l sec) := by
  unfold State.count
  split; · exact h
  rename_i hidle
  have hr := h.run_of_lane hidle
  have hquiet : LanesOk Q (s.restartQuiet l sec) ∧ (s.restartQuiet l sec).mode = s.mode := by
    cases sec with
    | front => exact ⟨h.modLtk_run hr rfl id, rfl⟩
    | oven => exact ⟨h, rfl⟩
  have hcounted : LanesOk Q { s.restartQuiet l sec with free := s.free + 1 } := hquiet.1.of_view rfl
  have hview := lanesView_foldl { s.restartQuiet l sec with free := s.free + 1 } (f := fun s h => s.advance h)
    (fun s h => lanesView_modPanel s h _) ((s.ltk.get l).queue sec)
  exact LanesOk.arrivals (hcounted.of_view hview) (((mode_of_lanesView hview).trans hquiet.2).symm ▸ hr) _

/-! ### Timers, transfer and unload (R58, R60 to R62, R65) -/

theorem LanesOk.quietEnd (h : LanesOk Q s) : LanesOk Q (s.quietEnd l) := by
  unfold State.quietEnd
  refine .ite (LanesOk.settled (h.modLtk rfl fun hm => ⟨fun hc => ?_, hm.run⟩)) h
  obtain ⟨h1, h2, h3, h4, -⟩ := hm.config hc
  exact ⟨h1, h2, h3, h4, rfl⟩

theorem LanesOk.claimEnd (h : LanesOk Q s) : LanesOk Q (s.claimEnd l) := by
  unfold State.claimEnd
  refine .ite (h.modLtk rfl fun hm => ⟨fun hc => ?_, hm.run⟩) h
  obtain ⟨h1, h2, h3, -, h5⟩ := hm.config hc
  exact ⟨h1, h2, h3, rfl, h5⟩

theorem LanesOk.pulseEnd {g : DivertGate} (h : LanesOk Q s) : LanesOk Q (s.pulseEnd l g) := by
  unfold State.pulseEnd
  cases g <;> exact .ite (h.modLtk rfl fun hm => ⟨hm.config, hm.run⟩) h

theorem LanesOk.transfer {rest : List Nat} (h : LanesOk Q s) (hr : Q → s.mode = .run) :
    LanesOk Q (s.transfer l k rest) := by
  rw [State.transfer_eq]
  have hmoved : LanesOk Q (s.moved l k rest) := LanesOk.modPanel (h.modLtk_run hr rfl id)
  exact .ite hmoved.raise hmoved

theorem LanesOk.ovenEdge (h : LanesOk Q s) : LanesOk Q (s.ovenEdge l) := by
  unfold State.ovenEdge
  split; · exact h
  split; · exact h.faultCause
  exact .ite (h.transfer (h.run_of_lane ‹_›)) h.faultCause

theorem LanesOk.unloadEdge (h : LanesOk Q s) : LanesOk Q (s.unloadEdge l) := by
  unfold State.unloadEdge
  split; · exact h
  have hr := h.run_of_lane ‹_›
  split; · exact h.faultCause
  split
  · exact .ite (.ite (LanesOk.modPanel (h.modLtk_run hr rfl id)) (h.divert hr)) h.faultCause
  · exact h.faultCause

theorem LanesOk.onEdge {i : LaneInput} {v : Bool} {ev : State → State} (h : LanesOk Q s)
    (hf : ∀ u, LanesOk Q u → LanesOk Q (ev u)) : LanesOk Q (s.onEdge l i v ev) :=
  have hk : LanesOk Q (s.keepLevel l i v) := h.of_view rfl
  .ite (hf _ hk) hk

end

/-! ### The station link and the line link's frames -/

section
variable (s : State)

@[simp] theorem lanesView_abandonIfQuiet : s.abandonIfQuiet.lanesView = s.lanesView := by
  simp [State.abandonIfQuiet]

@[simp] theorem lanesView_enterBreak : s.enterBreak.lanesView = s.lanesView := by simp [State.enterBreak]

@[simp] theorem lanesView_lineQuiet : s.lineQuiet.lanesView = s.lanesView := by simp [State.lineQuiet]

@[simp] theorem lanesView_assemble : s.assemble.lanesView = s.lanesView := by
  unfold State.assemble
  split <;> simp

@[simp] theorem lanesView_clockedFrame (bits : List Bool) : (s.clockedFrame bits).lanesView = s.lanesView := by
  have hon : ∀ f, (s.onFrame f).lanesView = s.lanesView := fun f => by
    unfold State.onFrame
    split <;> rfl
  have hignored : ∀ n, (s.ignoreFrame n).lanesView = s.lanesView := fun n => by
    unfold State.ignoreFrame
    simp only
    split <;> exact hon _
  rcases s.clockedFrame_cases bits with ⟨-, e⟩ | ⟨-, e⟩ | ⟨-, -, e⟩ <;> rw [e]
  · exact hon _
  · exact hon _
  · exact hignored _

/-! ### Requests -/

@[simp] theorem lanesView_fst_ite (e : Prop) [Decidable e] (a b : State × Response) :
    (if e then a else b).1.lanesView = if e then a.1.lanesView else b.1.lanesView := by split <;> rfl

@[simp] theorem lanesView_relimitAll : s.relimitAll.lanesView = s.lanesView :=
  lanesView_of_zoneRest s.relimitAll_zoneRest

/-- An edit of a recipe that no live record names (R26). -/
theorem lanesView_withFreeRecipe (r : Nat) {f : Recipe → State × Response}
    (hf : ∀ x, (f x).1 = s ∨ ∃ g, (f x).1 = s.modRecipe r g) : (s.withFreeRecipe r f).1.lanesView = s.lanesView := by
  unfold State.withFreeRecipe
  split; · rfl
  rename_i x _
  split; · rfl
  rcases hf x with e | ⟨g, e⟩ <;> rw [e]
  exact lanesView_modRecipe s r g

@[simp] theorem lanesView_defineRecipe (r : Nat) (f : RecipeFields) :
    (serveDefineRecipe r f s).1.lanesView = s.lanesView :=
  lanesView_withFreeRecipe s r fun x => by
    split
    · exact .inr ⟨_, rfl⟩
    · exact .inl rfl

@[simp] theorem lanesView_setMaskZone (r z c x0 y0 x1 y1 : Nat) :
    (serveSetMaskZone r z c x0 y0 x1 y1 s).1.lanesView = s.lanesView :=
  lanesView_withFreeRecipe s r fun x => by
    split
    · exact .inr ⟨_, rfl⟩
    · exact .inl rfl

@[simp] theorem lanesView_clearMaskZone (r z : Nat) : (serveClearMaskZone r z s).1.lanesView = s.lanesView :=
  lanesView_withFreeRecipe s r fun x => by
    split; · exact .inl rfl
    split
    · exact .inr ⟨_, rfl⟩
    · exact .inl rfl

@[simp] theorem lanesView_setCureProfile (r : Nat) (f : CureFields) :
    (serveSetCureProfile r f s).1.lanesView = s.lanesView :=
  lanesView_withFreeRecipe s r fun x => by
    split
    · exact .inr ⟨_, rfl⟩
    · exact .inl rfl

@[simp] theorem lanesView_eraseRecipe (r : Nat) : (serveEraseRecipe r s).1.lanesView = s.lanesView :=
  lanesView_withFreeRecipe s r fun _ => .inr ⟨_, rfl⟩

@[simp] theorem lanesView_writeSegment (i x0 y0 x1 y1 v o : Nat) :
    (serveWriteSegment i x0 y0 x1 y1 v o s).1.lanesView = s.lanesView := by
  simp only [serveWriteSegment, lanesView_fst_ite]
  simp [State.lanesView]

@[simp] theorem lanesView_moveRefs (old : Option Nat) (r : Nat) : (s.moveRefs old r).lanesView = s.lanesView := by
  rw [State.moveRefs_frame]; rfl

@[simp] theorem lanesView_assignRecipe (h r : Nat) : (serveAssignRecipe h r s).1.lanesView = s.lanesView := by
  unfold serveAssignRecipe
  split <;> simp

@[simp] theorem lanesView_bindId (h : Nat) (i : PanelId) : (serveBindId h i s).1.lanesView = s.lanesView := by
  unfold serveBindId
  split; · rfl
  simp only [lanesView_fst_ite, State.refuse_fst, State.answer_fst, ite_eq_left_iff]
  exact fun _ _ _ => lanesView_modPanel s h _

@[simp] theorem lanesView_nextNotice : (serveNextNotice s).1.lanesView = s.lanesView := by
  unfold serveNextNotice
  split; · rfl
  split <;> simp

@[simp] theorem lanesView_retire (h d : Nat) : (serveRetire h d s).1.lanesView = s.lanesView := by
  rcases serveRetire_cases h d s with e | ⟨p, -, -, -, -, e⟩ <;> rw [e]
  rw [State.retireRecord_frame]; rfl

@[simp] theorem lanesView_service (h r : Nat) : (serveService h r s).1.lanesView = s.lanesView := by
  unfold serveService
  split; · rfl
  split <;> simp

@[simp] theorem lanesView_release (h : Nat) : (serveRelease h s).1.lanesView = s.lanesView := by
  unfold serveRelease
  split; · rfl
  split; · rfl
  split <;> simp

@[simp] theorem lanesView_waiveMask (h : Nat) : (serveWaiveMask h s).1.lanesView = s.lanesView := by
  unfold serveWaiveMask
  split; · rfl
  split <;> simp

@[simp] theorem lanesView_resyncTag (lane : Nat) : (serveResyncTag lane s).1.lanesView = s.lanesView := by
  unfold serveResyncTag
  split <;> simp

@[simp] theorem lanesView_writeBaud (rate : Nat) : (s.writeBaud rate).lanesView = s.lanesView := by
  simp [State.writeBaud]

end

section
variable {Q : Prop} {s t : State}

/-! ### Requests on a lane, a channel or the line mode -/

theorem LanesOk.hold {h r : Nat} (hs : LanesOk Q s) : LanesOk Q (serveHold h r s).1 := by
  unfold serveHold
  split; · exact hs
  split
  · exact hs.raise
  · exact hs

theorem LanesOk.reenter {h lane point : Nat} (hs : LanesOk Q s) : LanesOk Q (serveReenter h lane point s).1 := by
  rcases serveReenter_cases h lane point s with e | ⟨p, l, rp, -, -, -, e⟩ <;> rw [e]
  · exact hs
  · exact LanesOk.modLtk (hs.of_view (lanesView_setSlot ..)) rfl fun hm => ⟨hm.config, hm.run⟩

theorem LanesOk.withdraw {h : Nat} (hs : LanesOk Q s) : LanesOk Q (serveWithdraw h s).1 := by
  unfold serveWithdraw
  split; · exact hs
  split
  · exact LanesOk.modPanel (hs.modLtk rfl fun hm => ⟨hm.config, hm.run⟩)
  · exact hs

theorem LanesOk.parkQueued {l : LaneNo} (h : LanesOk Q s) (hr : Q → s.mode = .run) :
    LanesOk Q (s.parkQueued l) ∧ (s.parkQueued l).mode = s.mode := by
  have hview := lanesView_foldl s (fun s k => lanesView_modPanel s k parked) (s.ltk.get l).queued
  have hmode := mode_of_lanesView hview
  exact ⟨(h.of_view hview).modLtk_run (hmode.symm ▸ hr) rfl id, hmode⟩

theorem lanesView_clearInspecting (s : State) (l : LaneNo) : (s.clearInspecting l).lanesView = s.lanesView := by
  unfold State.clearInspecting
  rw [lanesView_modMvf]
  exact lanesView_foldl s (fun s (w : Window) => lanesView_modPanel s w.handle _) _

theorem State.clearBooth_mode (s : State) (l : LaneNo) : (s.clearBooth l).mode = s.mode := by
  unfold State.clearBooth
  simp only
  split <;> rfl

theorem LanesOk.clearLane {lane : Nat} (h : LanesOk Q s) : LanesOk Q (serveClearLane lane s).1 := by
  unfold serveClearLane
  split; · exact h
  rename_i l _
  split; swap; · exact h
  rename_i hfault
  have hr := h.run_of_lane (l := l) (by rw [hfault]; decide)
  obtain ⟨hparked, hmode⟩ := h.parkQueued (l := l) hr
  have hview := lanesView_clearInspecting (s.parkQueued l) l
  have hrun : Q → (((s.parkQueued l).clearInspecting l).clearBooth l).mode = .run := by
    rw [State.clearBooth_mode, mode_of_lanesView hview, hmode]
    exact hr
  exact LanesOk.modLtk_run (hparked.of_view hview).clearBooth hrun rfl fun _ => by simp

theorem LanesOk.resetBooth {lane : Nat} (h : LanesOk Q s) : LanesOk Q (serveResetBooth lane s).1 := by
  unfold serveResetBooth
  split; · exact h
  split
  · exact h.channelIdle.of_view (lanesView_modPgn ..)
  · exact h

theorem LanesOk.startLine (h : LanesOk Q s) : LanesOk Q (serveStartLine s).1 := by
  unfold serveStartLine
  split; · exact h
  split; · exact h
  intro k
  obtain ⟨⟨h1, h2, h3, h4⟩, -, -⟩ := h k
  cases k <;> exact
    { channel := ⟨h1, h2, h3, h4⟩
      mode := fun _ => ⟨fun hm => (by cases hm), fun _ e => (by cases e)⟩
      resting := fun _ hm => (by cases hm) }

theorem State.laneAtRest_iff (s : State) (l : LaneNo) :
    s.laneAtRest l = true ↔ (s.ltk.get l).front = [] ∧ (s.ltk.get l).oven = [] ∧ (s.bch.get l).state = .idle := by
  simp [State.laneAtRest, and_assoc]

theorem LanesOk.stopLine (h : LanesOk Q s) : LanesOk Q (serveStopLine s).1 := by
  unfold serveStopLine
  split; · exact h
  split; swap; · exact h
  rename_i hrest
  have hidle : ∀ l, (s.ltk.get l).front = [] ∧ (s.ltk.get l).oven = [] ∧ (s.bch.get l).state = .idle := by
    simp only [Bool.and_eq_true, State.laneAtRest_iff] at hrest
    intro l
    cases l
    · exact hrest.1
    · exact hrest.2
  intro k
  obtain ⟨⟨h1, h2, h3, h4⟩, -, -⟩ := h k
  obtain ⟨hfront, hoven, hbch⟩ := hidle k
  cases k <;> exact
    { channel := ⟨h1, h2, h3, h4⟩
      mode := fun _ => ⟨fun _ => ⟨rfl, hfront, hoven, rfl, rfl⟩, fun hm => (by cases hm)⟩
      resting := fun _ _ => hbch }

theorem LanesOk.setParam {modes : ParamModes} {valid : Bool} {write : State → State} (h : LanesOk Q s)
    (hw : LanesOk Q (write s)) : LanesOk Q (s.setParam modes valid write).1 := by
  unfold State.setParam
  split; · exact h
  split
  · exact hw
  · exact h

theorem LanesOk.setStaleLimit {v : Int} (h : LanesOk Q s) : LanesOk Q (serveSetParamStaleLimit v s).1 :=
  h.setParam (h.of_view ((lanesView_relimitAll _).trans (lanesView_writeParams s _)))

/-! ### Every command -/

theorem LanesOk.serve (h : LanesOk Q s) (c : Instr) : LanesOk Q (serve c s).1 := by
  cases c with
  | startLine => exact h.startLine
  | stopLine => exact h.stopLine
  | clearLane l => exact h.clearLane
  | resetBooth l => exact h.resetBooth
  | reenter k l p => exact h.reenter
  | withdraw k => exact h.withdraw
  | hold k r => exact h.hold
  | setParamAbortLevel v => exact h.setParam (LanesOk.askAbort (LanesOk.askAbort (h.of_view rfl)))
  | setParamBaudRate v => exact h.setParam (h.of_view (lanesView_writeBaud ..))
  | setParamStaleLimit v => exact h.setStaleLimit
  | setParamStationOffset | setParamEyeTolerance | setParamDivertPulse | setParamMinimumGap | setParamSettleTime
  | setParamEntryReserve | setParamDefaultRecipe | setParamInspectTimeout | setParamTraverseSpeed
  | setParamSamplePeriod | setParamAmbient | setParamClassLimits | setParamGainEntry | setParamReasonLevel =>
    exact h.setParam (h.of_view (lanesView_writeParams ..))
  | resyncTag l => exact h.of_view (lanesView_resyncTag s l)
  | defineRecipe r f => exact h.of_view (lanesView_defineRecipe s r f)
  | setMaskZone r z c x0 y0 x1 y1 => exact h.of_view (lanesView_setMaskZone s r z c x0 y0 x1 y1)
  | clearMaskZone r z => exact h.of_view (lanesView_clearMaskZone s r z)
  | setCureProfile r f => exact h.of_view (lanesView_setCureProfile s r f)
  | eraseRecipe r => exact h.of_view (lanesView_eraseRecipe s r)
  | writeSegment i x0 y0 x1 y1 v o => exact h.of_view (lanesView_writeSegment s i x0 y0 x1 y1 v o)
  | assignRecipe k r => exact h.of_view (lanesView_assignRecipe s k r)
  | bindId k i => exact h.of_view (lanesView_bindId s k i)
  | nextNotice => exact h.of_view (lanesView_nextNotice s)
  | retire k d => exact h.of_view (lanesView_retire s k d)
  | service k r => exact h.of_view (lanesView_service s k r)
  | release k => exact h.of_view (lanesView_release s k)
  | waiveMask k => exact h.of_view (lanesView_waiveMask s k)
  | readRecipe r p => exact (serveReadRecipe_fst r p s).symm ▸ h
  | readSegment i => exact (serveReadSegment_fst i s).symm ▸ h
  | find i => exact (serveFind_fst i s).symm ▸ h
  | readPanel k p => exact (serveReadPanel_fst k p s).symm ▸ h
  | _ => exact h.of_view rfl

theorem LanesOk.complete (h : LanesOk Q s) : LanesOk Q s.complete := by
  unfold State.complete
  split; swap; · exact h
  split
  · exact h.of_view rfl
  · unfold State.completeUnserved
    split
    · exact h.of_view rfl
    · exact h.of_view rfl
    · exact (h.serve _).of_view (lanesView_respond ..)
  · exact h

/-- The start of reset abandons orders and timers; what a channel serves and a lane's state stay (log 19). -/
theorem LanesOk.beginReset (h : LanesOk Q s) : LanesOk Q s.beginReset := by
  intro k
  obtain ⟨⟨h1, h2, -, -⟩, hm, hi⟩ := h k
  have hmode : Q → LaneInMode s.mode (s.ltk.get k).abandoned := fun hq =>
    { config := fun hc => by
        obtain ⟨e1, e2, e3, -, -⟩ := (hm hq).config hc
        exact ⟨e1, e2, e3, rfl, rfl⟩
      run := (hm hq).run }
  have hlane : LaneOk Q s.mode (s.ltk.get k).abandoned (s.bch.get k).abandoned :=
    { channel := ⟨h1, h2, fun ho => (by cases ho), fun hf => (by cases hf)⟩, mode := hmode, resting := hi }
  cases k <;> exact hlane

theorem LanesOk.endReset (s : State) : LanesOk Q s.endReset :=
  LanesOk.of_view ((lanesOk_iff Q _).2 ⟨State.reset_boothOk, fun _ => State.reset_modeOk⟩) rfl

/-- A request row acts when its request is in process (log 3). -/
theorem LanesOk.request {c : Instr} (hs : LanesOk Q s) (hx : exec c s = takeEffect c (Machine.serve c) s)
    (h : exec c s = .next t) : LanesOk Q t := by
  rw [hx] at h
  cases hp : s.inProcess c with
  | true =>
    rw [takeEffect_in hp] at h
    cases h
    exact (hs.serve c).of_view (lanesView_withEffect ..)
  | false =>
    rw [takeEffect_out hp] at h
    cases h
    exact hs

/-- An event acts while the part runs (R187). -/
theorem LanesOk.event {f : State → State} (hs : LanesOk Q s) (hf : LanesOk Q (f s)) (h : whenRunning f s = .next t) :
    LanesOk Q t := by
  rcases whenRunning_cases h with rfl | ⟨-, rfl⟩
  · exact hs
  · exact hf

theorem LanesOk.exec {c : Instr} (hs : LanesOk Q s) (h : exec c s = .next t) : LanesOk Q t := by
  cases c with
  | requestFrame bits | fetchFrame bits | ignoredFrame bits =>
    cases h; exact hs.of_view (lanesView_clockedFrame s bits)
  | processingComplete => exact hs.event hs.complete h
  | csnFallingEdge => cases h; exact hs.of_view rfl
  | rxdEdge level =>
    simp only [Machine.exec, execRxdEdge] at h
    split at h <;> cases h <;> exact hs.of_view rfl
  | deviceReset cause =>
    simp only [Machine.exec, execDeviceReset] at h
    split at h <;> cases h
    · exact hs.beginReset
    · exact hs
  | resetEnd =>
    simp only [Machine.exec, execResetEnd] at h
    split at h <;> cases h
    · exact .endReset s
    · exact hs
  | encoderCount l sec v => exact hs.event (hs.onEdge fun _ hu => hu.count) h
  | eyeEntry l v => exact hs.event (hs.onEdge fun _ hu => hu.entryEdge) h
  | eyeOven l v => exact hs.event (hs.onEdge fun _ hu => hu.ovenEdge) h
  | eyeUnload l v => exact hs.event (hs.onEdge fun _ hu => hu.unloadEdge) h
  | moveDone l v => exact hs.event (hs.onEdge fun _ hu => hu.moveDoneEdge) h
  | flowPulse l v => exact hs.event (hs.onEdge fun _ hu => hu.countPulse) h
  | settledEvent l => exact hs.event hs.quietEnd h
  | flashClaimExpiry l => exact hs.event hs.claimEnd h
  | divertPulseEnd l g => exact hs.event hs.pulseEnd h
  | inspectTrigPulseEnd l => exact hs.event (hs.of_view (lanesView_trigPulseEnd s l)) h
  | inspectTrigRecoveryEnd l => exact hs.event (hs.of_view (lanesView_trigRecoveryEnd s l)) h
  | inspectWindowExpiry k => exact hs.event hs.windowTimeout h
  | breakEntry => exact hs.event (hs.of_view (lanesView_enterBreak s)) h
  | lineQuiet => exact hs.event (hs.of_view (lanesView_lineQuiet s)) h
  | assemblerByteTake => exact hs.event (hs.of_view (lanesView_assemble s)) h
  | idRead => exact hs.event hs.takeRead h
  | maskReport => exact hs.event hs.takeReport h
  | gantryTransferEnd => exact hs.event hs.portEnd h
  | durationExpiry l => exact hs.event hs.durationEnd h
  | moveTimeout l => exact hs.event hs.moveTimeoutEnd h
  | gantryErr l v => exact hs.event hs.gantryErrSample h
  | recoatExpiry l => exact hs.event hs.recoatEnd h
  | pollStart =>
    have hpoll : LanesOk Q { s with poll := { s.poll with inFlight := true } } := hs.of_view rfl
    exact hs.event (f := fun s => if s.pollMayStart then _ else s) (.ite hpoll hs) h
  | pollCompletion rs => exact hs.event hs.completePoll h
  | tachEdge z v n => exact hs.event (hs.of_view (lanesView_readTach ..)) h
  | stallWatchExpiry z n =>
    exact hs.event (f := fun s => (s.atSample (s.sampleAt n)).stallAt z (s.sampleAt n))
      (hs.of_view (lanesView_stallAt ..)) h
  | tick | characterReceived | breakEnd => exact hs.event (hs.of_view rfl) h
  | _ => exact hs.request rfl h

end

/-! ### Every step -/

/-- A step keeps the lanes in order, whatever waits in the queue (log 1). -/
theorem LanesOk.step {Q : Prop} {s t : State} (hs : LanesOk Q s) (h : step s = .next t) : LanesOk Q t :=
  step_keeps (P := LanesOk Q) (fun _ _ h => h.of_view rfl) (fun _ _ _ h hx => h.exec hx) hs h

theorem boothOrderKept : Claims.BoothOrderKept := fun s t hs h =>
  ((lanesOk_iff False t).1 (((lanesOk_iff False s).2 ⟨hs, False.elim⟩).step h)).1

theorem lineModeKept : Claims.LineModeKept := fun s t hb hm h =>
  ((lanesOk_iff True t).1 (((lanesOk_iff True s).2 ⟨hb, fun _ => hm⟩).step h)).2 trivial

/-- Settles O7: the invariant `LanesOk` without and with the line mode. -/
theorem boothAndLineModeKept : Obligations.BoothAndLineModeKept := ⟨boothOrderKept, lineModeKept⟩

end Sys2Proof.Machine
end

section
/-! SUPPORT. CLEAR_LANE (R68, R96, R132). -/

namespace Sys2Proof.Machine

theorem State.sameButSlots_foldl {α : Type} {f : State → α → State}
    (hf : ∀ (s : State) a, s.sameButSlots (f s a)) (s : State) (as : List α) : s.sameButSlots (as.foldl f s) := by
  refine List.foldlRecOn (motive := s.sameButSlots) as f rfl fun u hu a _ => ?_
  have hstep := hf u a
  unfold State.sameButSlots at *
  rw [hstep, hu]

/-! ### The parts of CLEAR_LANE -/

theorem State.parkQueued_eq (s : State) (l : LaneNo) :
    s.parkQueued l = { s with
      slots := (s.parkQueued l).slots
      ltk := s.ltk.set l { s.ltk.get l with front := [], oven := [] } } := by
  have hf : s.sameButSlots ((s.ltk.get l).queued.foldl (fun s h => s.modPanel h parked) s) :=
    State.sameButSlots_foldl (fun s h => (s.modPanel_frame h parked).1) s _
  unfold State.sameButSlots at hf
  unfold State.parkQueued
  rw [hf]
  rfl

theorem State.clearInspecting_eq (s : State) (l : LaneNo) :
    s.clearInspecting l = { s with
      slots := (s.clearInspecting l).slots
      mvf := s.mvf.set l { s.mvf.get l with inspecting := [] } } := by
  have hf : s.sameButSlots ((s.mvf.get l).inspecting.foldl
      (fun s w => s.modPanel w.handle fun p => { p with inspectTag := none }) s) :=
    State.sameButSlots_foldl (fun s (w : Window) => (s.modPanel_frame w.handle _).1) s _
  unfold State.sameButSlots at hf
  unfold State.clearInspecting
  rw [hf]
  rfl

/-- The channel is IDLE with no record and no order, its claim gone and its gantry at (0,0), whatever it did before
(R115, R132). -/
theorem State.clearBooth_spec {s : State} {l : LaneNo} (hb : s.boothLaneOk l) :
    ∃ c : Channel, (c.state = .idle ∧ c.served = none ∧ c.order = none) ∧
      s.clearBooth l = { s with
        pgn := s.pgn.set l { s.pgn.get l with state := .idle, record := none, pos := parkPoint }
        bch := s.bch.set l c
        ltk := s.ltk.set l { s.ltk.get l with boothClaim := false } } := by
  obtain ⟨hserved, hclaim, horder, -⟩ := hb
  by_cases hi : (s.bch.get l).state = .idle
  · refine ⟨s.bch.get l, ⟨hi, by simpa [hi] using hserved, by simpa [hi, ChannelState.mayHoldOrder] using horder⟩, ?_⟩
    have hfalse : (s.ltk.get l).boothClaim = false := by simpa [hi] using hclaim
    have hnone : { s.ltk.get l with boothClaim := false } = s.ltk.get l := by rw [← hfalse]
    rw [hnone, PerLane.set_get, PerLane.set_get]
    simp [State.clearBooth, hi, State.modPgn]
  · refine ⟨{ s.bch.get l with
      state := .idle, served := none, order := none, inFlight := false, flow := 0, recoatExpiry := none },
      ⟨rfl, rfl, rfl⟩, ?_⟩
    simp [State.clearBooth, hi, State.modPgn, State.modBch, State.modLtk, State.channelIdle]

/-- What CLEAR_LANE of a lane in FAULT leaves besides the records (R68). -/
theorem State.cleared_spec {s : State} {l : LaneNo} (hb : s.boothLaneOk l) :
    ∃ c : Channel, (c.state = .idle ∧ c.served = none ∧ c.order = none) ∧
      s.cleared l = { s with
        slots := (s.cleared l).slots
        ltk := s.ltk.set l { s.ltk.get l with
          state := .tracking, front := [], oven := [], boothClaim := false, flashClaim := none }
        mvf := s.mvf.set l { s.mvf.get l with inspecting := [] }
        pgn := s.pgn.set l { s.pgn.get l with state := .idle, record := none, pos := parkPoint }
        bch := s.bch.set l c } := by
  have hlists : (s.parkQueued l).clearInspecting l = { s with
      slots := ((s.parkQueued l).clearInspecting l).slots
      ltk := s.ltk.set l { s.ltk.get l with front := [], oven := [] }
      mvf := s.mvf.set l { s.mvf.get l with inspecting := [] } } := by
    rw [State.clearInspecting_eq, State.parkQueued_eq]
  have hb' : ((s.parkQueued l).clearInspecting l).boothLaneOk l := by
    rw [hlists]
    simpa [State.boothLaneOk] using hb
  obtain ⟨c, hc, hbooth⟩ := State.clearBooth_spec hb'
  refine ⟨c, hc, ?_⟩
  unfold State.cleared
  rw [hbooth, hlists]
  simp [State.modLtk]

/-! ### The request -/

/-- Settles O21: the refusals, and the parts of the effect one after another. -/
theorem clearLaneRule : Obligations.ClearLaneRule := by
  intro s lane hp
  refine ⟨fun hl => ?_, fun l hl hst => ?_, fun l hl hst hb => ?_⟩
  · exact refuses_of_serve rfl hp (by simp [serveClearLane, (laneOfNat_eq_none_iff lane).2 hl])
  · exact refuses_of_serve rfl hp (by simp [serveClearLane, hl, hst])
  · obtain ⟨c, ⟨hidle, hserved, horder⟩, heq⟩ := State.cleared_spec hb
    have hpanel := s.panel_cleared l
    generalize hu : s.cleared l = t at heq hpanel
    have hltk := congrArg State.ltk heq
    have hmvf := congrArg State.mvf heq
    have hpgn := congrArg State.pgn heq
    have hbch := congrArg State.bch heq
    simp only at hltk hmvf hpgn hbch
    refine ⟨t, accepts_of_serve rfl hp ?_, ?_, ?_, ?_, ?_, ?_, ?_, ?_, ?_, ?_, ?_, fun h p hh hq => ?_,
      fun h hq hw => ?_⟩
    · rw [← hu]
      simp only [serveClearLane, hl, hst, if_true]
      rfl
    · rw [hltk, hmvf, hpgn, hbch]; exact heq
    · rw [hltk, PerLane.get_set_self]
    · rw [hmvf, PerLane.get_set_self]
    · rw [hbch, PerLane.get_set_self, hidle]
    · rw [hbch, PerLane.get_set_self, hserved]
    · rw [hbch, PerLane.get_set_self, horder]
    · rw [hpgn, PerLane.get_set_self]
    · rw [hpgn, PerLane.get_set_self]
    · rw [hpgn, PerLane.get_set_self]; rfl
    · rw [hltk, hmvf, hpgn, hbch]; simp
    · have hqueued : h ∈ (s.ltk.get l).queued := hq
      refine ⟨_, ?_, rfl⟩
      simp only [hpanel, hh, if_pos hqueued]
      split <;> rfl
    · have hqueued : h ∉ (s.ltk.get l).queued := hq
      simp only [hpanel, if_neg hqueued, if_neg hw]

end Sys2Proof.Machine
end

section
/-! SUPPORT. Lane faults and diverts (R48, R56, R58, R67). -/

namespace Sys2Proof.Machine

/-! ### Lane faults -/

/-- A raise on each record of a list without repeats (R159). -/
theorem State.raiseAll_spec (r : HoldReason) {hs : List Nat} (hn : hs.Nodup) (s : State) :
    s.raiseAll r hs = { s with slots := (s.raiseAll r hs).slots, bch := (s.raiseAll r hs).bch } ∧
    ∀ k, (s.raiseAll r hs).panel k =
      if k ∈ hs then (s.panel k).map fun p => (p.raise s.params (s.holdMaskOf p) r).1 else s.panel k := by
  induction hs generalizing s with
  | nil => exact ⟨rfl, fun k => by simp [State.raiseAll]⟩
  | cons h hs ih =>
    rw [List.nodup_cons] at hn
    obtain ⟨hframe, hpanel⟩ := ih hn.2 (s.raise r h)
    have hone := s.raise_frame r h
    have hcons : s.raiseAll r (h :: hs) = (s.raise r h).raiseAll r hs := rfl
    have hparams : (s.raise r h).params = s.params := by rw [hone]
    have hmask : ∀ p, (s.raise r h).holdMaskOf p = s.holdMaskOf p := fun p => by rw [hone]; rfl
    rw [hcons]
    refine ⟨?_, fun k => ?_⟩
    · rw [hframe, hone]
    · rw [hpanel, State.panel_raise, hparams]
      simp only [hmask, List.mem_cons]
      by_cases hk : k = h
      · subst k; simp [hn.1]
      · simp [hk]

theorem State.faultCause_of_tracking {s : State} {l : LaneNo} (h : (s.ltk.get l).state = .tracking) :
    s.faultCause l = ((s.raiseFlag (laneFaultFlag l)).modLtk l fun t => { t with state := .fault }).raiseAll .trackLost
      (s.ltk.get l).queued := by
  simp [State.faultCause, h]

theorem laneFaultRule : Claims.LaneFaultRule := by
  intro s l
  refine ⟨fun hst => by simp [State.faultCause, hst], fun hst hn => ?_⟩
  obtain ⟨hframe, hpanel⟩ := State.raiseAll_spec .trackLost hn
    ((s.raiseFlag (laneFaultFlag l)).modLtk l fun t => { t with state := .fault })
  have hfault := State.faultCause_of_tracking hst
  unfold LaneTrack.queued at hfault
  rw [← hfault] at hframe hpanel
  refine ⟨hframe, fun h p hm hp => ?_, fun h hm => ?_⟩
  · rw [hpanel, if_pos hm]
    simp [hp]
  · rw [hpanel, if_neg hm]
    rfl

/-! ### Diverts -/

theorem LaneTrack.pulseOf_pulse (t : LaneTrack) (g : DivertGate) (e : Tick) : (t.pulse g e).pulseOf g = some e := by
  cases g <;> rfl

theorem LaneTrack.pulseOf_pulse_ne (t : LaneTrack) {g g' : DivertGate} (e : Tick) (h : g' ≠ g) :
    (t.pulse g e).pulseOf g' = t.pulseOf g' := by
  cases g <;> cases g' <;> simp [LaneTrack.pulse, LaneTrack.pulseOf] at h ⊢

theorem LaneTrack.pulse_lists (t : LaneTrack) (g : DivertGate) (e : Tick) :
    (t.pulse g e).front = t.front ∧ (t.pulse g e).oven = t.oven := by
  cases g <;> exact ⟨rfl, rfl⟩

theorem LaneTrack.pulseOf_without (t : LaneTrack) (h : Nat) (g : DivertGate) :
    (t.without h).pulseOf g = t.pulseOf g := by
  cases g <;> rfl

/-- A divert output is asserted while its pulse runs (R58). -/
theorem State.divertOut_eq (s : State) (l : LaneNo) (g : DivertGate) :
    s.divertOut l g = (!s.inReset && ((s.ltk.get l).pulseOf g).isSome) := by
  cases g <;> rfl

theorem divertEffect : Claims.DivertEffect := by
  intro s l g h p hp
  have hlive : (s.modLtk l fun t => (t.without h).pulse g (s.later s.params.divertPulse)).panel h = some p := hp
  have hu : s.divert l g h =
      (s.modLtk l fun t => (t.without h).pulse g (s.later s.params.divertPulse)).setSlot h (some (parked p)) :=
    State.modPanel_of_live hlive _
  have hlane : (s.divert l g h).ltk.get l =
      ((s.ltk.get l).without h).pulse g (s.later s.params.divertPulse) := by simp [hu]
  have hlists := ((s.ltk.get l).without h).pulse_lists g (s.later s.params.divertPulse)
  have hpulse := ((s.ltk.get l).without h).pulseOf_pulse g (s.later s.params.divertPulse)
  refine ⟨?_, fun k hk => ?_, ?_, ?_, ?_, ?_, ?_, fun g' hg => ?_, fun hr => ?_⟩
  · rw [hu]; rfl
  · rw [hu, State.panel_setSlot_ne _ hk]; rfl
  · rw [hu, State.panel_setSlot_self _ (State.panel_lt hp)]; rfl
  · simp [hu]
  · rw [hlane, hlists.1]; rfl
  · rw [hlane, hlists.2]; rfl
  · rw [hlane, hpulse]; rfl
  · rw [hlane, LaneTrack.pulseOf_pulse_ne _ _ hg, LaneTrack.pulseOf_without]
  · rw [State.divertOut_eq, hlane, hpulse]
    simp [hu, hr]

/-- Settles O38: the fault cause and the divert. -/
theorem faultAndDivert : Obligations.FaultAndDivert := ⟨laneFaultRule, divertEffect⟩

end Sys2Proof.Machine
end

section
/-! SUPPORT. Encoder counts and the arrivals they raise (R43, R44). -/

namespace Sys2Proof.Machine

/-! ### The order of arrivals (R44, log 7) -/

theorem perm_insertArrival (n : Nat) (a : StationNo × Nat) (as : List (StationNo × Nat)) :
    (insertArrival n a as).Perm (a :: as) := by
  induction as with
  | nil => exact .refl _
  | cons b bs ih =>
    simp only [insertArrival]
    split
    · exact .refl _
    · exact (ih.cons b).trans (.swap a b bs)

theorem perm_orderArrivals (n : Nat) (as : List (StationNo × Nat)) : (orderArrivals n as).Perm as := by
  induction as with
  | nil => exact .refl _
  | cons a as ih => exact (perm_insertArrival n a _).trans (ih.cons a)

/-- An arrival passes only arrivals at other stations: those at its own station have its own rank. -/
theorem filter_insertArrival (n : Nat) (a : StationNo × Nat) (as : List (StationNo × Nat)) (st : StationNo) :
    (insertArrival n a as).filter (fun x => x.1 == st) = (a :: as).filter fun x => x.1 == st := by
  induction as with
  | nil => rfl
  | cons b bs ih =>
    simp only [insertArrival]
    split
    · rfl
    · rename_i hrank
      have hst : a.1 = st → b.1 ≠ st := fun ha hb => hrank (by simp [arrivalRank, ha, hb])
      rw [List.filter_cons, ih]
      by_cases ha : a.1 = st
      · simp [ha, hst ha]
      · simp [List.filter_cons, ha]

theorem filter_orderArrivals (n : Nat) (as : List (StationNo × Nat)) (st : StationNo) :
    (orderArrivals n as).filter (fun x => x.1 == st) = as.filter fun x => x.1 == st := by
  induction as with
  | nil => rfl
  | cons a as ih =>
    have hcons : orderArrivals n (a :: as) = insertArrival n a (orderArrivals n as) := rfl
    rw [hcons, filter_insertArrival, List.filter_cons, List.filter_cons, ih]

/-! ### The count (R43) -/

/-- The state in which a count has advanced the records of its queue and hands out no arrival yet (R43). -/
def State.counted (l : LaneNo) (sec : LineSection) (s : State) : State :=
  ((s.ltk.get l).queue sec).foldl (fun s h => s.advance h) { s.restartQuiet l sec with free := s.free + 1 }

theorem State.count_idle {s : State} {l : LaneNo} (h : (s.ltk.get l).state = .idle) (sec : LineSection) :
    s.count l sec = s := by
  simp [State.count, h]

theorem State.count_eq {s : State} {l : LaneNo} (h : (s.ltk.get l).state ≠ .idle) (sec : LineSection) :
    s.count l sec =
      (orderArrivals s.free (((s.ltk.get l).queue sec).flatMap (s.arrivalsOf sec))).foldl (fun s a => s.arrive l a)
        (s.counted l sec) := by
  simp only [State.count, if_neg h]
  rfl

theorem State.restartQuiet_eq (s : State) (l : LaneNo) (sec : LineSection) :
    s.restartQuiet l sec = { s with ltk := (s.restartQuiet l sec).ltk } := by
  cases sec <;> rfl

/-- Every record of the queue advances, the quiet timer restarts at a front count, and nothing else changes. -/
theorem State.counted_spec (s : State) (l : LaneNo) (sec : LineSection) (hn : ((s.ltk.get l).queue sec).Nodup) :
    s.counted l sec = { s with
      slots := (s.counted l sec).slots, ltk := (s.counted l sec).ltk, free := s.free + 1 } ∧
    (s.counted l sec).ltk = (s.restartQuiet l sec).ltk ∧
    (∀ h p, h ∈ (s.ltk.get l).queue sec → s.panel h = some p →
      (s.counted l sec).panel h = some { p with place := p.place.map Place.advanced }) ∧
    ∀ h, h ∉ (s.ltk.get l).queue sec → (s.counted l sec).panel h = s.panel h := by
  obtain ⟨hframe, hpanel⟩ :=
    State.advanceAll ((s.ltk.get l).queue sec) hn { s.restartQuiet l sec with free := s.free + 1 }
  have hslots : (s.restartQuiet l sec).slots = s.slots := by rw [State.restartQuiet_eq]
  have hpanel' : ∀ h, (s.counted l sec).panel h =
      if h ∈ (s.ltk.get l).queue sec then (s.panel h).map fun p => { p with place := p.place.map Place.advanced }
      else s.panel h := by
    intro h
    have hsame : State.panel { s.restartQuiet l sec with free := s.free + 1 } h = s.panel h :=
      State.panel_of_slots (s := s) hslots h
    rw [← hsame]
    exact hpanel h
  have hcounted : s.counted l sec = { s.restartQuiet l sec with
      slots := (s.counted l sec).slots, free := s.free + 1 } := hframe
  have hltk : (s.counted l sec).ltk = (s.restartQuiet l sec).ltk := by rw [hcounted]
  refine ⟨?_, hltk, fun h p hm hp => ?_, fun h hm => ?_⟩
  · rw [hltk, hcounted, State.restartQuiet_eq]
  · rw [hpanel', if_pos hm, hp]; rfl
  · rw [hpanel', if_neg hm]

theorem exec_encoderCount {s : State} {l : LaneNo} {sec : LineSection} (h : s.edgeAt l (encoderInput sec)) :
    exec (.encoderCount l sec true) s = .next ((s.keepLevel l (encoderInput sec) true).count l sec) :=
  whenRunning_edge _ h

theorem countAdvances : Claims.CountAdvances := by
  intro s l sec hedge k q
  rw [exec_encoderCount hedge]
  refine ⟨fun hi => by rw [State.count_idle (s := k) hi], fun hi hn hnone => ?_⟩
  obtain ⟨hframe, hltk, hmem, hrest⟩ := State.counted_spec k l sec hn
  refine ⟨k.counted l sec, ?_, hframe, ?_, hmem, hrest⟩
  · have hraised : q.flatMap (k.arrivalsOf sec) = [] := List.flatMap_eq_nil_iff.2 hnone
    rw [State.count_eq (s := k) hi]
    show Host.Outcome.next (List.foldl _ _ (orderArrivals k.free (q.flatMap (k.arrivalsOf sec)))) = _
    rw [hraised]
    rfl
  · rw [hltk]; cases sec <;> rfl

/-! ### Arrivals (R44) -/

theorem arrivalHandedToStation : Claims.ArrivalHandedToStation := by
  intro s l sec h st hedge hi hq ha
  have hq' : ((s.keepLevel l (encoderInput sec) true).ltk.get l).queue sec = [h] := hq
  have ha' : (s.keepLevel l (encoderInput sec) true).arrivalsOf sec h = [(st, h)] := ha
  rw [exec_encoderCount hedge,
    State.count_eq (s := s.keepLevel l (encoderInput sec) true) hi, State.counted, hq']
  simp only [List.flatMap_cons, List.flatMap_nil, List.append_nil, ha', List.foldl_cons, List.foldl_nil]
  rfl

theorem arrivalsHandedOver : Claims.ArrivalsHandedOver := by
  intro s l sec hedge hi k q raised hn
  obtain ⟨hframe, hltk, hmem, hrest⟩ := State.counted_spec k l sec hn
  refine ⟨⟨k.counted l sec, orderArrivals k.free raised, ?_, perm_orderArrivals _ _, filter_orderArrivals _ _, hframe,
    ?_, hmem, hrest⟩, fun h st n => s.mem_arrivalsOf sec h (st, n)⟩
  · rw [exec_encoderCount hedge, State.count_eq (s := k) hi]
    rfl
  · rw [hltk]; cases sec <;> rfl

/-- Settles O39: the advance, the single arrival, and the arrivals of a whole queue. -/
theorem countRule : Obligations.CountRule := ⟨countAdvances, arrivalHandedToStation, arrivalsHandedOver⟩

end Sys2Proof.Machine
end

section
/-! SUPPORT. The tracker's own stations (R54, R56, R57, R60, R63, R66). -/

namespace Sys2Proof.Machine

/-! ### Ticks (R185) -/

theorem tickAfter_iff (a b : Tick) : tickAfter a b = true ↔ 1 ≤ (a - b).toNat ∧ (a - b).toNat ≤ 2147483647 := by
  simp [tickAfter]

theorem tickAfter_self (a : Tick) : tickAfter a a = false := by simp [tickAfter]

/-- Of two ticks at most one lies after the other. -/
theorem not_tickAfter_of_tickAfter {a b : Tick} (h : tickAfter a b = true) : tickAfter b a = false := by
  rw [← Bool.not_eq_true, tickAfter_iff]
  rw [tickAfter_iff] at h
  bv_omega

/-- The FLASH claim kept is the new one or the old one, and neither lies after it (R60). -/
theorem claimExpiry_spec (old : Option Tick) (e : Tick) :
    (claimExpiry old e = e ∨ old = some (claimExpiry old e)) ∧ tickAfter e (claimExpiry old e) = false ∧
    ∀ o, old = some o → tickAfter o (claimExpiry old e) = false := by
  cases old with
  | none => exact ⟨.inl rfl, tickAfter_self e, fun o ho => by cases ho⟩
  | some o =>
    simp only [claimExpiry, Option.some.injEq]
    split
    · rename_i hlater
      exact ⟨.inr rfl, not_tickAfter_of_tickAfter hlater, fun a ha => ha ▸ tickAfter_self o⟩
    · rename_i hlater
      exact ⟨.inl rfl, tickAfter_self e, fun a ha => ha ▸ Bool.not_eq_true _ ▸ hlater⟩

/-! ### Stations -/

section
variable {s : State} {l : LaneNo} {h : Nat} {p : Panel} (hp : s.panel h = some p)
include hp

theorem State.closeIdWindow_of_live :
    s.closeIdWindow h =
      if p.stage = .entered then if p.id = none then (s.leaveEntered h).raise .noId h else s.leaveEntered h
      else s := by
  simp only [State.closeIdWindow, hp, Option.isNone_iff_eq_none]

/-- The divert check of a record that is not INSPECTING (R56). -/
theorem State.arriveDivertA_of_not_inspecting (hst : p.stage ≠ .inspecting) :
    s.arriveDivertA l h = if s.governing h ≠ none then s.divert l .a h else s := by
  simp only [State.arriveDivertA, State.endOpenWindow, hp, if_neg hst, Option.isSome_iff_ne_none]

theorem State.arriveDivertB_of_live :
    s.arriveDivertB l h =
      if (s.bch.get l).served = some h then s.faultCause l
      else if s.governing h ≠ none ∨ p.stage = .verified ∨ p.stage = .spraying then s.divert l .b h
      else s := by
  simp only [State.arriveDivertB, State.served, hp, Bool.or_eq_true, beq_iff_eq, Option.isSome_iff_ne_none, or_assoc]

theorem State.arriveFlash_of_end {e : Tick} (he : p.flashEnd = some e) :
    s.arriveFlash l h =
      if p.stage = .flashing ∧ tickAfter e s.tick = true then
        s.modLtk l fun t => { t with flashClaim := some (claimExpiry t.flashClaim e) }
      else s := by
  simp only [State.arriveFlash, hp, he, Bool.and_eq_true, decide_eq_true_eq]

theorem State.arriveFlash_of_no_end (he : p.flashEnd = none) : s.arriveFlash l h = s := by
  simp only [State.arriveFlash, hp, he]

/-- No FLASH claim is made for a record that is not FLASHING, or whose flash time is over (R60). -/
theorem State.arriveFlash_unclaimed
    (hno : p.stage ≠ .flashing ∨ p.flashEnd = none ∨ ∃ e, p.flashEnd = some e ∧ tickAfter e s.tick = false) :
    s.arriveFlash l h = s := by
  cases he : p.flashEnd with
  | none => exact State.arriveFlash_of_no_end hp he
  | some e =>
    rw [State.arriveFlash_of_end hp he, if_neg]
    rintro ⟨hst, hafter⟩
    rcases hno with hns | hnone | ⟨e', he', hdue⟩
    · exact hns hst
    · rw [he] at hnone; cases hnone
    · rw [he] at he'; cases he'
      rw [hafter] at hdue; cases hdue

end

/-- Settles O40: each station by the record's stage. -/
theorem trackerStations : Obligations.TrackerStations := by
  intro s l h p hp
  have hid : s.arrive l (.idWindow, h) = s.closeIdWindow h := rfl
  have hA : s.arrive l (.divertA, h) = s.arriveDivertA l h := rfl
  have hB : s.arrive l (.divertB, h) = s.arriveDivertB l h := rfl
  have hflash : s.arrive l (.flashApproach, h) = s.arriveFlash l h := rfl
  rw [hid, hA, hB, hflash, State.closeIdWindow_of_live hp, State.arriveDivertB_of_live hp]
  refine ⟨fun hst => if_neg hst, fun hst => if_pos hst, fun hst hg => ?_, fun hst hg => ?_, fun hs => if_pos hs,
    fun hs hg => ?_, fun hs hg hv hy => ?_, fun e hst he hafter => ?_, State.arriveFlash_unclaimed hp, rfl, rfl⟩
  · rw [State.arriveDivertA_of_not_inspecting hp hst, if_neg (not_not.2 hg)]
  · rw [State.arriveDivertA_of_not_inspecting hp hst, if_pos hg]
  · rw [if_neg hs, if_pos hg]
  · rw [if_neg hs, if_neg (by simp [hg, hv, hy])]
  · rw [State.arriveFlash_of_end hp he, if_pos ⟨hst, hafter⟩]
    exact ⟨_, rfl, claimExpiry_spec _ e⟩

end Sys2Proof.Machine
end

section
/-! SUPPORT. Inspection windows and trigger pulses (R84, R86, R87, R89, R90). -/

namespace Sys2Proof.Machine

/-! ### The end of a window (R89) -/

theorem State.endWindow_of_live {s : State} {h : Nat} {p : Panel} (hp : s.panel h = some p) :
    s.endWindow h =
      ((s.modMvf p.lane fun m => { m with inspecting := m.inspecting.filter fun w => w.handle != h }).modPanel h
        fun p => { p with inspectTag := none, mask := none, stage := .verified }).raise .inspectTimeout h := by
  simp only [State.endWindow, hp]
  rfl

theorem State.windowExpired_iff (s : State) (h : Nat) (p : Panel) :
    s.windowExpired h p = true ↔
      ∃ w ∈ (s.mvf.get p.lane).inspecting, w.handle = h ∧ tickAfter w.expiry s.tick = false := by
  simp only [State.windowExpired, List.any_eq_true, Bool.and_eq_true, beq_iff_eq, due_iff]

theorem exec_inspectWindowExpiry {s : State} {h : Nat} {p : Panel} (hr : s.inReset = false)
    (hp : s.panel h = some p) :
    exec (.inspectWindowExpiry h) s = .next (if s.windowExpired h p = true then s.endWindow h else s) := by
  have hrun : exec (.inspectWindowExpiry h) s = .next (s.windowTimeout h) := whenRunning_run _ hr
  rw [hrun]
  simp only [State.windowTimeout, hp]

theorem windowEndRule : Claims.WindowEndRule := by
  intro s h p hr hp u
  have hu : u.raise .inspectTimeout h = s.endWindow h := (State.endWindow_of_live hp).symm
  rw [exec_inspectWindowExpiry hr hp, hu]
  refine ⟨fun hdue => by rw [if_pos ((s.windowExpired_iff h p).2 hdue)], fun hrun => ?_⟩
  rw [if_neg]
  intro hdue
  obtain ⟨w, hw, hh, hpast⟩ := (s.windowExpired_iff h p).1 hdue
  rw [hrun w hw hh] at hpast
  cases hpast

/-! ### The arrival at DIVERT_A (R56, R90) -/

/-- With room on its hold list, a record raised on holds the reason afterwards (R159, R160). -/
theorem Panel.exists_raised {p : Panel} (prm : Params) (m : HoldMask) (r : HoldReason) (hroom : p.holds.length < 4) :
    ∃ e ∈ (p.raise prm m r).1.holds, e.reason = r := by
  have hholds : (p.notify .holdRaised).holds = p.holds := rfl
  simp only [Panel.raise, hholds, if_pos hroom]
  split
  · rename_i hany
    obtain ⟨e, he, hreason⟩ := List.any_eq_true.1 hany
    exact ⟨bumpEntry r e, List.mem_map_of_mem he, (bumpEntry_reason r e).trans (beq_iff_eq.1 hreason)⟩
  · exact ⟨newEntry r, by simp, rfl⟩

/-- A raised reason that no mask covers leaves a governing hold when the hold list had room (R158). -/
theorem State.governing_raise {s : State} {h : Nat} {p : Panel} {r : HoldReason} (hp : s.panel h = some p)
    (hroom : p.holds.length < 4) (hplain : ∀ m : HoldMask, m.covers r = false) :
    (s.raise r h).governing h ≠ none := by
  obtain ⟨e, he, hreason⟩ := Panel.exists_raised s.params (s.holdMaskOf p) r hroom
  have hpanel : (s.raise r h).panel h = some (p.raise s.params (s.holdMaskOf p) r).1 := by
    rw [State.panel_raise, if_pos rfl, hp, Option.map_some]
  simp only [State.governing, hpanel, State.governingPanel, Ne, governingOf_eq_none_iff]
  intro hall
  have hcov := hall e he
  rw [hreason, hplain] at hcov
  cases hcov

theorem windowEndsAtDivertA : Claims.WindowEndsAtDivertA := by
  intro s l h p hp hst u
  have hu : u = s.endWindow h := (State.endWindow_of_live hp).symm
  have harrive : s.arrive l (.divertA, h) = if (u.governing h).isSome then u.divert l .a h else u := by
    have hopen : s.endOpenWindow h = s.endWindow h := by simp only [State.endOpenWindow, hp, if_pos hst]
    rw [hu, ← hopen]
    rfl
  refine ⟨fun hg => by rw [harrive, hg]; rfl, fun hg => ?_, fun hroom => ?_⟩
  · rw [harrive, if_pos (Option.isSome_iff_ne_none.2 hg)]
  · have hpanel : ((s.modMvf p.lane fun m =>
        { m with inspecting := m.inspecting.filter fun w => w.handle != h }).modPanel h fun p =>
          { p with inspectTag := none, mask := none, stage := .verified }).panel h =
        some { p with inspectTag := none, mask := none, stage := .verified } := by
      rw [State.panel_modPanel_self, State.modMvf_panel, hp, Option.map_some]
    exact State.governing_raise hpanel hroom fun m => rfl

/-! ### Tag reuse (R86 step 1) -/

theorem State.inspectingWithTag_eq_none_iff (s : State) (l : LaneNo) (tag : BitVec 4) :
    s.inspectingWithTag l tag = none ↔
      ∀ w ∈ (s.mvf.get l).inspecting, ∀ p, s.panel w.handle = some p → p.inspectTag ≠ some tag := by
  simp only [State.inspectingWithTag, List.find?_eq_none, List.forall_mem_map]
  refine forall₂_congr fun w _ => ?_
  cases s.panel w.handle <;> simp

/-- A window's end leaves the mask verifier's lane but for the record's window, and every other record. -/
theorem State.endWindow_frame {s : State} {k : Nat} {p : Panel} (hp : s.panel k = some p) :
    (s.endWindow k).mvf.get p.lane =
      { s.mvf.get p.lane with inspecting := (s.mvf.get p.lane).inspecting.filter fun w => w.handle != k } ∧
    s.othersKept (s.endWindow k) k := by
  rw [State.endWindow_of_live hp]
  refine ⟨?_, fun h hk => ?_⟩
  · rw [State.raise_frame]
    simp
  · rw [State.panel_raise, if_neg hk, State.panel_modPanel_ne _ _ hk, State.modMvf_panel]

theorem State.reuseTag_of_some {s : State} {l : LaneNo} {k : Nat}
    (h : s.inspectingWithTag l (s.mvf.get l).tag = some k) : s.reuseTag l = s.endWindow k := by
  simp only [State.reuseTag, h]

theorem State.reuseTag_of_none {s : State} {l : LaneNo}
    (h : s.inspectingWithTag l (s.mvf.get l).tag = none) : s.reuseTag l = s := by
  simp only [State.reuseTag, h]

theorem tagReuse : Claims.TagReuse := by
  intro s l h k p hp hl hk honly u
  subst hl
  have hu : u = s.endWindow k := (State.endWindow_of_live hp).symm
  obtain ⟨hlane, hothers⟩ := State.endWindow_frame hp
  rw [← hu] at hlane hothers
  have htag : (u.mvf.get p.lane).tag = (s.mvf.get p.lane).tag := by rw [hlane]
  have hfree : u.inspectingWithTag p.lane (s.mvf.get p.lane).tag = none := by
    rw [State.inspectingWithTag_eq_none_iff, hlane]
    intro w hw q hq hqtag
    obtain ⟨hmem, hne⟩ := List.mem_filter.1 hw
    have hne : w.handle ≠ k := by simpa using hne
    exact hne (honly w hmem q (hothers w.handle hne ▸ hq) hqtag)
  refine ⟨?_, htag, hfree⟩
  have hagain : u.reuseTag p.lane = u := State.reuseTag_of_none (by rw [htag]; exact hfree)
  unfold State.trigger
  rw [State.reuseTag_of_some hk, hagain, htag, ← hu]

/-! ### Trigger pulses (R87) -/

theorem triggerOutputRule : Claims.TriggerOutputRule := by
  intro s l e hr he
  have hdue : due s.tick e = true := (due_iff _ _).2 he
  have hpulse : exec (.inspectTrigPulseEnd l) s = .next (s.trigPulseEnd l) := whenRunning_run _ hr
  have hrecovery : exec (.inspectTrigRecoveryEnd l) s = .next (s.trigRecoveryEnd l) := whenRunning_run _ hr
  rw [hpulse, hrecovery]
  refine ⟨fun ht => ?_, fun ht hb => ?_, fun n ht hb => ?_⟩
  · simp only [State.trigPulseEnd, ht, if_pos hdue]
    rfl
  · simp [State.trigRecoveryEnd, ht, hdue, State.modMvf, hb]
  · simp [State.trigRecoveryEnd, ht, hdue, State.modMvf, hb, State.later]

/-- Settles O42: windows by timer, at DIVERT_A and by tag reuse, and the trigger output's timers. -/
theorem windowsAndPulses : Obligations.WindowsAndPulses :=
  ⟨windowEndRule, windowEndsAtDivertA, tagReuse, triggerOutputRule⟩

end Sys2Proof.Machine
end

section
/-! SUPPORT. ID reads (R4, R14, R53). -/

namespace Sys2Proof.Machine

/-! ### Two changes of one record -/

theorem State.setSlot_setSlot (s : State) (h : Nat) (a b : Option Panel) :
    (s.setSlot h a).setSlot h b = s.setSlot h b := by
  simp [State.setSlot, Vector.setIfInBounds_setIfInBounds]

theorem State.modPanel_twice (s : State) (h : Nat) (f g : Panel → Panel) :
    (s.modPanel h f).modPanel h g = s.modPanel h fun p => g (f p) := by
  cases hp : s.panel h with
  | none => simp [State.modPanel_of_free hp]
  | some p =>
    have hnew : (s.setSlot h (some (f p))).panel h = some (f p) := State.panel_setSlot_self _ (State.panel_lt hp)
    rw [State.modPanel_of_live hp, State.modPanel_of_live hp, State.modPanel_of_live hnew, State.setSlot_setSlot]

/-- A change of a record does not look at the ID map. -/
theorem State.modPanel_withIdMap (s : State) (m : List (PanelId × Nat)) (h : Nat) (f : Panel → Panel) :
    { s with idMap := m }.modPanel h f = { s.modPanel h f with idMap := m } := by
  have hsame : State.panel { s with idMap := m } h = s.panel h := rfl
  cases hp : s.panel h with
  | none => rw [State.modPanel_of_free hp, State.modPanel_of_free (hsame.trans hp)]
  | some p => rw [State.modPanel_of_live hp, State.modPanel_of_live (hsame.trans hp)]; rfl

/-! ### The record a read is bound to -/

theorem State.oldestEntered_eq_none {s : State} {l : LaneNo}
    (hnone : ∀ h ∈ (s.ltk.get l).front, ∀ p, s.panel h = some p → p.stage ≠ .entered) :
    s.oldestEntered l = none := by
  rw [State.oldestEntered, List.find?_eq_none]
  intro h hm
  cases hp : s.panel h with
  | none => simp
  | some p => simpa using hnone h hm p hp

/-- The ENTERED record nearest the head takes the read (R53). -/
theorem State.oldestEntered_eq_some {s : State} {l : LaneNo} {pre post : List Nat} {h : Nat} {p : Panel}
    (hq : (s.ltk.get l).front = pre ++ h :: post)
    (hpre : ∀ x ∈ pre, ∀ q, s.panel x = some q → q.stage ≠ .entered) (hp : s.panel h = some p)
    (hst : p.stage = .entered) : s.oldestEntered l = some h := by
  rw [State.oldestEntered, hq, List.find?_eq_some_iff_append]
  refine ⟨by simp [hp, hst], pre, post, rfl, fun x hx => ?_⟩
  cases hxp : s.panel x with
  | none => simp
  | some q => simpa using hpre x hx q hxp

/-! ### What the read does to it -/

theorem State.findId_isSome_iff (s : State) (id : PanelId) : (s.findId id).isSome = true ↔ ∃ n, (id, n) ∈ s.idMap := by
  simp only [State.findId, Option.isSome_map, List.find?_isSome, beq_iff_eq, Prod.exists]
  exact ⟨fun ⟨i, n, hm, hi⟩ => ⟨n, hi ▸ hm⟩, fun ⟨n, hm⟩ => ⟨id, n, hm, rfl⟩⟩

section
variable (s : State) (h : Nat) {p : Panel} {id : PanelId}

theorem State.bindRead_same (hid : p.id = some id) : s.bindRead h p id = s := by
  simp [State.bindRead, hid]

theorem State.bindRead_other {own : PanelId} (hid : p.id = some own) (hne : own ≠ id) :
    s.bindRead h p id = s.raise .idMismatch h := by
  simp [State.bindRead, hid, hne]

theorem State.bindRead_taken (hid : p.id = none) (htaken : ∃ n, (id, n) ∈ s.idMap) :
    s.bindRead h p id = s.raise .duplicateId h := by
  simp [State.bindRead, hid, (s.findId_isSome_iff id).2 htaken]

/-- A new ID is stored and mapped, with notice IDENTIFIED (R4, R13, R14). -/
theorem State.bindRead_new (hid : p.id = none) (hfree : ∀ n, (id, n) ∉ s.idMap) :
    s.bindRead h p id =
      { s.modPanel h (fun p => { p with id := some id, notices := { p.notices with identified := true } }) with
        idMap := s.idMap ++ [(id, h)] } := by
  have hno : ¬(s.findId id).isSome = true := by
    rw [State.findId_isSome_iff]
    rintro ⟨n, hn⟩
    exact hfree n hn
  simp only [State.bindRead, hid, if_neg hno, State.storeId]
  rw [State.modPanel_withIdMap, State.modPanel_twice]
  rfl

end

/-! ### The event -/

theorem exec_idRead {s : State} {l : LaneNo} {id : PanelId} (hr : s.inReset = false)
    (ho : s.slr.asm.state = .offering (.idRead l id)) :
    exec .idRead s = .next (s.resumeAssembler.acceptRead l id) := by
  have hrun : exec .idRead s = .next s.takeRead := whenRunning_run _ hr
  rw [hrun]
  simp only [State.takeRead, ho]

theorem State.acceptRead_of_oldest {s : State} {l : LaneNo} {h : Nat} {p : Panel} (id : PanelId)
    (ho : s.oldestEntered l = some h) (hp : s.panel h = some p) :
    s.acceptRead l id = (s.bindRead h p id).leaveEntered h := by
  simp only [State.acceptRead, ho, hp]

/-- Settles O44: no ENTERED record, and the four rows of R53's table for the one nearest the head. -/
theorem idReadRule : Obligations.IdReadRule := by
  intro s l id hr ho k
  have hx : exec .idRead s = .next (k.acceptRead l id) := exec_idRead hr ho
  rw [hx]
  refine ⟨fun hnone => ?_, fun pre h post p hq hpre hp hst => ?_⟩
  · have hstray : k.oldestEntered l = none := State.oldestEntered_eq_none (s := k) hnone
    simp only [State.acceptRead, hstray]
  · have hoff : k.oldestEntered l = some h := State.oldestEntered_eq_some (s := k) hq hpre hp hst
    have hbound : k.acceptRead l id = (k.bindRead h p id).leaveEntered h := State.acceptRead_of_oldest id hoff hp
    rw [hbound]
    refine ⟨fun hid => ?_, fun own hid hne => ?_, fun hid htaken => ?_, fun hid hfree => ?_⟩
    · rw [k.bindRead_same h hid]; rfl
    · rw [k.bindRead_other h hid hne]; rfl
    · rw [k.bindRead_taken h hid htaken]; rfl
    · rw [k.bindRead_new h hid hfree]; rfl

end Sys2Proof.Machine
end

section
/-! SUPPORT. The exit decision and the unload edge (R64, R65, R151). -/

namespace Sys2Proof.Machine

/-! ### The exit decision (R64, R151) -/

theorem curePasses_iff (prof : CureProfile) (c : Cure) :
    curePasses prof c = true ↔ prof.target ≤ c.dose ∧ prof.minPeak ≤ c.peak := by
  simp [curePasses]

theorem State.exitDecision_of_profile {s : State} {h : Nat} {p : Panel} {c : Cure} {prof : CureProfile}
    (hp : s.panel h = some p) (hc : p.cure = some c) (hprof : s.cureProfileOf p = some prof) :
    s.exitDecision h =
      if prof.target ≤ c.dose ∧ prof.minPeak ≤ c.peak then
        s.setSlot h (some ({ p with cure := some { c with verdict := some .pass } }.notify .cured))
      else (s.setSlot h (some { p with cure := some { c with verdict := some .undercure } })).raise .undercure h := by
  simp only [State.exitDecision, hp, hc, hprof, curePasses_iff]

theorem exitDecisionRule : Claims.ExitDecisionRule := by
  intro s l h p c prof hp hst hc hprof u
  have hlt := State.panel_lt hp
  have hu : u = (s.exitDecision h).modPanel h fun p => { p with stage := .exited } := by
    have harrive : u = s.arriveOvenOut h := rfl
    rw [harrive]
    simp only [State.arriveOvenOut, hp, if_pos hst]
  rw [State.exitDecision_of_profile hp hc hprof] at hu
  refine ⟨fun hpass => ?_, fun hfail => ?_⟩
  · rw [if_pos hpass, State.modPanel_of_live (State.panel_setSlot_self _ hlt), State.setSlot_setSlot] at hu
    rw [hu]
    exact ⟨rfl, fun k hk => State.panel_setSlot_ne _ hk, State.panel_setSlot_self _ hlt⟩
  · rw [if_neg hfail] at hu
    rw [hu, State.modPanel_of_live hp]

/-! ### The unload edge (R65) -/

theorem State.unloadEdge_idle {s : State} {l : LaneNo} (h : (s.ltk.get l).state = .idle) : s.unloadEdge l = s := by
  simp [State.unloadEdge, h]

theorem State.unloadEdge_empty {s : State} {l : LaneNo} (hi : (s.ltk.get l).state ≠ .idle)
    (hq : (s.ltk.get l).oven = []) : s.unloadEdge l = s.faultCause l := by
  simp [State.unloadEdge, hi, hq]

theorem State.mayFinish_iff {s : State} {h : Nat} {p : Panel} (hp : s.panel h = some p) :
    s.mayFinish p = true ↔
      p.stage = .exited ∧ (∃ c, p.cure = some c ∧ c.verdict = some .pass) ∧ s.governing h = none := by
  have hgov : s.governing h = s.governingPanel p := by simp only [State.governing, hp]
  simp only [State.mayFinish, Bool.and_eq_true, beq_iff_eq, Option.bind_eq_some_iff, Option.isNone_iff_eq_none, hgov,
    and_assoc]

/-- What the edge does to a head with a place (R65). -/
theorem State.unloadEdge_of_head {s : State} {l : LaneNo} {h : Nat} {rest : List Nat} {p : Panel} {pl : Place}
    (hi : (s.ltk.get l).state ≠ .idle) (hq : (s.ltk.get l).oven = h :: rest) (hp : s.panel h = some p)
    (hpl : p.place = some pl) :
    s.unloadEdge l =
      if s.params.offset .unload - s.params.eyeTolerance ≤ pl.pos ∧
          pl.pos ≤ s.params.offset .unload + s.params.eyeTolerance then
        if s.mayFinish p = true then s.finish l h else s.divert l .u h
      else s.faultCause l := by
  have hpos : s.posOf h = some pl.pos := by simp [State.posOf, hp, hpl]
  simp only [State.unloadEdge, if_neg hi, hq, hp, hpos, withinEye_iff]

/-- A finished record leaves the oven queue and becomes DONE, and nothing else changes (R65). -/
theorem State.finish_spec {s : State} {h : Nat} {p : Panel} (l : LaneNo) (hp : s.panel h = some p) :
    s.finish l h = { s with
      slots := (s.finish l h).slots
      ltk := (s.modLtk l fun t => { t with oven := t.oven.filter (· != h) }).ltk } ∧
    s.othersKept (s.finish l h) h ∧
    (s.finish l h).panel h = some { p with
      stage := .done, place := none, notices := { p.notices with unloaded := true } } := by
  have hlive : (s.modLtk l fun t => { t with oven := t.oven.filter (· != h) }).panel h = some p := hp
  rw [State.finish, State.modPanel_of_live hlive]
  exact ⟨rfl, fun k hk => State.panel_setSlot_ne _ hk, State.panel_setSlot_self _ (State.panel_lt hp)⟩

theorem unloadRule : Claims.UnloadRule := by
  intro s l hedge
  have hx : exec (.eyeUnload l true) s = .next ((s.keepLevel l .eyeUnload true).unloadEdge l) :=
    whenRunning_edge _ hedge
  have hlane : (s.keepLevel l .eyeUnload true).ltk.get l = s.ltk.get l := rfl
  simp only [hx, Host.Outcome.next.injEq, ← hlane]
  refine ⟨State.unloadEdge_idle, State.unloadEdge_empty, fun h rest p pl hi hq hp hpl => ?_⟩
  have hk : (s.keepLevel l .eyeUnload true).panel h = some p := hp
  have hgood := State.mayFinish_iff hk
  rw [State.unloadEdge_of_head hi hq hk hpl]
  refine ⟨fun hout => if_neg hout, fun hin hbad => ?_, fun hin hok => ?_⟩
  · rw [if_pos (by exact hin), if_neg (mt hgood.1 hbad)]
  · rw [if_pos (by exact hin), if_pos (hgood.2 hok)]
    obtain ⟨hframe, hothers, hpanel⟩ := State.finish_spec l hk
    refine ⟨(s.keepLevel l .eyeUnload true).finish l h, rfl, ?_, hothers, ?_, hpanel⟩
    · rw [hframe]
    · rw [hframe]; rfl

/-- Settles O45: the exit decision, and the unload edge by its cases in order. -/
theorem exitAndUnload : Obligations.ExitAndUnload := ⟨exitDecisionRule, unloadRule⟩

end Sys2Proof.Machine
end

section
/-! SUPPORT. The outputs (R52, R58, R59, R87, R120, R135, R173, R183, R188, R194). -/

namespace Sys2Proof.Machine

theorem State.noticePending_iff (s : State) :
    s.noticePending = true ↔ ∃ h p, s.panel h = some p ∧ p.notices ≠ noNotices := by
  rw [State.noticePending, s.slots_toList, List.any_map, List.any_eq_true]
  constructor
  · rintro ⟨h, -, hany⟩
    cases hp : s.panel h with
    | none => simp [hp] at hany
    | some p => exact ⟨h, p, hp, (Notices.any_iff _).1 (by simpa [hp] using hany)⟩
  · rintro ⟨h, p, hp, hn⟩
    exact ⟨h, List.mem_range.2 (State.panel_lt hp), by simpa [hp] using (Notices.any_iff _).2 hn⟩

section
variable {s : State} (hr : s.inReset = false)
include hr

theorem State.frontStop_iff (l : LaneNo) :
    s.frontStop l = true ↔ (s.ltk.get l).boothClaim = true ∨ (s.ltk.get l).flashClaim ≠ none := by
  simp [State.frontStop, hr, Option.isSome_iff_ne_none]

theorem State.entryInhibit_iff (l : LaneNo) :
    s.entryInhibit l = true ↔ s.freeList.length ≤ s.params.entryReserve ∨ 24 ≤ (s.ltk.get l).front.length ∨
      (s.ltk.get l).state = .fault ∨ s.mode = .config := by
  have hfree : s.freeCount = s.freeList.length := rfl
  rw [← hfree]
  simp [State.entryInhibit, hr, or_assoc]

theorem State.attn_iff :
    s.attn = true ↔ (∃ h p, s.panel h = some p ∧ p.notices ≠ noNotices) ∨ s.flags ≠ Flags.reset := by
  simp [State.attn, hr, State.noticePending_iff, Flags.any_iff]

theorem State.divertOut_iff (l : LaneNo) (g : DivertGate) :
    s.divertOut l g = true ↔ (s.ltk.get l).pulseOf g ≠ none := by
  simp [State.divertOut_eq, hr, Option.isSome_iff_ne_none]

theorem State.inspectTrig_iff (l : LaneNo) :
    s.inspectTrig l = true ↔ ∃ e, (s.mvf.get l).trig = .asserted e := by
  cases ht : (s.mvf.get l).trig <;> simp [State.inspectTrig, hr, ht]

theorem State.gantrySelect_iff (l : LaneNo) : s.gantrySelect l = true ↔ ∃ f, s.port = some f ∧ f.lane = l := by
  cases hf : s.port <;> simp [State.gantrySelect, hr, hf]

theorem State.sensorSelect_eq : s.sensorSelect = s.poll.inFlight := by
  simp [State.sensorSelect, hr]

end

/-- The outputs through reset (R188). -/
theorem State.outputs_of_reset {s : State} (l : LaneNo) (hr : s.inReset = true) :
    s.frontStop l = false ∧ s.entryInhibit l = true ∧ s.attn = false ∧ (∀ g, s.divertOut l g = false) ∧
    s.inspectTrig l = false ∧ s.gantrySelect l = false ∧ s.sensorSelect = false ∧
    s.gantryLines = .low ∧ s.sensorLines = .low := by
  simp [State.frontStop, State.entryInhibit, State.attn, State.divertOut_eq, State.inspectTrig, State.gantrySelect,
    State.sensorSelect, State.gantryLines, State.sensorLines, hr]

/-- Settles O60: each output out of reset, MISO with CS_N high, and the outputs through reset. -/
theorem outputsRule : Obligations.OutputsRule := by
  intro s l
  refine ⟨fun hr => ⟨State.frontStop_iff hr l, State.entryInhibit_iff hr l, State.attn_iff hr,
    State.divertOut_iff hr l, State.inspectTrig_iff hr l, State.gantrySelect_iff hr l, ?_, fun f hf => ?_,
    fun hf => ?_, fun hp => ?_, fun hp => ?_, fun st hc hf => ?_⟩, fun hc => ?_, State.outputs_of_reset l⟩
  · rw [State.sensorSelect_eq hr]
  · simp only [State.gantryLines, hr, hf]
  · simp only [State.gantryLines, hr, hf]
  · rw [State.sensorLines, State.sensorSelect_eq hr, if_pos hp]; rfl
  · rw [State.sensorLines, State.sensorSelect_eq hr, hp]; rfl
  · simp [State.misoLine, hc, hr, hf]
  · simp [State.misoLine, hc]

end Sys2Proof.Machine
end

section
/-! SUPPORT. The lane timers and the settled event (R58, R60, R61, R118, R119). -/

namespace Sys2Proof.Machine

/-! ### Timers -/

theorem State.expired_of_due {s : State} {timer : Option Tick} {e : Tick} (ht : timer = some e)
    (he : tickAfter e s.tick = false) : s.expired timer = true := by
  rw [ht, State.expired_some, due_iff, he]

theorem State.expired_of_running {s : State} {timer : Option Tick} {e : Tick} (ht : timer = some e)
    (he : tickAfter e s.tick = true) : s.expired timer = false := by
  rw [ht, State.expired_some, due, he]; rfl

theorem LaneTrack.pulseOf_negate (t : LaneTrack) (g : DivertGate) : (t.negate g).pulseOf g = none := by
  cases g <;> rfl

theorem LaneTrack.pulseOf_negate_ne (t : LaneTrack) {g g' : DivertGate} (h : g' ≠ g) :
    (t.negate g).pulseOf g' = t.pulseOf g' := by
  cases g <;> cases g' <;> simp [LaneTrack.negate, LaneTrack.pulseOf] at h ⊢

theorem LaneTrack.negate_lists (t : LaneTrack) (g : DivertGate) :
    (t.negate g).front = t.front ∧ (t.negate g).oven = t.oven := by
  cases g <;> exact ⟨rfl, rfl⟩

section
variable {s : State} {l : LaneNo} {e : Tick} (hr : s.inReset = false)
include hr

/-- A quiet timer that has run out on a lane not IDLE is the settled event (R61). -/
theorem exec_settledEvent_of_due (hq : (s.ltk.get l).quiet = some e) (he : tickAfter e s.tick = false)
    (hi : (s.ltk.get l).state ≠ .idle) :
    exec (.settledEvent l) s = .next ((s.modLtk l fun t => { t with quiet := none }).settled l) := by
  have hrun : exec (.settledEvent l) s = .next (s.quietEnd l) := whenRunning_run _ hr
  rw [hrun]
  simp [State.quietEnd, State.expired_of_due hq he, hi]

theorem exec_settledEvent_of_running (hq : (s.ltk.get l).quiet = some e) (he : tickAfter e s.tick = true) :
    exec (.settledEvent l) s = .next s := by
  have hrun : exec (.settledEvent l) s = .next (s.quietEnd l) := whenRunning_run _ hr
  rw [hrun]
  simp [State.quietEnd, State.expired_of_running hq he]

theorem exec_flashClaimExpiry :
    exec (.flashClaimExpiry l) s = .next (if s.expired (s.ltk.get l).flashClaim = true then
      s.modLtk l fun t => { t with flashClaim := none } else s) := whenRunning_run _ hr

theorem exec_divertPulseEnd (g : DivertGate) :
    exec (.divertPulseEnd l g) s = .next (if s.expired ((s.ltk.get l).pulseOf g) = true then
      s.modLtk l fun t => t.negate g else s) := whenRunning_run _ hr

end

theorem State.settled_of_not_settling {s : State} {l : LaneNo} (h : (s.bch.get l).state ≠ .settling) :
    s.settled l = s := by
  unfold State.settled
  split
  · rfl
  · rw [if_neg h]

theorem laneTimersRule : Claims.LaneTimersRule := by
  intro s l e hr
  refine ⟨fun hq he hi hc => ?_, fun hf he => ?_, fun g hg he => ?_,
    fun he => ⟨fun hq => ?_, fun hf => ?_, fun g hg => ?_⟩⟩
  · rw [exec_settledEvent_of_due hr hq he hi, State.settled_of_not_settling (by exact hc)]
  · rw [exec_flashClaimExpiry hr, if_pos (State.expired_of_due hf he)]
  · rw [exec_divertPulseEnd hr, if_pos (State.expired_of_due hg he)]
    obtain ⟨hfront, hoven⟩ := (s.ltk.get l).negate_lists g
    refine ⟨_, rfl, rfl, ?_, fun g' hne => ?_, ?_, ?_, ?_⟩
    · simp [State.divertOut_eq, LaneTrack.pulseOf_negate]
    · rw [State.get_modLtk, LaneTrack.pulseOf_negate_ne _ hne]
    · simp
    · rw [State.get_modLtk, hfront]
    · rw [State.get_modLtk, hoven]
  · exact exec_settledEvent_of_running hr hq he
  · rw [exec_flashClaimExpiry hr, State.expired_of_running hf he]; rfl
  · rw [exec_divertPulseEnd hr, State.expired_of_running hg he]; rfl

/-! ### What asking for an order leaves (R105, R119, R120) -/

/-- `t` differs from `s` by the orders of lane `l` alone: the steps of its generator, the order in hand of its channel
and the frame on the port. -/
structure OrdersOnly (l : LaneNo) (s t : State) : Prop where
  frame : t = { s with bch := t.bch, pgn := t.pgn, port := t.port }
  state : (t.bch.get l).state = (s.bch.get l).state
  served : (t.bch.get l).served = (s.bch.get l).served
  coat : (t.bch.get l).coat = (s.bch.get l).coat
  record : (t.pgn.get l).record = (s.pgn.get l).record
  coatMade : (t.pgn.get l).coat = (s.pgn.get l).coat
  other : t.bch.get (otherLane l) = s.bch.get (otherLane l)

section
variable {s t u : State} {l : LaneNo}

theorem OrdersOnly.refl (l : LaneNo) (s : State) : OrdersOnly l s s := ⟨rfl, rfl, rfl, rfl, rfl, rfl, rfl⟩

theorem OrdersOnly.trans (h : OrdersOnly l s t) (k : OrdersOnly l t u) : OrdersOnly l s u where
  frame := by rw [k.frame, h.frame]
  state := k.state.trans h.state
  served := k.served.trans h.served
  coat := k.coat.trans h.coat
  record := k.record.trans h.record
  coatMade := k.coatMade.trans h.coatMade
  other := k.other.trans h.other

end

section
variable (s : State) (l : LaneNo)

theorem State.ordersOnly_send : OrdersOnly l s (s.send l) := by
  unfold State.send
  split
  · exact .refl l s
  · constructor <;> simp [State.modBch]

theorem State.ordersOnly_offer (o : MoveOrder) : OrdersOnly l s (s.offer l o) := by
  have hhand : OrdersOnly l s
      (s.modBch l fun c => { c with order := some o, inFlight := false, sendTick := s.tick }) := by
    constructor <;> simp [State.modBch]
  unfold State.offer
  simp only
  split
  · exact hhand.trans (State.ordersOnly_send _ l)
  · exact hhand

theorem nextFrom_record (speed : Nat) (b : Body) (rects : List MaskZone) (g : Generator) (c : Candidate) :
    (nextFrom speed b rects g c).1.record = g.record ∧ (nextFrom speed b rects g c).1.coat = g.coat := by
  unfold nextFrom
  split <;> exact ⟨rfl, rfl⟩

theorem State.ordersOnly_nextOrder : OrdersOnly l s (s.nextOrder l).1 := by
  unfold State.nextOrder
  simp only
  split
  · exact .refl l s
  split
  · exact .refl l s
  split
  · exact .refl l s
  split
  · exact .refl l s
  · constructor <;> simp [State.modPgn, nextFrom_record]

theorem State.ordersOnly_askNext : OrdersOnly l s (s.askNext l) := by
  have hnext := s.ordersOnly_nextOrder l
  unfold State.askNext
  simp only
  split
  · exact hnext
  · exact hnext.trans (State.ordersOnly_offer _ l _)

end

/-! ### The settled event in SETTLING (R118, R119) -/

/-- The state in which coat 0 of a new pass has begun, before its first order (R118, R119). -/
def State.passBegun (l : LaneNo) (h : Nat) (s : State) : State :=
  ((((s.modPanel h fun p => { p with coats := [], stage := .spraying }).modBch l fun c =>
    { c with coat := 0 }).modPanel h fun p => { p with coats := p.coats ++ [newCoat] }).startGenerator l h 0).modBch l
    fun c => { c with state := .coating, recoatExpiry := none }

theorem State.settled_of_governed {s : State} {l : LaneNo} {h : Nat} (hs : (s.bch.get l).served = some h)
    (hst : (s.bch.get l).state = .settling) (hg : s.governing h ≠ none) : s.settled l = s.channelIdle l := by
  simp [State.settled, State.served, hs, hst, Option.isSome_iff_ne_none, hg]

theorem State.settled_of_ungoverned {s : State} {l : LaneNo} {h : Nat} (hs : (s.bch.get l).served = some h)
    (hst : (s.bch.get l).state = .settling) (hg : s.governing h = none) :
    s.settled l = (s.passBegun l h).askNext l := by
  simp [State.settled, State.served, hs, hst, hg, State.startCoat, State.passBegun]

theorem State.passBegun_eq {s : State} {h : Nat} {p : Panel} (l : LaneNo) (hp : s.panel h = some p) :
    s.passBegun l h =
      (((s.setSlot h (some { p with stage := .spraying, coats := [newCoat] })).modBch l fun c =>
        { c with coat := 0, state := .coating, recoatExpiry := none }).startGenerator l h 0) := by
  have hspray : ((s.setSlot h (some { p with coats := [], stage := .spraying })).modBch l fun c =>
      { c with coat := 0 }).panel h = some { p with coats := [], stage := .spraying } :=
    State.panel_setSlot_self _ (State.panel_lt hp)
  rw [State.passBegun, State.modPanel_of_live hp, State.modPanel_of_live hspray]
  simp [State.setSlot, State.modBch, State.startGenerator, State.modPgn]

/-- Without a governing hold coat 0 of a new pass starts, and only the record and the lane's booth change. -/
theorem State.settled_pass {s : State} {l : LaneNo} {h : Nat} {p : Panel} (hs : (s.bch.get l).served = some h)
    (hst : (s.bch.get l).state = .settling) (hg : s.governing h = none) (hp : s.panel h = some p) :
    let u := s.settled l
    u = { s with slots := u.slots, bch := u.bch, pgn := u.pgn, port := u.port } ∧ s.othersKept u h ∧
    u.panel h = some { p with stage := .spraying, coats := [newCoat] } ∧
    (u.bch.get l).state = .coating ∧ (u.bch.get l).served = some h ∧ (u.bch.get l).coat = 0 ∧
    (u.pgn.get l).record = some h ∧ (u.pgn.get l).coat = 0 ∧ u.bch.get (otherLane l) = s.bch.get (otherLane l) := by
  intro u
  have hu : u = (s.passBegun l h).askNext l := State.settled_of_ungoverned hs hst hg
  obtain ⟨hframe, hstate, hserved, hcoat, hrecord, hmade, hother⟩ := (s.passBegun l h).ordersOnly_askNext l
  rw [← hu] at hframe hstate hserved hcoat hrecord hmade hother
  have hslots := congrArg State.slots hframe
  rw [State.passBegun_eq l hp] at hframe hslots hstate hserved hcoat hrecord hmade hother
  refine ⟨?_, fun k hk => ?_, ?_, ?_, ?_, ?_, ?_, ?_, ?_⟩
  · rw [hframe]; rfl
  · rw [State.panel_of_slots hslots]; exact State.panel_setSlot_ne _ hk
  · rw [State.panel_of_slots hslots]; exact State.panel_setSlot_self _ (State.panel_lt hp)
  · simp [hstate, State.startGenerator]
  · simp [hserved, State.startGenerator, hs]
  · simp [hcoat, State.startGenerator]
  · simp [hrecord, State.startGenerator]
  · simp [hmade, State.startGenerator]
  · simp [hother, State.startGenerator]

theorem settledStartsPass : Claims.SettledStartsPass := by
  intro s l e h p hr hq he hi hst hs hp
  rw [exec_settledEvent_of_due hr hq he hi]
  refine ⟨fun hg => ?_, fun hg => ?_⟩
  · have hidle : (s.modLtk l fun t => { t with quiet := none }).settled l = _ := State.settled_of_governed hs hst hg
    refine ⟨_, congrArg _ hidle, rfl, ?_, ?_, ?_, ?_⟩
    · simp [State.channelIdle, State.modLtk]
    all_goals simp [State.channelIdle]
  · obtain ⟨hframe, hrest⟩ :=
      State.settled_pass (s := s.modLtk l fun t => { t with quiet := none }) hs hst hg hp
    exact ⟨_, rfl, by rw [hframe]; rfl, hrest⟩

/-- Settles O46: the three timers, and the settled event in SETTLING with and without a governing hold. -/
theorem laneTimersAndSettled : Obligations.LaneTimersAndSettled := ⟨laneTimersRule, settledStartsPass⟩

end Sys2Proof.Machine
end

section
/-! SUPPORT. The station link's characters, BREAK and quiet (R70 to R77). -/

namespace Sys2Proof.Machine

/-! ### The frame in assembly -/

theorem AsmState.midFrame_iff (st : AsmState) :
    st.midFrame = true ↔ st = .length ∨ st = .body ∨ st = .checksum := by
  cases st <;> simp [AsmState.midFrame]

/-- A dropped frame leaves the assembler as after reset; an assembler outside a frame is left alone (R71, R74, R77). -/
theorem dropFrame_eq (r : StationLink) :
    dropFrame r = { r with asm := match r.asm.state with
      | .length | .body | .checksum => Assembler.reset
      | _ => r.asm } := by
  cases h : r.asm.state <;> simp [dropFrame, h, AsmState.midFrame]

theorem dropFrame_of_midFrame {r : StationLink} (h : r.asm.state.midFrame = true) :
    dropFrame r = { r with asm := Assembler.reset } := by
  rw [dropFrame, if_pos h]

/-- A QUIET line with an empty FIFO abandons the frame in assembly with LINK_ERROR (R77). -/
theorem State.abandonIfQuiet_of_idle {s : State} (hq : s.slr.quiet = true) (hf : s.slr.fifo = [])
    (hm : s.slr.asm.state.midFrame = true) :
    s.abandonIfQuiet = { s with
      slr := { s.slr with asm := Assembler.reset }, flags := { s.flags with linkError := true } } := by
  simp only [State.abandonIfQuiet, hq, hf, hm, List.isEmpty_nil, Bool.and_self, if_true, State.modSlr,
    dropFrame_of_midFrame hm]
  rfl

theorem State.abandonIfQuiet_of_busy {s : State}
    (h : s.slr.quiet = false ∨ s.slr.fifo ≠ [] ∨ s.slr.asm.state.midFrame = false) : s.abandonIfQuiet = s := by
  have hoff : ¬(s.slr.quiet && s.slr.fifo.isEmpty && s.slr.asm.state.midFrame) = true := by
    simp only [Bool.and_eq_true, List.isEmpty_iff]
    rintro ⟨⟨hq, hf⟩, hm⟩
    rcases h with h | h | h
    · rw [h] at hq; cases hq
    · exact h hf
    · rw [h] at hm; cases hm
  rw [State.abandonIfQuiet, if_neg hoff]

/-! ### Characters -/

section
variable {r : StationLink} {gap : Bool} (data : DataSamples) (stop : Bool)

theorem endCharacter_noise (h : r.rx = .receiving gap) :
    endCharacter true data stop r = { r with rx := .waiting, rxd := true } := by
  simp [endCharacter, h]

/-- A character's byte joins a FIFO with room, with its marks (R70, R72, R73, R75). -/
theorem endCharacter_of_room (h : r.rx = .receiving gap) (hroom : r.fifo.length < 64) :
    endCharacter false data stop r = { r with
      rx := .waiting, rxd := stop, quiet := false, lossPending := false,
      fifo := r.fifo ++ [{ byte := dataByte data, error := !stop, loss := r.lossPending, gap := gap }] } := by
  simp [endCharacter, h, offerByte, hroom]

/-- A full FIFO loses the byte and keeps a loss mark for the next (R73). -/
theorem endCharacter_of_full (h : r.rx = .receiving gap) (hfull : 64 ≤ r.fifo.length) :
    endCharacter false data stop r = { r with rx := .waiting, rxd := stop, quiet := false, lossPending := true } := by
  simp [endCharacter, h, offerByte, Nat.not_lt.2 hfull]

end

/-! ### Edges, BREAK and quiet -/

theorem rxdChange_fall {r : StationLink} (hw : r.rx = .waiting) (hd : r.rxd = true) :
    rxdChange false r = { r with rx := .receiving r.quiet, rxd := false } := by
  simp [rxdChange, hw, hd]

theorem rxdChange_inBreak {r : StationLink} (h : r.rx = .inBreak) (level : Bool) :
    rxdChange level r = { r with rxd := level } := by
  unfold rxdChange
  split
  · next hsame => rw [← hsame]
  · simp only [h]

theorem State.enterBreak_of_low {s : State} (hw : s.slr.rx = .waiting) (hd : s.slr.rxd = false) :
    s.enterBreak =
      (s.modSlr fun r => { dropFrame r with rx := .inBreak, fifo := [], lossPending := false }).raiseFlag
        .linkError := by
  simp [State.enterBreak, breakMayBegin, hw, hd]

theorem endBreak_of_high {r : StationLink} (hb : r.rx = .inBreak) (hd : r.rxd = true) :
    endBreak r = { r with rx := .waiting, quiet := true } := by
  simp [endBreak, hb, hd]

theorem State.lineQuiet_of_waiting {s : State} (hw : s.slr.rx = .waiting) (hq : s.slr.quiet = false) :
    s.lineQuiet = (s.modSlr fun r => { r with quiet := true }).abandonIfQuiet := by
  simp [State.lineQuiet, hw, hq, Receiver.busy]

theorem dataBitOrder : Claims.DataBitOrder := by
  intro b0 b1 b2 b3 b4 b5 b6 b7 b
  simp [b, dataByte, ← BitVec.getLsbD_eq_getElem, BitVec.getLsbD_ofBoolListLE]

/-! ### The events -/

theorem exec_rxdEdge {s : State} (hr : s.inReset = false) (level : Bool) :
    exec (.rxdEdge level) s = .next (s.modSlr (rxdChange level)) := by
  have hx : exec (.rxdEdge level) s = execRxdEdge level s := rfl
  simp [hx, execRxdEdge, hr]

theorem charactersAndQuiet : Claims.CharactersAndQuiet := by
  intro s hr r
  have hchar : ∀ start data stop,
      exec (.characterReceived start data stop) s = .next (s.modSlr (endCharacter start data stop)) :=
    fun _ _ _ => whenRunning_run _ hr
  have hedge := exec_rxdEdge hr
  have hentry : exec .breakEntry s = .next s.enterBreak := whenRunning_run _ hr
  have hend : exec .breakEnd s = .next (s.modSlr endBreak) := whenRunning_run _ hr
  have hquiet : exec .lineQuiet s = .next s.lineQuiet := whenRunning_run _ hr
  refine ⟨fun gap data stop hx hroom => ?_, fun gap data stop hx hfull => ?_, fun gap data stop hx => ?_,
    fun hw hd => ?_, fun hb level => ?_, fun hw hd => ?_, fun hb hd => ?_,
    fun hw hq => ⟨fun hf hm => ?_, fun hk => ?_⟩⟩
  · rw [hchar, State.modSlr, endCharacter_of_room data stop hx hroom]
  · rw [hchar, State.modSlr, endCharacter_of_full data stop hx hfull]
  · rw [hchar, State.modSlr, endCharacter_noise data stop hx]
  · rw [hedge, State.modSlr, rxdChange_fall hw hd]
  · rw [hedge, State.modSlr, rxdChange_inBreak hb]
  · rw [hentry, State.enterBreak_of_low hw hd, State.modSlr, dropFrame_eq]
    rfl
  · rw [hend, State.modSlr, endBreak_of_high hb hd]
  · have hidle := State.abandonIfQuiet_of_idle (s := s.modSlr fun r => { r with quiet := true }) rfl hf
      ((AsmState.midFrame_iff _).2 hm)
    rw [hquiet, State.lineQuiet_of_waiting hw hq, hidle]
    rfl
  · rw [hquiet, State.lineQuiet_of_waiting hw hq, State.abandonIfQuiet_of_busy (.inr ?_)]
    · rfl
    · exact hk.imp id fun hh => by rw [State.modSlr_slr, hh]; rfl

/-- Settles O53: the order of a character's data bits, and characters, FIFO, BREAK and quiet. -/
theorem stationLineRule : Obligations.StationLineRule := ⟨dataBitOrder, charactersAndQuiet⟩

end Sys2Proof.Machine
end

section
/-! SUPPORT. SET_PARAM of the parameters that act at once: baud rate, stale limit and abort level (R71, R127, R137,
R181). -/

namespace Sys2Proof.Machine

/-! ### The stale limit (R137) -/

/-- A zone's count and state under a new limit (R137). -/
theorem relimit_of_pos {limit : Nat} (hl : 1 ≤ limit) (z : Zone) :
    relimit limit z = { z with
      stale := min z.stale limit
      state := if z.stale = 0 then z.state else if z.stale < limit then .stale else .invalid } := by
  by_cases h0 : z.stale = 0
  · simp [relimit, h0]
  · have hcount : min z.stale limit ≠ 0 := by omega
    have hbelow : min z.stale limit < limit ↔ z.stale < limit := by omega
    simp only [relimit, if_neg hcount, if_neg h0, staleState, hbelow]

theorem State.zone_lt {s : State} {i : Nat} {z : Zone} (h : s.zones[i]? = some z) : i < 6 := by
  by_contra hn
  simp [Vector.getElem?_eq_none (Nat.le_of_not_lt hn)] at h

/-- A new limit makes a zone enter INVALID (R137). -/
def Zone.entersInvalid (limit : Nat) (z : Zone) : Bool := z.state != .invalid && (relimit limit z).state == .invalid

theorem Zone.entersInvalid_iff {limit : Nat} (hl : 1 ≤ limit) (z : Zone) :
    z.entersInvalid limit = true ↔ z.state ≠ .invalid ∧ limit ≤ z.stale := by
  simp only [Zone.entersInvalid, relimit_of_pos hl, Bool.and_eq_true, bne_iff_ne, beq_iff_eq]
  refine and_congr_right fun hstate => ?_
  by_cases h0 : z.stale = 0
  · simp [h0, hstate, Nat.pos_iff_ne_zero.1 hl]
  · simp [h0]

/-- The new limit makes a zone of the table enter INVALID. -/
def State.zoneEnters (s : State) (i : Nat) : Bool := (s.zones[i]?).any (Zone.entersInvalid s.params.staleLimit)

theorem State.flags_relimitAt (s : State) (i : Nat) :
    (s.relimitAt i).flags = { s.flags with zoneAlarm := s.flags.zoneAlarm || s.zoneEnters i } := by
  cases hz : s.zones[i]? with
  | none => simp [State.relimitAt, State.zoneEnters, hz]
  | some z =>
    have hnew : (s.modZone i (relimit s.params.staleLimit)).zones[i]? = some (relimit s.params.staleLimit z) := by
      rw [State.zones_modZone, if_pos rfl, hz, Option.map_some]
    have henters : s.zoneEnters i = (z.state != .invalid && (relimit s.params.staleLimit z).state == .invalid) := by
      rw [State.zoneEnters, hz]; rfl
    simp only [State.relimitAt, hz, State.alarmIfInvalid, hnew, ← henters]
    cases s.zoneEnters i <;> simp [State.raiseFlag, Flags.raise]

theorem State.zoneEnters_relimitAt_ne (s : State) {i j : Nat} (h : j ≠ i) :
    (s.relimitAt i).zoneEnters j = s.zoneEnters j := by
  rw [State.zoneEnters, State.zones_relimitAt, if_neg h, State.params_relimitAt, State.zoneEnters]

/-- ZONE_ALARM after several zones are brought to the new limit (R137). -/
theorem State.flags_relimit_foldl {is : List Nat} (hn : is.Nodup) (s : State) :
    (is.foldl (fun s i => s.relimitAt i) s).flags =
      { s.flags with zoneAlarm := s.flags.zoneAlarm || is.any s.zoneEnters } := by
  induction is generalizing s with
  | nil => simp
  | cons i is ih =>
    obtain ⟨hi, hn⟩ := List.nodup_cons.1 hn
    have hrest : is.any (s.relimitAt i).zoneEnters = is.any s.zoneEnters := by
      rw [Bool.eq_iff_iff, List.any_eq_true, List.any_eq_true]
      exact exists_congr fun j => and_congr_right fun hj => by
        rw [s.zoneEnters_relimitAt_ne (ne_of_mem_of_not_mem hj hi)]
    rw [List.foldl_cons, ih hn, hrest, State.flags_relimitAt, List.any_cons, Bool.or_assoc]

theorem State.flags_relimitAll (s : State) :
    s.relimitAll.flags = { s.flags with zoneAlarm := s.flags.zoneAlarm || [0, 1, 2, 3, 4, 5].any s.zoneEnters } := by
  have hfold : s.relimitAll = [0, 1, 2, 3, 4, 5].foldl (fun s i => s.relimitAt i) s := by
    simp only [State.relimitAll, List.foldl_cons, List.foldl_nil]
  rw [hfold, State.flags_relimit_foldl (by decide)]

theorem State.eq_of_zoneRest {s t : State} (h : t.zoneRest = s.zoneRest) :
    t = { s with zones := t.zones, flags := t.flags } :=
  congrArg (fun u : State => { u with zones := t.zones, flags := t.flags }) h

theorem State.zones_relimitAll_of_some {s : State} {i : Nat} {z : Zone} (h : s.zones[i]? = some z) :
    s.relimitAll.zones[i]? = some (relimit s.params.staleLimit z) := by
  have hi : i < 6 := State.zone_lt h
  have hread : s.relimitAll.zones[i]? = some s.relimitAll.zones[i] := Vector.getElem?_eq_getElem hi
  obtain ⟨x, hx, hnew⟩ := State.zones_relimitAll hread
  rw [hread, hnew, Option.some.inj (hx.symm.trans h)]

theorem State.any_zoneEnters_iff {s : State} (hl : 1 ≤ s.params.staleLimit) :
    [0, 1, 2, 3, 4, 5].any s.zoneEnters = true ↔
      ∃ (i : Nat) (z : Zone), s.zones[i]? = some z ∧ z.state ≠ .invalid ∧ s.params.staleLimit ≤ z.stale := by
  simp only [List.any_eq_true, State.zoneEnters, Option.any_eq_true, Zone.entersInvalid_iff hl]
  refine ⟨fun ⟨i, _, z, hz⟩ => ⟨i, z, hz⟩, fun ⟨i, z, hz, hbad⟩ => ⟨i, ?_, z, hz, hbad⟩⟩
  have hi : i < 6 := State.zone_lt hz
  interval_cases i <;> decide

/-! ### The abort level (R127) -/

/-- The level table alone decides the order of ranks (R157). -/
theorem insertByRank_of_levels {a b : Params} (h : a.levels = b.levels) (m : HoldMask) (e : HoldEntry)
    (es : List HoldEntry) : insertByRank a m e es = insertByRank b m e es := by
  have hrank : entryRank a m = entryRank b m := by
    funext x
    simp only [entryRank, rankOf, Params.level, h]
  induction es with
  | nil => rfl
  | cons x xs ih => simp only [insertByRank, hrank, ih]

theorem governingOf_of_levels {a b : Params} (h : a.levels = b.levels) (m : HoldMask) (es : List HoldEntry) :
    governingOf a m es = governingOf b m es := by
  have hinsert : insertByRank a m = insertByRank b m := funext₂ (insertByRank_of_levels h m)
  rw [governingOf, governingOf, inRankOrder, inRankOrder, hinsert]

theorem State.governing_writeParams (s : State) {f : Params → Params} (hf : (f s.params).levels = s.params.levels)
    (h : Nat) : (s.writeParams f).governing h = s.governing h := by
  simp only [State.governing, State.governingPanel, State.writeParams_panel, State.writeParams_params,
    State.writeParams_holdMaskOf, governingOf_of_levels hf]

/-- A channel asked its hold question now goes to ABORTING (R127). -/
def State.mustAbort (s : State) (l : LaneNo) : Bool :=
  (s.bch.get l).state == .coating && (s.bch.get l).served.any s.abortHold

theorem State.askAbort_eq (s : State) (l : LaneNo) :
    s.askAbort l = if s.mustAbort l = true then s.modBch l fun c => { c with state := .aborting } else s := by
  cases h : (s.bch.get l).served <;> simp [State.askAbort, State.mustAbort, h]

theorem State.bch_askAbort (s : State) (l : LaneNo) :
    (s.askAbort l).bch.get l =
      if s.mustAbort l = true then { s.bch.get l with state := .aborting } else s.bch.get l := by
  rw [State.askAbort_eq]
  split <;> simp

theorem State.bch_askAbort_other (s : State) (l : LaneNo) :
    (s.askAbort l).bch.get (otherLane l) = s.bch.get (otherLane l) := by
  rw [State.askAbort_eq]
  split <;> simp

theorem State.mustAbort_askAbort_other (s : State) (l : LaneNo) :
    (s.askAbort l).mustAbort (otherLane l) = s.mustAbort (otherLane l) := by
  have hhold : (s.askAbort l).abortHold = s.abortHold := by
    rw [State.askAbort_eq]
    split <;> rfl
  rw [State.mustAbort, State.bch_askAbort_other, hhold, State.mustAbort]

theorem State.askAbort_frame (s : State) (l : LaneNo) : s.askAbort l = { s with bch := (s.askAbort l).bch } := by
  rw [State.askAbort_eq]
  split <;> rfl

/-- Both channels are asked, each by its own state (R127). -/
theorem State.bch_askAbort_both (s : State) (l : LaneNo) :
    ((s.askAbort .zero).askAbort .one).bch.get l =
      if s.mustAbort l = true then { s.bch.get l with state := .aborting } else s.bch.get l := by
  cases l with
  | zero => exact (State.bch_askAbort_other (s.askAbort .zero) .one).trans (s.bch_askAbort .zero)
  | one =>
    have hasked := s.mustAbort_askAbort_other .zero
    have hkept := s.bch_askAbort_other .zero
    rw [otherLane] at hasked hkept
    rw [State.bch_askAbort, hasked, hkept]

theorem State.mustAbort_iff (s : State) (l : LaneNo) :
    s.mustAbort l = true ↔ (s.bch.get l).state = .coating ∧
      ∃ h e, (s.bch.get l).served = some h ∧ s.governing h = some e ∧
        (e.reason.fixed = true ∨ s.params.level e.reason ≤ s.params.abortLevel) := by
  simp only [State.mustAbort, Bool.and_eq_true, beq_iff_eq, Option.any_eq_true]
  refine and_congr_right fun _ => exists_congr fun h => ?_
  cases hg : s.governing h <;> simp [State.abortHold, hg, abortClass]

/-! ### The requests -/

theorem baudRateOk_iff (v : Int) : (v == 57600 || v == 115200) = true ↔ v = 57600 ∨ v = 115200 := by simp

/-- SET_PARAM of the baud rate (R71): a change restarts the receiver. -/
theorem baudRateRule (s : State) (v : Int) :
    ParamRule (.setParamBaudRate v) s true (v = 57600 ∨ v = 115200)
      (if s.params.baud = v.toNat then s
       else { s with
         params := { s.params with baud := v.toNat }
         slr := { dropFrame s.slr with rx := .waiting, quiet := true, fifo := [], lossPending := false } }) :=
  paramRule_of_setParam rfl rfl rfl (baudRateOk_iff v)

/-- The state with a new stale limit that no zone has been brought to. -/
def State.withStaleLimit (n : Nat) (s : State) : State := s.writeParams fun p => { p with staleLimit := n }

/-- SET_PARAM of the stale limit (R137): every zone is brought to it. -/
theorem staleLimitRule (s : State) (v : Int) :
    ParamRule (.setParamStaleLimit v) s true (1 ≤ v ∧ v ≤ 5) (s.withStaleLimit v.toNat).relimitAll :=
  paramRule_of_setParam (write := fun s => (s.withStaleLimit v.toNat).relimitAll) rfl rfl rfl (inRange_iff 1 5 v)

/-- What a new stale limit does to the zones and to ZONE_ALARM (R137). -/
theorem State.relimitAll_withStaleLimit (s : State) {n : Nat} (hn : 1 ≤ n) :
    let t := (s.withStaleLimit n).relimitAll
    (∀ (i : Nat) (z : Zone), s.zones[i]? = some z → t.zones[i]? = some { z with
      stale := min z.stale n
      state := if z.stale = 0 then z.state else if z.stale < n then .stale else .invalid }) ∧
    ((∃ (i : Nat) (z : Zone), s.zones[i]? = some z ∧ z.state ≠ .invalid ∧ n ≤ z.stale) →
      t.flags = { s.flags with zoneAlarm := true }) ∧
    ((∀ (i : Nat) (z : Zone), s.zones[i]? = some z → z.state ≠ .invalid → z.stale < n) → t.flags = s.flags) := by
  intro t
  have henters := State.any_zoneEnters_iff (s := s.withStaleLimit n) hn
  have hflags : t.flags = _ := State.flags_relimitAll (s.withStaleLimit n)
  refine ⟨fun i z hz => ?_, fun hsome => ?_, fun hnone => ?_⟩
  · have hz' : (s.withStaleLimit n).zones[i]? = some z := hz
    rw [← relimit_of_pos hn]
    exact State.zones_relimitAll_of_some hz'
  · rw [hflags, henters.2 hsome, Bool.or_true]
    rfl
  · have hquiet : ([0, 1, 2, 3, 4, 5].any (s.withStaleLimit n).zoneEnters) = false := by
      refine Bool.eq_false_iff.2 (mt henters.1 ?_)
      rintro ⟨i, z, hz, hstate, hstale⟩
      exact Nat.not_lt.2 hstale (hnone i z hz hstate)
    rw [hflags, hquiet, Bool.or_false]
    rfl

/-- The state with a new abort level that no channel has been asked about. -/
def State.withAbortLevel (n : Nat) (s : State) : State := s.writeParams fun p => { p with abortLevel := n }

/-- SET_PARAM of the abort level (R127): both channels are asked their hold question. -/
theorem abortLevelRule (s : State) (v : Int) :
    ParamRule (.setParamAbortLevel v) s false (0 ≤ v ∧ v ≤ 7)
      (((s.withAbortLevel v.toNat).askAbort .zero).askAbort .one) :=
  paramRule_of_setParam (write := fun s => ((s.withAbortLevel v.toNat).askAbort .zero).askAbort .one) rfl rfl rfl
    (inRange_iff 0 7 v)

theorem State.mustAbort_withAbortLevel (s : State) (n : Nat) (l : LaneNo) :
    (s.withAbortLevel n).mustAbort l = true ↔ (s.bch.get l).state = .coating ∧
      ∃ h e, (s.bch.get l).served = some h ∧ s.governing h = some e ∧
        (e.reason.fixed = true ∨ s.params.level e.reason ≤ n) := by
  have hgov : ∀ h, (s.withAbortLevel n).governing h = s.governing h := fun h => s.governing_writeParams rfl h
  rw [State.mustAbort_iff]
  simp only [hgov]
  rfl

/-- Settles O35: the baud rate with the receiver's restart, the stale limit with the six zones, and the abort level
with the two channels. -/
theorem actingParameters : Obligations.ActingParameters := by
  intro s v
  refine ⟨?_, fun hp => ?_, fun hp => ?_⟩
  · have h := baudRateRule s v
    rw [dropFrame_eq] at h
    exact h
  · obtain ⟨hmode, hrest⟩ := staleLimitRule s v hp
    refine ⟨fun hm => hmode ⟨rfl, hm⟩, fun hm => (hrest (by simp [hm])).2, fun hm h1 h5 => ?_⟩
    have hpos : 1 ≤ v.toNat := by omega
    exact ⟨_, (hrest (by simp [hm])).1 ⟨h1, h5⟩, State.eq_of_zoneRest (State.relimitAll_zoneRest _),
      s.relimitAll_withStaleLimit hpos⟩
  · obtain ⟨-, hrest⟩ := abortLevelRule s v hp
    obtain ⟨haccept, hrange⟩ := hrest (by simp)
    refine ⟨hrange, fun h0 h7 => ⟨_, haccept ⟨h0, h7⟩, ?_, fun l => ?_⟩⟩
    · rw [State.askAbort_frame _ .one, State.askAbort_frame _ .zero]
      rfl
    · have habort := s.mustAbort_withAbortLevel v.toNat l
      rw [State.bch_askAbort_both]
      exact ⟨fun h => if_pos (habort.2 h), fun h => if_neg (mt habort.1 h)⟩

end Sys2Proof.Machine
end

section
/-! SUPPORT. Mask reports (R81, R91 to R95). -/

namespace Sys2Proof.Machine

/-! ### The evaluation (R92 to R94) -/

/-- The defect list keeps the map's order and leaves out the zones counted PRESENT (R92). -/
theorem defectList_eq (map : List MaskZone) (pairs : List (Nat × ZoneStatus)) :
    defectList map pairs = map.filterMap fun z =>
      if countedStatus pairs z.zone = .present then none else some (z.zone, countedStatus pairs z.zone) := by
  simp only [defectList, ← List.filterMap_eq_filter, List.filterMap_map]
  refine List.filterMap_congr fun z _ => ?_
  by_cases h : countedStatus pairs z.zone = .present <;> simp [Option.guard, h]

theorem criticalDefect_iff (map : List MaskZone) (ds : List (Nat × ZoneStatus)) :
    criticalDefect map ds = true ↔ ∃ z ∈ map, z.critical = true ∧ ∃ d ∈ ds, d.1 = z.zone := by
  simp only [criticalDefect, List.any_eq_true, Bool.and_eq_true, beq_iff_eq]
  exact ⟨fun ⟨d, hd, z, hz, hzone, hcrit⟩ => ⟨z, hz, hcrit, d, hd, hzone.symm⟩,
    fun ⟨z, hz, hcrit, d, hd, hzone⟩ => ⟨d, hd, z, hz, hzone.symm, hcrit⟩⟩

section
variable {map : List MaskZone} {tol : Nat} {mask : HoldMask} {pairs : List (Nat × ZoneStatus)}

theorem evaluateReport_critical (hc : criticalDefect map (defectList map pairs) = true) :
    evaluateReport map tol mask pairs = (⟨.failed, defectList map pairs, []⟩, some .maskCritical) := by
  simp only [evaluateReport, if_pos hc]

variable (hc : ¬criticalDefect map (defectList map pairs) = true)
include hc

theorem evaluateReport_clean (h0 : (defectList map pairs).length = 0) :
    evaluateReport map tol mask pairs = (⟨.pass, defectList map pairs, []⟩, none) := by
  simp only [evaluateReport, if_neg hc, if_pos h0]

theorem evaluateReport_tolerated (h1 : 1 ≤ (defectList map pairs).length)
    (ht : (defectList map pairs).length ≤ tol) :
    evaluateReport map tol mask pairs =
      (⟨.passGuarded, defectList map pairs, (defectList map pairs).map Prod.fst⟩, none) := by
  simp only [evaluateReport, if_neg hc, if_neg (Nat.ne_of_gt h1), if_pos ht]

/-- More minor defects than the tolerance raise MASK_EXCESS; its mask bit decides between guards and FAILED (R94). -/
theorem evaluateReport_excess (h1 : 1 ≤ (defectList map pairs).length)
    (ht : tol < (defectList map pairs).length) :
    evaluateReport map tol mask pairs =
      (if mask.maskExcess = true then
          ⟨.passGuarded, defectList map pairs, (defectList map pairs).map Prod.fst⟩
        else ⟨.failed, defectList map pairs, []⟩,
        some .maskExcess) := by
  simp only [evaluateReport, if_neg hc, if_neg (Nat.ne_of_gt h1), if_neg (Nat.not_le.2 ht)]
  split <;> rfl

end

/-! ### The report (R81, R91, R95) -/

theorem exec_maskReport {s : State} {l : LaneNo} {tag : BitVec 4} {pairs : List (Nat × ZoneStatus)}
    (hr : s.inReset = false) (ho : s.slr.asm.state = .offering (.maskReport l tag pairs)) :
    exec .maskReport s = .next (s.resumeAssembler.acceptReport l tag pairs) := by
  have hrun : exec .maskReport s = .next s.takeReport := whenRunning_run _ hr
  rw [hrun]
  simp only [State.takeReport, ho]

/-- What an evaluation's outcome does to a live record (R95). -/
theorem State.applyReport_of_live {s : State} {h : Nat} {p : Panel} {pairs : List (Nat × ZoneStatus)}
    {m : MaskResult} {r : Option HoldReason} (hp : s.panel h = some p)
    (he : evaluateReport (s.maskMapOf p) (s.minorTolOf p) (s.holdMaskOf p) pairs = (m, r)) :
    s.applyReport h pairs =
      (((s.modPanel h fun p => { p with mask := some m }).raiseOpt r h).leaveInspecting p.lane h).modPanel h
        fun p => { p with inspectTag := none, stage := .verified } := by
  simp only [State.applyReport, hp, he]

/-- Settles O43: a report for no record of the lane's list, and the five outcomes of the evaluation. -/
theorem maskReportRule : Obligations.MaskReportRule := by
  intro s l tag pairs hr ho k
  have hx : exec .maskReport s = .next (k.acceptReport l tag pairs) := exec_maskReport hr ho
  refine ⟨fun hnone => ?_, fun h p hmatch hp hl => ?_⟩
  · have hstray : k.inspectingWithTag l tag = none := hnone
    simp only [hx, State.acceptReport, hstray]
  · have hmatch : k.inspectingWithTag l tag = some h := hmatch
    have hresult : ∀ m r,
        evaluateReport (s.maskMapOf p) (s.minorTolOf p) (s.holdMaskOf p) pairs = (m, r) →
        exec .maskReport s = .next
          ((((k.modPanel h fun p => { p with mask := some m }).raiseOpt r h).leaveInspecting l h).modPanel h
            fun p => { p with inspectTag := none, stage := .verified }) := by
      intro m r he
      have happly := State.applyReport_of_live (s := k) hp he
      rw [hx, State.acceptReport, hmatch, ← hl]
      exact congrArg _ happly
    simp only [← defectList_eq, ← criticalDefect_iff]
    refine ⟨fun hc => ?_, fun hc h0 => ?_, fun hc h1 ht => ?_, fun hc h1 ht he => ?_, fun hc h1 ht he => ?_⟩
    · exact hresult _ _ (evaluateReport_critical hc)
    · exact hresult _ _ (evaluateReport_clean hc h0)
    · exact hresult _ _ (evaluateReport_tolerated hc h1 ht)
    · exact hresult _ _ ((evaluateReport_excess hc h1 ht).trans (by rw [he]; rfl))
    · exact hresult _ _ ((evaluateReport_excess hc h1 ht).trans (by rw [if_pos he]))

end Sys2Proof.Machine
end

section
/-! SUPPORT. The messages of the station link and the frames that carry them (R78 to R80). -/

namespace Sys2Proof.Machine

/-! ### Codes -/

theorem toNat_be8 {n : Nat} (h : n < 256) : (be8 n).toNat = n := by
  simp [be8, Nat.mod_eq_of_lt h]

theorem be8_toNat (b : Byte) : be8 b.toNat = b := BitVec.ofNat_toNat 8 b

theorem eq_be8_iff {b : Byte} {n : Nat} (h : n < 256) : b = be8 n ↔ b.toNat = n := by
  rw [← BitVec.toNat_inj, toNat_be8 h]

theorem laneOfNat_eq_some_iff (n : Nat) (l : LaneNo) : laneOfNat n = some l ↔ n = laneNum l := by
  match n with
  | 0 => cases l <;> decide
  | 1 => cases l <;> decide
  | n + 2 => cases l <;> simp [laneOfNat, laneNum]

theorem laneNum_lt (l : LaneNo) : laneNum l < 256 := by cases l <;> decide

/-- A byte names a lane exactly when it is the lane's number. -/
theorem laneOfNat_toNat_iff (b : Byte) (l : LaneNo) : laneOfNat b.toNat = some l ↔ b = be8 (laneNum l) := by
  rw [laneOfNat_eq_some_iff, eq_be8_iff (laneNum_lt l)]

theorem zoneStatusOf_eq_some_iff (b : Byte) (z : ZoneStatus) :
    zoneStatusOf b.toNat = some z ↔ b = zoneStatusCode z := by
  have hbyte : b = be8 b.toNat := (be8_toNat b).symm
  match hn : b.toNat with
  | 0 => rw [hbyte, hn]; cases z <;> decide
  | 1 => rw [hbyte, hn]; cases z <;> decide
  | 2 => rw [hbyte, hn]; cases z <;> decide
  | n + 3 =>
    refine ⟨fun h => by simp [zoneStatusOf] at h, fun h => ?_⟩
    rw [h] at hn
    cases z <;> simp [zoneStatusCode] at hn

/-! ### The pairs of a mask report (R80) -/

/-- The bytes of a report's pairs (R80). -/
def pairBytes (ps : List (Nat × ZoneStatus)) : List Byte := ps.flatMap fun q => [be8 q.1, zoneStatusCode q.2]

theorem pairBytes_cons (q : Nat × ZoneStatus) (ps : List (Nat × ZoneStatus)) :
    pairBytes (q :: ps) = be8 q.1 :: zoneStatusCode q.2 :: pairBytes ps := rfl

theorem length_pairBytes (ps : List (Nat × ZoneStatus)) : (pairBytes ps).length = 2 * ps.length := by
  induction ps with
  | nil => rfl
  | cons q ps ih => simp only [pairBytes_cons, List.length_cons, ih]; omega

theorem goodPair_eq_some_iff (z st : Byte) (q : Nat × ZoneStatus) :
    goodPair (z.toNat, st.toNat) = some q ↔ q.1 ≤ 23 ∧ z = be8 q.1 ∧ st = zoneStatusCode q.2 := by
  obtain ⟨k, w⟩ := q
  simp only [goodPair]
  constructor
  · intro h
    split at h
    · next hz =>
      obtain ⟨w', hw, heq⟩ := Option.map_eq_some_iff.1 h
      obtain ⟨rfl, rfl⟩ := Prod.mk.inj heq
      exact ⟨hz, (be8_toNat z).symm, (zoneStatusOf_eq_some_iff ..).1 hw⟩
    · cases h
  · rintro ⟨hk, hz, hst⟩
    have hz := (eq_be8_iff (by omega)).1 hz
    rw [if_pos (by omega), (zoneStatusOf_eq_some_iff ..).2 hst, hz, Option.map_some]

/-- Bytes of even length are read as pairs exactly when they are the pairs' bytes, with every zone in 0..23 (R80). -/
theorem mapM_goodPair_eq_some_iff {n : Nat} {bytes : List Byte} (hlen : bytes.length = 2 * n)
    (ps : List (Nat × ZoneStatus)) :
    (pairsOf bytes).mapM goodPair = some ps ↔ bytes = pairBytes ps ∧ ∀ q ∈ ps, q.1 ≤ 23 := by
  induction n generalizing bytes ps with
  | zero =>
    obtain rfl := List.eq_nil_of_length_eq_zero hlen
    cases ps <;> simp [pairsOf, pairBytes]
  | succ n ih =>
    obtain ⟨z, st, rest, rfl⟩ : ∃ z st rest, bytes = z :: st :: rest := by
      match bytes, hlen with
      | z :: st :: rest, _ => exact ⟨z, st, rest, rfl⟩
    have hrest : rest.length = 2 * n := by simp only [List.length_cons] at hlen; omega
    simp only [pairsOf, List.mapM_cons, Option.bind_eq_bind, Option.bind_eq_some_iff, goodPair_eq_some_iff,
      ih hrest, Option.pure_def, Option.some.injEq]
    cases ps with
    | nil => simp [pairBytes]
    | cons q qs =>
      simp only [pairBytes_cons, List.cons.injEq, List.forall_mem_cons]
      constructor
      · rintro ⟨_, ⟨hq, hz, hst⟩, _, ⟨hbytes, hqs⟩, rfl, rfl⟩
        exact ⟨⟨hz, hst, hbytes⟩, hq, hqs⟩
      · rintro ⟨⟨hz, hst, hbytes⟩, hq, hqs⟩
        exact ⟨q, ⟨hq, hz, hst⟩, qs, ⟨hbytes, hqs⟩, rfl, rfl⟩

/-! ### Messages -/

/-- The bytes of a message from TYPE to the end of its payload (R79, R80). -/
def StationMessage.bytes : StationMessage → List Byte
  | .idRead l id => 0x10 :: be8 (laneNum l) :: be8 id.length :: id
  | .maskReport l tag pairs => 0x20 :: be8 (laneNum l) :: be8 tag.toNat :: be8 pairs.length :: pairBytes pairs

/-- What R79 and R80 ask of a message. -/
def StationMessage.wellFormed : StationMessage → Prop
  | .idRead _ id => idOk id = true
  | .maskReport _ _ pairs => pairs.length ≤ 24 ∧ ∀ q ∈ pairs, q.1 ≤ 23

/-- LEN of an ID_READ (R79). -/
theorem StationMessage.length_bytes_idRead (l : LaneNo) (id : PanelId) :
    (StationMessage.idRead l id).bytes.length = 3 + id.length := by
  simp only [StationMessage.bytes, List.length_cons]; omega

/-- LEN of a MASK_REPORT (R80). -/
theorem StationMessage.length_bytes_maskReport (l : LaneNo) (tag : BitVec 4) (pairs : List (Nat × ZoneStatus)) :
    (StationMessage.maskReport l tag pairs).bytes.length = 4 + 2 * pairs.length := by
  simp only [StationMessage.bytes, List.length_cons, length_pairBytes]; omega

/-- LEN of a well-formed message lies in 3..62 (R78). -/
theorem StationMessage.length_bytes_bounds {m : StationMessage} (h : m.wellFormed) :
    3 ≤ m.bytes.length ∧ m.bytes.length ≤ 62 := by
  cases m with
  | idRead l id =>
    obtain ⟨h1, h16, -⟩ := (idOk_iff id).1 h
    rw [StationMessage.length_bytes_idRead]
    omega
  | maskReport l tag pairs =>
    obtain ⟨h24, -⟩ := h
    rw [StationMessage.length_bytes_maskReport]
    omega

theorem idOk_iff_chars (id : PanelId) :
    idOk id = true ↔ 1 ≤ id.length ∧ id.length ≤ 16 ∧ idCharsOk id = true := by
  simp [idOk, and_assoc]

theorem checkIdRead_cons {len : Nat} {lane n : Byte} {id : List Byte} (hlen : id.length + 3 = len)
    (m : StationMessage) :
    checkIdRead len (lane :: n :: id) = some m ↔
      n = be8 id.length ∧ idOk id = true ∧ ∃ l, lane = be8 (laneNum l) ∧ m = .idRead l id := by
  have hguard : (decide (1 ≤ n.toNat) && decide (n.toNat ≤ 16) && len == 3 + n.toNat && idCharsOk id) = true ↔
      n = be8 id.length ∧ idOk id = true := by
    simp only [Bool.and_eq_true, decide_eq_true_eq, beq_iff_eq, idOk_iff_chars, and_assoc]
    constructor
    · rintro ⟨h1, h16, hn, hchars⟩
      exact ⟨(eq_be8_iff (by omega)).2 (by omega), by omega, by omega, hchars⟩
    · rintro ⟨hn, h1, h16, hchars⟩
      have hn := (eq_be8_iff (by omega)).1 hn
      exact ⟨by omega, by omega, by omega, hchars⟩
  simp only [checkIdRead, hguard, Option.ite_none_right_eq_some, Option.map_eq_some_iff, laneOfNat_toNat_iff,
    and_assoc, eq_comm (b := m)]

/-- Checks 4 and 5 of ID_READ pass exactly on its message's payload (R79). -/
theorem checkIdRead_eq_some_iff {len : Nat} {payload : List Byte} (hlen : payload.length + 1 = len)
    (m : StationMessage) :
    checkIdRead len payload = some m ↔ 0x10 :: payload = m.bytes ∧ m.wellFormed := by
  match payload, hlen with
  | [], _ => cases m <;> simp [checkIdRead, StationMessage.bytes]
  | [_], _ => cases m <;> simp [checkIdRead, StationMessage.bytes]
  | lane :: n :: id, hlen =>
    rw [checkIdRead_cons hlen]
    constructor
    · rintro ⟨hn, hok, l, hl, rfl⟩
      exact ⟨by rw [hn, hl, StationMessage.bytes], hok⟩
    · rintro ⟨hbytes, hok⟩
      cases m with
      | idRead l i =>
        simp only [StationMessage.bytes, List.cons.injEq] at hbytes
        obtain ⟨-, hl, hn, rfl⟩ := hbytes
        exact ⟨hn, hok, l, hl, rfl⟩
      | maskReport => simp [StationMessage.bytes] at hbytes

theorem checkMaskReport_cons {len : Nat} {lane tag n : Byte} {rest : List Byte} (hlen : rest.length + 4 = len)
    (m : StationMessage) :
    checkMaskReport len (lane :: tag :: n :: rest) = some m ↔
      ∃ l ps, lane = be8 (laneNum l) ∧ tag.toNat ≤ 15 ∧ n = be8 ps.length ∧ rest = pairBytes ps ∧ ps.length ≤ 24 ∧
        (∀ q ∈ ps, q.1 ≤ 23) ∧ m = .maskReport l (BitVec.ofNat 4 tag.toNat) ps := by
  have hguard : (decide (n.toNat ≤ 24) && len == 4 + 2 * n.toNat && decide (tag.toNat ≤ 15)) = true ↔
      n.toNat ≤ 24 ∧ rest.length = 2 * n.toNat ∧ tag.toNat ≤ 15 := by
    simp only [Bool.and_eq_true, decide_eq_true_eq, beq_iff_eq, and_assoc]
    omega
  simp only [checkMaskReport, hguard]
  constructor
  · intro h
    split at h
    · next hok =>
      obtain ⟨h24, hrest, htag⟩ := hok
      split at h
      · next l ps hl hps =>
        obtain ⟨rfl, h23⟩ := (mapM_goodPair_eq_some_iff hrest ps).1 hps
        have hn : ps.length = n.toNat := by rw [length_pairBytes] at hrest; omega
        exact ⟨l, ps, (laneOfNat_toNat_iff ..).1 hl, htag, (eq_be8_iff (by omega)).2 hn.symm, rfl, by omega, h23,
          (Option.some.inj h).symm⟩
      · cases h
    · cases h
  · rintro ⟨l, ps, hl, htag, hn, rfl, h24, h23, rfl⟩
    have hn := (eq_be8_iff (by omega)).1 hn
    have hrest : (pairBytes ps).length = 2 * n.toNat := by rw [length_pairBytes, hn]
    rw [if_pos ⟨by omega, hrest, htag⟩, (laneOfNat_toNat_iff ..).2 hl,
      (mapM_goodPair_eq_some_iff hrest ps).2 ⟨rfl, h23⟩]

/-- Checks 4 and 5 of MASK_REPORT pass exactly on its message's payload (R80). -/
theorem checkMaskReport_eq_some_iff {len : Nat} {payload : List Byte} (hlen : payload.length + 1 = len)
    (m : StationMessage) :
    checkMaskReport len payload = some m ↔ 0x20 :: payload = m.bytes ∧ m.wellFormed := by
  match payload, hlen with
  | [], _ => cases m <;> simp [checkMaskReport, StationMessage.bytes]
  | [_], _ => cases m <;> simp [checkMaskReport, StationMessage.bytes]
  | [_, _], _ => cases m <;> simp [checkMaskReport, StationMessage.bytes]
  | lane :: tag :: n :: rest, hlen =>
    rw [checkMaskReport_cons hlen]
    constructor
    · rintro ⟨l, ps, hl, htag, hn, hrest, h24, h23, rfl⟩
      have htag : (BitVec.ofNat 4 tag.toNat).toNat = tag.toNat := Nat.mod_eq_of_lt (by omega)
      exact ⟨by rw [hn, hl, hrest, StationMessage.bytes, htag, be8_toNat], h24, h23⟩
    · rintro ⟨hbytes, hok⟩
      cases m with
      | idRead => simp [StationMessage.bytes] at hbytes
      | maskReport l t ps =>
        simp only [StationMessage.bytes, List.cons.injEq] at hbytes
        obtain ⟨-, hl, htag, hn, hrest⟩ := hbytes
        have ht := t.isLt
        have htag := (eq_be8_iff (by omega)).1 htag
        exact ⟨l, ps, hl, by omega, hn, hrest, hok.1, hok.2, by rw [htag, BitVec.ofNat_toNat, BitVec.setWidth_eq]⟩

/-- The checks of a complete frame pass exactly on an unmarked frame with a right checksum that carries a message of
R79 or R80 (R78). -/
theorem checkFrame_eq_some_iff {a : Assembler} (hlen : a.bytes.length = a.len) (m : StationMessage) :
    checkFrame a = some m ↔ a.corrupt = false ∧ a.sum = 0 ∧ a.bytes = m.bytes ∧ m.wellFormed := by
  by_cases hmark : a.corrupt = false ∧ a.sum = 0
  · obtain ⟨hc, hs⟩ := hmark
    simp only [checkFrame, hc, hs, bne_self_eq_false, Bool.or_self, Bool.false_eq_true, if_false, true_and]
    cases hb : a.bytes with
    | nil => cases m <;> simp [StationMessage.bytes]
    | cons ty payload =>
      have hlen : payload.length + 1 = a.len := by rw [← hlen, hb, List.length_cons]
      simp only
      split
      · next h => rw [h]; exact checkIdRead_eq_some_iff hlen m
      split
      · next h => rw [h]; exact checkMaskReport_eq_some_iff hlen m
      · next h10 h20 =>
        refine ⟨fun h => (by cases h), fun ⟨hbytes, _⟩ => ?_⟩
        cases m with
        | idRead => exact absurd (List.cons.inj hbytes).1 h10
        | maskReport => exact absurd (List.cons.inj hbytes).1 h20
  · have hbad : (a.corrupt || a.sum != 0) = true := by
      by_contra hn
      simp only [Bool.or_eq_true, bne_iff_ne, not_or, Bool.not_eq_true, not_not] at hn
      exact hmark hn
    rw [checkFrame, if_pos hbad]
    refine ⟨fun h => (by cases h), fun ⟨hc, hs, _⟩ => absurd ⟨hc, hs⟩ hmark⟩

end Sys2Proof.Machine
end

section
/-! SUPPORT. The frame assembler (R73, R76 to R78, R81). -/

namespace Sys2Proof.Machine

/-! ### One byte (R76) -/

/-- 0xA5 without the error mark starts a frame; any other byte is discarded (R76). -/
theorem huntByte_eq (e : FifoEntry) :
    huntByte e =
      if e.byte = 0xA5 ∧ e.error = false then { state := .length, len := 0, bytes := [], sum := 0, corrupt := false }
      else Assembler.reset := by
  simp [huntByte, Assembler.reset]

section
variable {mode : LineMode} {e : FifoEntry} {a : Assembler}

theorem takeByte_hunting (h : a.state = .hunting) : takeByte mode e a = (huntByte e, e.loss) := by
  simp only [takeByte, h]

/-- A gap inside a frame abandons it and hunts with the byte (R77). -/
theorem takeByte_gap (h : a.state.midFrame = true) (hg : e.gap = true) : takeByte mode e a = (huntByte e, true) := by
  rcases (AsmState.midFrame_iff _).1 h with h | h | h <;> simp only [takeByte, h, if_pos hg]

variable (hg : e.gap = false)
include hg

theorem takeByte_length (h : a.state = .length) :
    takeByte mode e a = lengthByte e { a with corrupt := a.corrupt || e.loss } := by
  simp [takeByte, h, hg]

theorem takeByte_body (h : a.state = .body) :
    takeByte mode e a =
      ({ a with
          state := if a.bytes.length + 1 = a.len then .checksum else .body
          bytes := a.bytes ++ [e.byte]
          sum := a.sum + e.byte
          corrupt := a.corrupt || e.loss || e.error }, false) := by
  simp [takeByte, h, hg, bodyByte]

theorem takeByte_checksum (h : a.state = .checksum) :
    takeByte mode e a = checksumByte mode e { a with corrupt := a.corrupt || e.loss } := by
  simp [takeByte, h, hg]

/-- A completed frame that fails a check is dropped with LINK_ERROR (R78). -/
theorem takeByte_badFrame (h : a.state = .checksum)
    (hbad : checkFrame { a with sum := a.sum + e.byte, corrupt := a.corrupt || e.loss || e.error } = none) :
    takeByte mode e a = (Assembler.reset, true) := by
  simp only [takeByte_checksum hg h, checksumByte, hbad]

/-- A completed frame that passes its checks is offered in RUN and discarded in CONFIG (R81). -/
theorem takeByte_goodFrame (h : a.state = .checksum) {m : StationMessage}
    (hgood : checkFrame { a with sum := a.sum + e.byte, corrupt := a.corrupt || e.loss || e.error } = some m) :
    takeByte mode e a =
      (if mode = .run then { Assembler.reset with state := .offering m } else Assembler.reset, false) := by
  simp only [takeByte_checksum hg h, checksumByte, hgood]
  cases mode <;> rfl

end

theorem checkFrame_of_marked {a : Assembler} (h : a.corrupt = true ∨ a.sum ≠ 0) : checkFrame a = none := by
  have hbad : (a.corrupt || a.sum != 0) = true := by simpa using h
  rw [checkFrame, if_pos hbad]

/-! ### The byte at the head of the FIFO (R76, R77) -/

/-- The assembler has taken the head byte, and no quiet line has been looked at yet. -/
def State.byteTaken (e : FifoEntry) (rest : List FifoEntry) (s : State) : State :=
  { s with
    slr := { s.slr with fifo := rest, asm := (takeByte s.mode e s.slr.asm).1 }
    flags := { s.flags with linkError := s.flags.linkError || (takeByte s.mode e s.slr.asm).2 } }

section
variable {s : State} {e : FifoEntry} {rest : List FifoEntry}

theorem State.assemble_of_takes (hf : s.slr.fifo = e :: rest) (ht : s.slr.asm.state.takes = true) :
    s.assemble = (s.byteTaken e rest).abandonIfQuiet := by
  simp only [State.assemble, hf, if_pos ht, State.byteTaken]
  cases (takeByte s.mode e s.slr.asm).2
  · simp only [Bool.or_false]; rfl
  · simp only [Bool.or_true]; rfl

theorem State.assemble_of_offering {m : StationMessage} (ho : s.slr.asm.state = .offering m) : s.assemble = s := by
  unfold State.assemble
  split
  · rfl
  · simp [ho, AsmState.takes]

theorem exec_assemblerByteTake (hr : s.inReset = false) (hf : s.slr.fifo = e :: rest)
    (ht : s.slr.asm.state.takes = true) :
    exec .assemblerByteTake s = .next (s.byteTaken e rest).abandonIfQuiet := by
  have hrun : exec .assemblerByteTake s = .next s.assemble := whenRunning_run _ hr
  rw [hrun, State.assemble_of_takes hf ht]

theorem exec_assemblerByteTake_active (hr : s.inReset = false) (hf : s.slr.fifo = e :: rest)
    (hq : s.slr.quiet = false) (ht : s.slr.asm.state.takes = true) :
    exec .assemblerByteTake s = .next (s.byteTaken e rest) := by
  have hkept : (s.byteTaken e rest).abandonIfQuiet = s.byteTaken e rest := State.abandonIfQuiet_of_busy (.inl hq)
  rw [exec_assemblerByteTake hr hf ht, hkept]

/-- A byte is taken on a QUIET line as on an ACTIVE one (R76). -/
theorem State.byteTaken_quiet (hq : s.slr.quiet = true) {u : State}
    (hu : u = { s with slr := { s.slr with quiet := false } }.byteTaken e rest) :
    s.byteTaken e rest = { u with slr := { u.slr with quiet := true } } := by
  simp [hu, State.byteTaken, hq]

end

theorem AsmState.takes_iff (st : AsmState) : st.takes = true ↔ ∀ m, st ≠ .offering m := by
  cases st <;> simp [AsmState.takes]

theorem AsmState.takes_of_midFrame {st : AsmState} (h : st.midFrame = true) : st.takes = true := by
  rcases (AsmState.midFrame_iff st).1 h with rfl | rfl | rfl <;> rfl

theorem byteTaken : Claims.ByteTaken := by
  intro s e rest hr hf hq
  have htaken : s.slr.asm.state.takes = true → ∀ a err, takeByte s.mode e s.slr.asm = (a, err) →
      exec .assemblerByteTake s = .next { s with
        slr := { s.slr with fifo := rest, asm := a }
        flags := { s.flags with linkError := s.flags.linkError || err } } := by
    intro ht a err h
    rw [exec_assemblerByteTake_active hr hf hq ht, State.byteTaken, h]
  simp only [← huntByte_eq]
  refine ⟨fun hst => ?_, fun hst hg => ?_, fun hst hg he => ?_, fun hst hg he hlen => ?_, fun hst hg he h3 h62 => ?_,
    fun hst hg => ?_, fun hst hg hbad => ?_⟩
  · exact htaken (by rw [hst]; rfl) _ _ (takeByte_hunting hst)
  · have hmid := (AsmState.midFrame_iff _).2 hst
    exact htaken (AsmState.takes_of_midFrame hmid) _ _ (takeByte_gap hmid hg)
  · exact htaken (by rw [hst]; rfl) _ _ (by rw [takeByte_length hg hst, lengthByte, if_pos he])
  · have hout : (decide (e.byte.toNat < 3) || decide (62 < e.byte.toNat)) = true := by simpa using hlen
    exact htaken (by rw [hst]; rfl) _ _ (by
      rw [takeByte_length hg hst, lengthByte, if_neg (by simp [he]), if_pos hout])
  · have hin : ¬(decide (e.byte.toNat < 3) || decide (62 < e.byte.toNat)) = true := by
      simp only [Bool.or_eq_true, decide_eq_true_eq]; omega
    exact htaken (by rw [hst]; rfl) _ _ (by
      rw [takeByte_length hg hst, lengthByte, if_neg (by simp [he]), if_neg hin])
  · exact htaken (by rw [hst]; rfl) _ _ (takeByte_body hg hst)
  · exact htaken (by rw [hst]; rfl) _ _ (takeByte_badFrame hg hst (checkFrame_of_marked hbad))

theorem byteTakenQuiet : Claims.ByteTakenQuiet := by
  intro s u e rest hr hf hq mid
  refine ⟨fun m ho => ?_, fun hu ho => ?_⟩
  · have hrun : exec .assemblerByteTake s = .next s.assemble := whenRunning_run _ hr
    rw [hrun, State.assemble_of_offering ho]
  · have ht := (AsmState.takes_iff _).2 ho
    have hactive := exec_assemblerByteTake_active (s := { s with slr := { s.slr with quiet := false } }) hr hf rfl ht
    have hu : u = _ := Host.Outcome.next.inj (hu.symm.trans hactive)
    have hfifo : u.slr.fifo = rest := by rw [hu]; rfl
    rw [exec_assemblerByteTake hr hf ht, State.byteTaken_quiet hq hu]
    refine ⟨fun hkeep => congrArg _ (State.abandonIfQuiet_of_busy (.inr (hkeep.imp (fun h => ?_) fun h => ?_))),
      fun hrest hmid => congrArg _ (State.abandonIfQuiet_of_idle rfl (hfifo.trans hrest) ?_)⟩
    · exact fun hnil => h (hfifo.symm.trans hnil)
    · exact Bool.eq_false_iff.2 (mt (AsmState.midFrame_iff _).1 h)
    · exact (AsmState.midFrame_iff _).2 hmid

/-! ### Whole frames (R78 to R81) -/

/-- An unmarked byte is fed to an assembler, with LINK_ERROR gathered beside it. -/
def feedByte (mode : LineMode) (x : Assembler × Bool) (b : Byte) : Assembler × Bool :=
  let y := takeByte mode { byte := b, error := false, loss := false, gap := false } x.1
  (y.1, x.2 || y.2)

/-- The last byte of the body brings the assembler to CHECKSUM with all its bytes and their sum (R76). -/
theorem foldl_feedByte_body (mode : LineMode) {bs : List Byte} (hne : bs ≠ []) {a : Assembler} (hst : a.state = .body)
    (hlen : a.bytes.length + bs.length = a.len) (err : Bool) :
    bs.foldl (feedByte mode) (a, err) =
      ({ a with state := .checksum, bytes := a.bytes ++ bs, sum := bs.foldl (· + ·) a.sum }, err) := by
  induction bs generalizing a with
  | nil => exact absurd rfl hne
  | cons b bs ih =>
    have hstep : feedByte mode (a, err) b =
        ({ a with
            state := if a.bytes.length + 1 = a.len then .checksum else .body
            bytes := a.bytes ++ [b]
            sum := a.sum + b }, err) := by
      simp [feedByte, takeByte_body (e := { byte := b, error := false, loss := false, gap := false }) rfl hst]
    rw [List.foldl_cons, hstep]
    cases bs with
    | nil => simp at hlen; simp [hlen]
    | cons c cs =>
      have hmore : ¬a.bytes.length + 1 = a.len := by simp only [List.length_cons] at hlen; omega
      rw [if_neg hmore, ih (by simp) rfl (by simp only [List.length_append, List.length_cons] at hlen ⊢; simp; omega)]
      simp

/-- The sum of a list of bytes modulo 256. -/
def byteSum (bs : List Byte) : Byte := bs.foldl (· + ·) 0

/-- The start byte and LEN bring a hunting assembler to BODY (R76). -/
theorem foldl_feedByte_start (mode : LineMode) {n : Nat} (h3 : 3 ≤ n) (h62 : n ≤ 62) :
    [0xA5, be8 n].foldl (feedByte mode) (Assembler.reset, false) =
      ({ state := .body, len := n, bytes := [], sum := be8 n, corrupt := false }, false) := by
  have hn : (be8 n).toNat = n := toNat_be8 (by omega)
  have h3 : ¬n < 3 := by omega
  have h62 : ¬62 < n := by omega
  simp [feedByte, takeByte, huntByte, lengthByte, Assembler.reset, hn, h3, h62]

/-- The bytes of a frame that carries a message, from the start byte to the checksum (R76, R78). -/
def StationMessage.frame (m : StationMessage) : List Byte :=
  0xA5 :: (be8 m.bytes.length :: m.bytes) ++ [-byteSum (be8 m.bytes.length :: m.bytes)]

/-- A good frame is offered in RUN and discarded in CONFIG, with no LINK_ERROR (R78, R81). -/
theorem foldl_feedByte_frame (mode : LineMode) {m : StationMessage} (hm : m.wellFormed) :
    m.frame.foldl (feedByte mode) (Assembler.reset, false) =
      (if mode = .run then { Assembler.reset with state := .offering m } else Assembler.reset, false) := by
  obtain ⟨h3, h62⟩ := StationMessage.length_bytes_bounds hm
  have hne : m.bytes ≠ [] := by intro h; simp [h] at h3
  have hsplit : m.frame =
      [0xA5, be8 m.bytes.length] ++ (m.bytes ++ [-byteSum (be8 m.bytes.length :: m.bytes)]) := rfl
  rw [hsplit, List.foldl_append, foldl_feedByte_start mode h3 h62, List.foldl_append,
    foldl_feedByte_body mode hne rfl (Nat.zero_add _)]
  have hgood := takeByte_goodFrame (mode := mode)
    (e := { byte := -byteSum (be8 m.bytes.length :: m.bytes), error := false, loss := false, gap := false })
    (a := { state := .checksum, len := m.bytes.length, bytes := m.bytes,
            sum := byteSum (be8 m.bytes.length :: m.bytes), corrupt := false })
    rfl rfl ((checkFrame_eq_some_iff rfl m).2 ⟨rfl, add_neg_cancel _, rfl, hm⟩)
  have hsum : m.bytes.foldl (· + ·) (be8 m.bytes.length) = byteSum (be8 m.bytes.length :: m.bytes) := by
    simp [byteSum]
  simp only [hsum, List.nil_append, List.foldl_cons, List.foldl_nil, feedByte, hgood, Bool.or_self]

theorem goodFramesOffered : Claims.GoodFramesOffered := by
  refine ⟨fun l id hok => ?_, fun l tag pairs h24 h23 => ?_⟩
  · have hframe := fun mode => foldl_feedByte_frame mode (m := .idRead l id) hok
    simp only [StationMessage.frame, StationMessage.length_bytes_idRead] at hframe
    exact ⟨hframe .run, hframe .config⟩
  · have hframe := foldl_feedByte_frame .run (m := .maskReport l tag pairs) ⟨h24, h23⟩
    simp only [StationMessage.frame, StationMessage.length_bytes_maskReport] at hframe
    exact hframe

theorem badFramesDropped : Claims.BadFramesDropped := by
  intro s e rest hr hf hq hst hlen hg hmark hsum hid hreport
  have hbad : checkFrame { s.slr.asm with
      sum := s.slr.asm.sum + e.byte, corrupt := s.slr.asm.corrupt || e.loss || e.error } = none := by
    rw [Option.eq_none_iff_forall_ne_some]
    intro m hm
    rw [checkFrame_eq_some_iff (by exact hlen)] at hm
    obtain ⟨-, -, hbytes, hwf⟩ := hm
    cases m with
    | idRead l id => exact hid l id hwf hbytes
    | maskReport l tag pairs => exact hreport l tag pairs hwf.1 hwf.2 hbytes
  rw [exec_assemblerByteTake_active hr hf hq (by rw [hst]; rfl), State.byteTaken, takeByte_badFrame hg hst hbad,
    Bool.or_true]

/-- Settles O54: bytes on an ACTIVE and on a QUIET line, good frames, and frames that carry no message. -/
theorem frameAssembly : Obligations.FrameAssembly :=
  ⟨byteTaken, byteTakenQuiet, goodFramesOffered, badFramesDropped⟩

end Sys2Proof.Machine
end

section
/-! SUPPORT. RESET_BOOTH and RESYNC_TAG (R97, R131). -/

namespace Sys2Proof.Machine

/-! ### RESET_BOOTH (R131) -/

/-- RESET_BOOTH of a channel in FAULT: the channel returns to IDLE and its gantry counts as parked (R131). -/
theorem serveResetBooth_fault {s : State} {lane : Nat} {l : LaneNo} (hl : laneOfNat lane = some l)
    (hf : (s.bch.get l).state = .fault) :
    serveResetBooth lane s = ((s.channelIdle l).modPgn l fun g => { g with pos := parkPoint }).answer [] := by
  simp [serveResetBooth, hl, hf]

/-- The return to IDLE drops the claim and the record of its own lane, and leaves the other lane (R116, R129). -/
theorem State.channelIdle_spec (s : State) (l : LaneNo) :
    s.channelIdle l = { s with ltk := (s.channelIdle l).ltk, bch := (s.channelIdle l).bch } ∧
    (s.channelIdle l).ltk.get l = { s.ltk.get l with boothClaim := false } ∧
    ((s.channelIdle l).bch.get l).state = .idle ∧ ((s.channelIdle l).bch.get l).served = none ∧
    (s.channelIdle l).ltk.get (otherLane l) = s.ltk.get (otherLane l) ∧
    (s.channelIdle l).bch.get (otherLane l) = s.bch.get (otherLane l) :=
  ⟨rfl, by simp [State.channelIdle]⟩

theorem resetBoothRule : Claims.ResetBoothRule := by
  intro s lane hp
  have hser : exec (.resetBooth lane) s = takeEffect (.resetBooth lane) (serveResetBooth lane) s := rfl
  refine ⟨fun hlane => ?range, fun l hl hst => ?badState, fun l hl hf => ?fault⟩
  case range => exact refuses_of_serve hser hp (by simp [serveResetBooth, (laneOfNat_eq_none_iff lane).2 hlane])
  case badState => exact refuses_of_serve hser hp (by simp [serveResetBooth, hl, hst])
  case fault =>
    obtain ⟨-, hclaim, hidle, hserved, hltk, hbch⟩ := s.channelIdle_spec l
    refine ⟨_, accepts_of_serve hser hp (serveResetBooth_fault hl hf), rfl, hclaim, hidle, hserved, ?_, hltk, hbch, ?_⟩
    · exact PerLane.get_set_self ..
    · exact PerLane.get_set_other ..

/-! ### RESYNC_TAG (R97) -/

theorem resyncTagRule : Claims.ResyncTagRule := by
  intro s lane hp
  have hser : exec (.resyncTag lane) s = takeEffect (.resyncTag lane) (serveResyncTag lane) s := rfl
  refine ⟨fun hlane => ?range, fun l hl hne => ?badState, fun l hl hempty => ?empty⟩
  case range => exact refuses_of_serve hser hp (by simp [serveResyncTag, (laneOfNat_eq_none_iff lane).2 hlane])
  case badState => exact refuses_of_serve hser hp (by simp [serveResyncTag, hl, hne])
  case empty => exact accepts_of_serve hser hp (by simp [serveResyncTag, hl, hempty])

/-- Settles O22: each request's refusals and its effect. -/
theorem resetBoothAndResync : Obligations.ResetBoothAndResync := ⟨resetBoothRule, resyncTagRule⟩

end Sys2Proof.Machine
end

section
/-! SUPPORT. WAIVE_MASK and WITHDRAW of a live record (R98, R171). -/

namespace Sys2Proof.Machine

/-! ### WAIVE_MASK (R98) -/

/-- No zone of a defect list is critical in the map (R98). -/
theorem criticalDefect_eq_false_iff (map : List MaskZone) (ds : List (Nat × ZoneStatus)) :
    criticalDefect map ds = false ↔ ∀ d ∈ ds, ∀ z ∈ map, z.zone = d.1 → z.critical = false := by
  rw [← Bool.not_eq_true, criticalDefect_iff]
  constructor
  · intro hno d hd z hz hzone
    exact eq_false_of_ne_true fun hcrit => hno ⟨z, hz, hcrit, d, hd, hzone.symm⟩
  · rintro hall ⟨z, hz, hcrit, d, hd, hzone⟩
    simp [hall d hd z hz hzone.symm] at hcrit

/-- The waived result: the guard set becomes every zone of the defect list (R98). -/
def waivedResult (m : MaskResult) : MaskResult := ⟨.waived, m.defects, m.defects.map Prod.fst⟩

/-- WAIVE_MASK of a live record with a mask result goes by its three checks (R98). -/
theorem serveWaiveMask_of_result {s : State} {h : Nat} {p : Panel} {m : MaskResult}
    (hh : s.panel h = some p) (hm : p.mask = some m) :
    serveWaiveMask h s =
      if p.stage = .parked ∧ m.verdict = .failed ∧ criticalDefect (s.maskMapOf p) m.defects = false then
        (s.modPanel h fun q => { q with mask := some (waivedResult m) }).answer []
      else s.refuse .badState := by
  simp [serveWaiveMask, hh, hm, waivedResult, and_assoc]

theorem waiveMaskRule : Claims.WaiveMaskRule := by
  intro s h p hp hh
  have hser : exec (.waiveMask h) s = takeEffect (.waiveMask h) (serveWaiveMask h) s := rfl
  simp only [← criticalDefect_eq_false_iff]
  refine ⟨fun hnone => ?noResult, fun m hm hno => ?notWaivable, fun m hm hok => ?waivable⟩
  case noResult => exact refuses_of_serve hser hp (by simp [serveWaiveMask, hh, hnone])
  case notWaivable => exact refuses_of_serve hser hp ((serveWaiveMask_of_result hh hm).trans (if_neg hno))
  case waivable =>
    obtain ⟨hslots, hothers⟩ := s.modPanel_frame h fun q => { q with mask := some (waivedResult m) }
    refine ⟨_, accepts_of_serve hser hp ((serveWaiveMask_of_result hh hm).trans (if_pos hok)), hslots, hothers, ?_⟩
    rw [State.panel_modPanel_self, hh]
    rfl

/-! ### WITHDRAW (R171) -/

/-- The record leaves its lane's re-entry list and is PARKED again (R171). -/
def State.withdrawn (h : Nat) (l : LaneNo) (s : State) : State :=
  (s.modLtk l fun t => { t with reentry := t.reentry.filter (· != h) }).modPanel h fun q =>
    { q with resume := none, stage := .parked }

/-- WITHDRAW of a live record goes by its stage (R171). -/
theorem serveWithdraw_of_live {s : State} {h : Nat} {p : Panel} (hh : s.panel h = some p) :
    serveWithdraw h s =
      if p.stage = .reentering then (s.withdrawn h p.lane).answer [] else s.refuse .badState := by
  simp only [serveWithdraw, hh, State.withdrawn]

/-- A withdrawal changes the lane's re-entry list and the record, and nothing else. -/
theorem State.withdrawn_spec {s : State} {h : Nat} {p : Panel} (l : LaneNo) (hh : s.panel h = some p) :
    s.withdrawn h l = { s with slots := (s.withdrawn h l).slots, ltk := (s.withdrawn h l).ltk } ∧
    s.othersKept (s.withdrawn h l) h ∧
    (s.withdrawn h l).ltk = (s.modLtk l fun t => { t with reentry := t.reentry.filter (· != h) }).ltk ∧
    (s.withdrawn h l).panel h = some { p with resume := none, stage := .parked } := by
  have hlive : (s.modLtk l fun t => { t with reentry := t.reentry.filter (· != h) }).panel h = some p := hh
  have heq : s.withdrawn h l = (s.modLtk l fun t => { t with reentry := t.reentry.filter (· != h) }).setSlot h
      (some { p with resume := none, stage := .parked }) := State.modPanel_of_live hlive _
  rw [heq]
  exact ⟨rfl, fun k hk => State.panel_setSlot_ne _ hk, rfl, State.panel_setSlot_self _ (State.panel_lt hh)⟩

theorem withdrawRule : Claims.WithdrawRule := by
  intro s h p hp hh
  have hser : exec (.withdraw h) s = takeEffect (.withdraw h) (serveWithdraw h) s := rfl
  refine ⟨fun hst => ?badState, fun hst => ?reentering⟩
  case badState => exact refuses_of_serve hser hp ((serveWithdraw_of_live hh).trans (if_neg hst))
  case reentering =>
    exact ⟨s.withdrawn h p.lane, accepts_of_serve hser hp ((serveWithdraw_of_live hh).trans (if_pos hst)),
      State.withdrawn_spec p.lane hh⟩

/-- Settles O33: each request's checks and its effect. -/
theorem waiveAndWithdraw : Obligations.WaiveAndWithdraw := ⟨waiveMaskRule, withdrawRule⟩

end Sys2Proof.Machine
end

section
/-! SUPPORT. The next order of a coat, and the lengths, durations and expected pulses of orders (R102 to R106, R110 to
R114). -/

namespace Sys2Proof.Machine

/-! ### Lengths, durations and pulses (R112 to R114) -/

/-- The bits from place `k` down complete the floor of the root, once it lies between `acc` and `acc + 2 ^ k`. -/
theorem sqrtBits_eq_sqrt {n : Nat} : ∀ {k acc : Nat}, acc * acc ≤ n → n < (acc + 2 ^ k) * (acc + 2 ^ k) →
    sqrtBits n k acc = Nat.sqrt n
  | 0, _, hlow, hhigh => Nat.eq_sqrt.2 ⟨hlow, hhigh⟩
  | k + 1, acc, hlow, hhigh => by
    rw [sqrtBits]
    split
    next hbit =>
      have htop : acc + 2 ^ k + 2 ^ k = acc + 2 ^ (k + 1) := by omega
      exact sqrtBits_eq_sqrt hbit (by rwa [htop])
    next hbit => exact sqrtBits_eq_sqrt hlow (Nat.lt_of_not_le hbit)

theorem floorSqrt_eq_sqrt (n : Nat) : floorSqrt n = Nat.sqrt n := by
  refine sqrtBits_eq_sqrt (Nat.zero_le n) ?_
  calc n < 2 ^ (n.log2 + 1) := Nat.lt_log2_self
    _ ≤ 2 ^ (n.log2 / 2 + 1 + (n.log2 / 2 + 1)) := Nat.pow_le_pow_right (by decide) (by omega)
    _ = (0 + 2 ^ (n.log2 / 2 + 1)) * (0 + 2 ^ (n.log2 / 2 + 1)) := by rw [Nat.zero_add, Nat.pow_add]

/-- `ceilSqrt n` is the least whole number whose square is at or above `n` (R112). -/
theorem ceilSqrt_le_iff (n m : Nat) : ceilSqrt n ≤ m ↔ n ≤ m * m := by
  rw [ceilSqrt, floorSqrt_eq_sqrt]
  split
  next hsquare =>
    calc n.sqrt ≤ m ↔ n.sqrt * n.sqrt ≤ m * m := Nat.mul_self_le_mul_self_iff.symm
      _ ↔ n ≤ m * m := by rw [hsquare]
  next hsquare =>
    have hne : n ≠ m * m := fun h => hsquare (by rw [h, Nat.sqrt_eq])
    calc n.sqrt + 1 ≤ m ↔ n < m * m := Nat.sqrt_lt
      _ ↔ n ≤ m * m := by omega

theorem traverseLength_le_iff (p q : Point) (n : Nat) :
    traverseLength p q ≤ n ↔ (p.x - q.x) * (p.x - q.x) + (p.y - q.y) * (p.y - q.y) ≤ (n : Int) * n := by
  rw [traverseLength, ceilSqrt_le_iff, ← Int.ofNat_le]
  simp only [Int.natCast_add, Int.natCast_mul, Int.natAbs_mul_self']

theorem nominalDuration_le_iff {len v : Nat} (n : Nat) (hv : 0 < v) :
    nominalDuration len v ≤ n ↔ len * 1000 ≤ n * v := by
  rw [nominalDuration, Nat.div_le_iff_le_mul_add_pred hv, Nat.mul_comm v n]
  omega

/-- Rounding to the nearest pulse, halves up (R114). -/
theorem expectedPulses_bounds (flowRate d : Nat) :
    expectedPulses flowRate d * 1000 ≤ flowRate * d + 500 ∧
    flowRate * d + 500 < (expectedPulses flowRate d + 1) * 1000 := by
  unfold expectedPulses
  omega

theorem lengthsAndDurations : Claims.LengthsAndDurations :=
  ⟨fun p q n => (traverseLength_le_iff p q n).symm, fun _ _ n hv => (nominalDuration_le_iff n hv).symm,
    expectedPulses_bounds⟩

/-! ### The candidate segment (R102 to R104) -/

theorem rowReversed_iff (b : Body) (r : Nat) : rowReversed b r = true ↔ b.serpentine = true ∧ r % 2 = 1 := by
  simp [rowReversed]

theorem rowNumber_eq (b : Body) (coat i : Nat) :
    rowNumber b coat i = if b.reversal = true ∧ coat = 1 then b.rows - 1 - i else i := by
  simp [rowNumber]

/-- The candidate segment of a DEFINED pool entry, run backwards on a reversed row (R103, R104). -/
def candidateOf (b : Body) (r e : Nat) (g : Segment) : Candidate :=
  { entry := e, row := r, seg := g
    start := if rowReversed b r then shiftedStop b r g else shiftedStart b r g
    stop := if rowReversed b r then shiftedStart b r g else shiftedStop b r g }

theorem candidate_of_entry {pool : Vector (Option Segment) 384} {b : Body} {coat i j : Nat} {g : Segment}
    (hg : pool[b.base + stepPlace b coat (rowNumber b coat i) j]? = some (some g)) :
    candidate pool b coat i j =
      some (candidateOf b (rowNumber b coat i) (b.base + stepPlace b coat (rowNumber b coat i) j) g) := by
  simp only [candidate, hg, Option.join_some, candidateOf]
  split <;> rfl

/-! ### Segment orders (R105, R106, R111) -/

/-- The candidate meets a guard rectangle with its valve OPEN, so that the segment runs closed (R111). -/
def Candidate.guarded (c : Candidate) (rects : List MaskZone) : Prop :=
  c.seg.valveOpen = true ∧ ∃ q ∈ rects, meetsRect c.start c.stop q = true

theorem segmentOrder_of_guarded {b : Body} {rects : List MaskZone} {c : Candidate} (step : Nat) (last : Bool)
    (h : c.guarded rects) :
    (segmentOrder b rects step last c).suppressed = true ∧ (segmentOrder b rects step last c).valveOpen = false ∧
    (segmentOrder b rects step last c).expected = 0 := by
  have hsupp : (c.seg.valveOpen && rects.any (meetsRect c.start c.stop)) = true := by
    rw [Bool.and_eq_true, List.any_eq_true]
    exact h
  simp [segmentOrder, hsupp]

theorem segmentOrder_of_not_guarded {b : Body} {rects : List MaskZone} {c : Candidate} (step : Nat) (last : Bool)
    (h : ¬c.guarded rects) :
    (segmentOrder b rects step last c).suppressed = false ∧
    (segmentOrder b rects step last c).valveOpen = c.seg.valveOpen ∧
    (segmentOrder b rects step last c).expected =
      if c.seg.valveOpen then expectedPulses b.flowRate (nominalDuration (segmentLength c.seg) c.seg.speed) else 0 := by
  have hsupp : (c.seg.valveOpen && rects.any (meetsRect c.start c.stop)) = false := by
    rw [← Bool.not_eq_true, Bool.and_eq_true, List.any_eq_true]
    exact h
  simp [segmentOrder, hsupp]

/-- The step order ends the row, and with the last row the coat (R105). -/
theorem advanceStep_row_eq_rows_iff {b : Body} {i : Nat} (j : Nat) (hi : i < b.rows) :
    (advanceStep b i j).1 = b.rows ↔ j + 1 = b.segs ∧ i + 1 = b.rows := by
  unfold advanceStep
  split
  next hj => simp [hj]
  next hj => simp [hj, Nat.ne_of_lt hi]

theorem advanceStep_eq (b : Body) (i j : Nat) :
    advanceStep b i j = (if j + 1 = b.segs then i + 1 else i, if j + 1 = b.segs then 0 else j + 1) := by
  unfold advanceStep
  split <;> rfl

/-! ### The next order (R105) -/

section
variable {speed : Nat} {b : Body} {rects : List MaskZone} {g : Generator} {c : Candidate}

theorem nextFrom_elsewhere (h : c.start ≠ g.pos) :
    nextFrom speed b rects g c = ({ g with pos := c.start }, traverseOrder speed g.pos c.start) := if_pos h

/-- At the candidate's start the segment is handed out and the indices move on (R105). -/
theorem nextFrom_at_start (h : c.start = g.pos) (hrow : g.row < b.rows) :
    nextFrom speed b rects g c =
      ({ g with
          state := if g.step + 1 = b.segs ∧ g.row + 1 = b.rows then .coatEnded else .generating
          row := if g.step + 1 = b.segs then g.row + 1 else g.row
          step := if g.step + 1 = b.segs then 0 else g.step + 1
          pos := c.stop },
        segmentOrder b rects g.step (decide (g.step + 1 = b.segs ∧ g.row + 1 = b.rows)) c) := by
  rw [nextFrom, if_neg (not_not_intro h)]
  simp only [advanceStep_row_eq_rows_iff g.step hrow]
  simp only [advanceStep_eq]

end

/-- A GENERATING generator hands out the order of its candidate (R105). -/
theorem State.nextOrder_of_candidate {s : State} {l : LaneNo} {h : Nat} {p : Panel} {b : Body} {c : Candidate}
    (hst : (s.pgn.get l).state = .generating) (hrec : (s.pgn.get l).record = some h) (hp : s.panel h = some p)
    (hb : s.bodyOf p = some b)
    (hc : candidate s.pool b (s.pgn.get l).coat (s.pgn.get l).row (s.pgn.get l).step = some c) :
    let n := nextFrom s.params.traverseSpeed b (s.guardRects p) (s.pgn.get l) c
    s.nextOrder l = (s.modPgn l fun _ => n.1, some n.2) := by
  simp [State.nextOrder, hst, hrec, hp, hb, hc]

theorem nextOrder : Claims.NextOrder := by
  intro s l h p b g hst hrec hp hb hrow n r back m place hg a z start stop guarded d
  have hr : rowNumber b n.coat n.row = r := rowNumber_eq b n.coat n.row
  have hback : rowReversed b r = true ↔ back := rowReversed_iff b r
  have hplace : stepPlace b n.coat r n.step = place := by simp only [stepPlace, hback, place, m]
  let c : Candidate := candidateOf b r (b.base + place) g
  have hc : candidate s.pool b n.coat n.row n.step = some c := by
    rw [candidate_of_entry (by rw [hr, hplace]; exact hg), hr, hplace]
  have hstart : c.start = start := by simp only [c, candidateOf, hback]; rfl
  have hstop : c.stop = stop := by simp only [c, candidateOf, hback]; rfl
  have hguarded : c.guarded (s.guardRects p) ↔ guarded := by rw [Candidate.guarded, hstart, hstop]; rfl
  have hnext := State.nextOrder_of_candidate hst hrec hp hb hc
  rw [← hstart, ← hstop]
  refine ⟨fun hpos => ?elsewhere, fun hpos => ?atStart⟩
  case elsewhere =>
    rw [nextFrom_elsewhere hpos] at hnext
    exact hnext
  case atStart =>
    rw [nextFrom_at_start hpos hrow] at hnext
    rw [hnext]
    refine ⟨_, rfl, rfl, rfl, rfl, rfl, rfl, fun hgd => ?closed, fun hgd => ?asDefined, decide_eq_true_iff, rfl⟩
    case closed => exact segmentOrder_of_guarded _ _ (hguarded.2 hgd)
    case asDefined => exact segmentOrder_of_not_guarded _ _ (mt hguarded.1 hgd)

/-- Settles O52: the order of the candidate that the indices name, and the arithmetic of its length and duration. -/
theorem pathOrders : Obligations.PathOrders := ⟨nextOrder, lengthsAndDurations⟩

end Sys2Proof.Machine
end

section
/-! SUPPORT. Orders and coats of the booth channels: MOVE_DONE and DURATION_EXPIRY, what follows a completed order, and
the start of a coat (R101, R105, R119 to R121, R124, R128, R129). -/

namespace Sys2Proof.Machine

/-! ### MOVE_DONE and DURATION_EXPIRY (R120, R121) -/

section
variable {s : State} {l : LaneNo} {o : MoveOrder}

/-- The first MOVE_DONE edge of the order in flight marks it, and completes it once its duration has expired (R121). -/
theorem State.moveDoneEdge_of_first (ho : (s.bch.get l).order = some o) (hf : (s.bch.get l).inFlight = true)
    (hd : (s.bch.get l).doneSeen = false) :
    s.moveDoneEdge l = if (s.bch.get l).durationExpired then
      (s.modBch l fun c => { c with doneSeen := true }).completeOrder l
    else s.modBch l fun c => { c with doneSeen := true } := by
  simp [State.moveDoneEdge, ho, hf, hd]

/-- An edge without an order in flight, or a second one, is ignored (R121). -/
theorem State.moveDoneEdge_of_ignored (h : (s.bch.get l).inFlight = false ∨ (s.bch.get l).doneSeen = true) :
    s.moveDoneEdge l = s := by
  rcases h with h | h <;> simp [State.moveDoneEdge, h]

/-- The duration's expiry marks the order in flight, and completes it once MOVE_DONE has been seen (R121). -/
theorem State.durationEnd_of_due (ho : (s.bch.get l).order = some o) (hf : (s.bch.get l).inFlight = true)
    (hx : (s.bch.get l).durationExpired = false)
    (hdue : tickAfter ((s.bch.get l).sendTick + BitVec.ofNat 32 o.duration) s.tick = false) :
    s.durationEnd l = if (s.bch.get l).doneSeen then
      (s.modBch l fun c => { c with durationExpired := true }).completeOrder l
    else s.modBch l fun c => { c with durationExpired := true } := by
  simp [State.durationEnd, ho, hf, hx, due, hdue]

end

theorem orderTiming : Claims.OrderTiming := by
  intro s l hr c k
  have hedge (hlow : s.inputLevel l .moveDone = some false) :
      exec (.moveDone l true) s = .next (k.moveDoneEdge l) := whenRunning_edge _ ⟨hr, hlow⟩
  refine ⟨fun o hlow ho hf hd hx => ?marked, fun o hlow ho hf hd hx => ?completed, fun hlow hno => ?ignored,
    fun o ho hf hx hdue => ?expiry⟩
  case marked =>
    rw [hedge hlow]
    exact congrArg _ ((State.moveDoneEdge_of_first (s := k) ho hf hd).trans (if_neg (Bool.eq_false_iff.1 hx)))
  case completed =>
    rw [hedge hlow]
    exact congrArg _ ((State.moveDoneEdge_of_first (s := k) ho hf hd).trans (if_pos hx))
  case ignored => rw [hedge hlow, State.moveDoneEdge_of_ignored (s := k) hno]
  case expiry =>
    have hrun : exec (.durationExpiry l) s = .next (s.durationEnd l) := whenRunning_run _ hr
    rw [hrun, State.durationEnd_of_due ho hf hx hdue]
    exact ⟨fun hd => by rw [if_neg (Bool.eq_false_iff.1 hd)], fun hd => by rw [if_pos hd]⟩

/-! ### The record of a raise, and the tail of its coat list -/

theorem modLast_concat {α : Type} (f : α → α) (older : List α) (e : α) :
    modLast f (older ++ [e]) = older ++ [f e] := by
  induction older with
  | nil => rfl
  | cons x xs ih =>
    cases xs with
    | nil => rfl
    | cons y ys => exact congrArg (x :: ·) ih

/-- A live record changed alike by two functions is the same change. -/
theorem State.modPanel_congr {s : State} {h : Nat} {p : Panel} {f g : Panel → Panel} (hp : s.panel h = some p)
    (hfg : f p = g p) : s.modPanel h f = s.modPanel h g := by
  rw [State.modPanel_of_live hp, State.modPanel_of_live hp, hfg]

/-- A record keeps its coat list at a raise. -/
theorem State.raiseQuiet_coats {s : State} {h : Nat} {p : Panel} (r : HoldReason) (hp : s.panel h = some p) :
    ∃ q, (s.raiseQuiet r h).panel h = some q ∧ q.coats = p.coats := by
  refine ⟨(p.raise s.params (s.holdMaskOf p) r).1, ?_, ?_⟩
  · rw [State.raiseQuiet_eq, State.panel_modPanel_self, hp]; rfl
  · rw [Panel.raise_frame]

/-! ### A completed order (R124, R128, R129) -/

theorem nozzleBlocked_iff (o : MoveOrder) (flow : Nat) :
    nozzleBlocked o flow = true ↔ o.isSegment = true ∧ o.valveOpen = true ∧ o.suppressed = false ∧
      20 ≤ o.expected ∧ flow < o.expected / 4 := by
  cases hk : o.kind <;> simp [nozzleBlocked, MoveOrder.isSegment, hk, and_assoc]

/-- The per-segment check of an order on its record; the channel is not told of its own raise (R124 step 1, log 15). -/
def State.segmentChecked (h : Nat) (o : MoveOrder) (flow : Nat) (s : State) : State :=
  if nozzleBlocked o flow then s.raiseQuiet .nozzleBlock h else s

/-- The accounts of a segment order go to the last entry of the coat list, those of a traverse nowhere (R124). -/
theorem State.accountOrder_eq {s : State} {h : Nat} {p : Panel} {older : List CoatEntry} {e : CoatEntry}
    (o : MoveOrder) (flow : Nat) (hp : s.panel h = some p) (hc : p.coats = older ++ [e]) :
    s.accountOrder h o flow = if o.isSegment then
      (s.segmentChecked h o flow).modPanel h fun q => { q with coats := older ++ [addOrder o flow e] }
    else s.segmentChecked h o flow := by
  obtain ⟨q, hq, hcoats⟩ : ∃ q, (s.segmentChecked h o flow).panel h = some q ∧ q.coats = p.coats := by
    unfold State.segmentChecked
    split
    · exact State.raiseQuiet_coats _ hp
    · exact ⟨p, hp, rfl⟩
  have hlast : modLast (addOrder o flow) q.coats = older ++ [addOrder o flow e] := by
    rw [hcoats, hc, modLast_concat]
  have hentry := State.modPanel_congr (f := fun q => { q with coats := modLast (addOrder o flow) q.coats })
    (g := fun q => { q with coats := older ++ [addOrder o flow e] }) hq (by rw [hlast])
  rw [← hentry]
  rfl

section
variable {s : State} {l : LaneNo} {o : MoveOrder} {h : Nat} (ho : (s.bch.get l).order = some o)
  (hs : (s.bch.get l).served = some h)
include ho hs

theorem State.completeOrder_of_coating (hst : (s.bch.get l).state = .coating) :
    s.completeOrder l = ((s.modBch l fun c => { c with order := none, inFlight := false }).accountOrder h o
      (s.bch.get l).flow).afterOrder l h o := by
  simp [State.completeOrder, ho, hs, hst]

theorem State.completeOrder_of_aborting (hst : (s.bch.get l).state = .aborting) :
    s.completeOrder l = ((s.modBch l fun c => { c with order := none, inFlight := false }).accountOrder h o
      (s.bch.get l).flow).enterPark l := by
  simp [State.completeOrder, ho, hs, hst]

theorem State.completeOrder_of_parking (hst : (s.bch.get l).state = .parking) :
    s.completeOrder l = (s.modBch l fun c => { c with order := none, inFlight := false }).parkDone l := by
  simp [State.completeOrder, ho, hs, hst]

end

section
variable {s : State} {l : LaneNo} {h : Nat} {o : MoveOrder}

theorem State.afterOrder_of_last (hl : o.last = true) : s.afterOrder l h o = s.endCoat l := if_pos hl

theorem State.afterOrder_of_abort (hl : o.last = false) (ha : s.abortHold h = true) :
    s.afterOrder l h o = s.enterPark l := by
  rw [State.afterOrder, if_neg (Bool.eq_false_iff.1 hl), if_pos ha]

theorem State.afterOrder_of_more (hl : o.last = false) (ha : s.abortHold h = false) :
    s.afterOrder l h o = s.askNext l := by
  rw [State.afterOrder, if_neg (Bool.eq_false_iff.1 hl), if_neg (Bool.eq_false_iff.1 ha)]

end

theorem orderCompletes : Claims.OrderCompletes := by
  intro s l o h p older e ho hs hp hc flow s' raised entry acc
  have hraised : s'.segmentChecked h o flow = raised := by
    simp only [State.segmentChecked, nozzleBlocked_iff, raised]
  have hacc : s'.accountOrder h o flow = acc := by
    rw [State.accountOrder_eq o flow (s := s') hp hc, hraised]; rfl
  rw [← hacc]
  refine ⟨fun hst hl => ?_, fun hst hl ha => ?_, fun hst hl ha => ?_, fun hst => ?_, fun hst => ?_⟩
  · rw [State.completeOrder_of_coating ho hs hst, State.afterOrder_of_last hl]
  · rw [State.completeOrder_of_coating ho hs hst, State.afterOrder_of_abort hl ha]
  · rw [State.completeOrder_of_coating ho hs hst, State.afterOrder_of_more hl ha]
  · exact State.completeOrder_of_aborting ho hs hst
  · exact State.completeOrder_of_parking ho hs hst

/-! ### The start of a coat (R101, R105, R119) -/

/-- A coat has begun and its first order is not yet asked for (R119). -/
def State.coatBegun (l : LaneNo) (h : Nat) (s : State) : State :=
  ((s.modPanel h fun p => { p with coats := p.coats ++ [newCoat] }).startGenerator l h (s.bch.get l).coat).modBch l
    fun c => { c with state := .coating, recoatExpiry := none }

theorem State.startCoat_of_served {s : State} {l : LaneNo} {h : Nat} (hs : (s.bch.get l).served = some h) :
    s.startCoat l = (s.coatBegun l h).askNext l := by
  simp [State.startCoat, State.served, hs, State.coatBegun]

theorem State.coatBegun_eq {s : State} {h : Nat} {p : Panel} (l : LaneNo) (hp : s.panel h = some p) :
    s.coatBegun l h =
      ((s.setSlot h (some { p with coats := p.coats ++ [newCoat] })).startGenerator l h (s.bch.get l).coat).modBch l
        fun c => { c with state := .coating, recoatExpiry := none } := by
  rw [State.coatBegun, State.modPanel_of_live hp]

theorem State.askNext_of_order {s : State} {l : LaneNo} {o : MoveOrder} (ho : (s.nextOrder l).2 = some o) :
    s.askNext l = (s.nextOrder l).1.offer l o := by
  simp [State.askNext, ho]

/-- A generator that is not GENERATING hands out no order and stays as it is (R105). -/
theorem State.nextOrder_of_not_generating {s : State} {l : LaneNo} (hst : (s.pgn.get l).state ≠ .generating) :
    s.nextOrder l = (s, none) := if_pos hst

theorem coatStarts : Claims.CoatStarts := by
  refine ⟨fun s l h p hs hp => ?starts, fun s l => ⟨fun o ho => State.askNext_of_order ho, fun hst => ?none⟩⟩
  case starts =>
    refine ⟨s.coatBegun l h, State.startCoat_of_served hs, ?_⟩
    rw [State.coatBegun_eq l hp]
    exact ⟨rfl, State.panel_setSlot_self _ (State.panel_lt hp), fun k hk => State.panel_setSlot_ne _ hk, rfl, rfl⟩
  case none =>
    have hnext := State.nextOrder_of_not_generating hst
    exact ⟨by rw [hnext], by simp only [State.askNext, hnext]⟩

/-- Settles O48: the two marks of an order, what its completion does, and the start of a coat. -/
theorem orderCompletion : Obligations.OrderCompletion := ⟨orderTiming, orderCompletes, coatStarts⟩

end Sys2Proof.Machine
end

section
/-! SUPPORT. The end of a coat, PARKING and the end of a pass (R108, R125, R126, R129). -/

namespace Sys2Proof.Machine

/-! ### The end of a coat (R125, R126) -/

theorem coatCheckFails_iff (tol : Nat) (e : CoatEntry) :
    coatCheckFails tol e = true ↔ 0 < e.expected ∧
      ((e.counted : Int) * 100 < e.expected * (100 - (tol : Int)) ∨
       (e.expected : Int) * (100 + (tol : Int)) < e.counted * 100) := by
  simp [coatCheckFails]

theorem State.later_zero (s : State) : s.later 0 = s.tick := BitVec.add_zero s.tick

/-- The coat under way is completed, counted as applied, and checked; the channel raises COAT_VOLUME without being told
of it again (R125, log 15). -/
def State.coatClosed (h tol : Nat) (older : List CoatEntry) (e : CoatEntry) (s : State) : State :=
  let s := s.modPanel h fun q =>
    { q with coats := older ++ [{ e with completed := true }], coatsApplied := q.coatsApplied + 1 }
  if coatCheckFails tol e then s.raiseQuiet .coatVolume h else s

theorem State.sameButSlots.trans {s t u : State} (h : s.sameButSlots t) (k : t.sameButSlots u) : s.sameButSlots u := by
  unfold State.sameButSlots at *
  rw [k, h]

/-- Closing a coat changes its record alone. -/
theorem State.coatClosed_frame (s : State) (h tol : Nat) (older : List CoatEntry) (e : CoatEntry) :
    s.sameButSlots (s.coatClosed h tol older e) := by
  unfold State.coatClosed
  split
  · rw [State.raiseQuiet_eq]
    exact (s.modPanel_frame h _).1.trans (State.modPanel_frame _ h _).1
  · exact (s.modPanel_frame h _).1

/-- The channel waits for the recoat interval, to start the coat after this one (R126). -/
def State.recoatWaiting (l : LaneNo) (e : Tick) (s : State) : State :=
  s.modBch l fun c => { c with state := .recoatWait, coat := c.coat + 1, recoatExpiry := some e }

section
variable {s : State} {l : LaneNo} {h : Nat} {p : Panel} {b : Body} {older : List CoatEntry} {e : CoatEntry}

/-- A coat that ends is closed; then comes the recoat wait while the recipe has coats left, or PARKING (R125, R126). -/
theorem State.endCoat_eq (hs : (s.bch.get l).served = some h) (hp : s.panel h = some p) (hb : s.bodyOf p = some b)
    (hc : p.coats = older ++ [e]) :
    let u := s.coatClosed h b.flowTol older e
    let w := u.recoatWaiting l (u.later (b.recoat * 1000))
    s.endCoat l = if older.countP CoatEntry.completed + 1 < b.coats then
      if b.recoat = 0 then w.nextCoat l else w
    else u.enterPark l := by
  have hlast : modLast (fun e => { e with completed := true }) p.coats = older ++ [{ e with completed := true }] := by
    rw [hc, modLast_concat]
  have hcheck : coatCheckFails b.flowTol { e with completed := true } = coatCheckFails b.flowTol e := rfl
  simp [State.endCoat, State.served, hs, hp, hb, hlast, hcheck, completedCoats, State.coatClosed,
    State.recoatWaiting, State.modPanel_of_live hp]

theorem State.nextCoat_of_ungoverned (hs : (s.bch.get l).served = some h) (hg : s.governing h = none) :
    s.nextCoat l = s.startCoat l := by
  simp [State.nextCoat, State.served, hs, hg]

theorem State.nextCoat_of_governed (hs : (s.bch.get l).served = some h) (hg : s.governing h ≠ none) :
    s.nextCoat l = s.enterPark l := by
  simp [State.nextCoat, State.served, hs, Option.isSome_iff_ne_none, hg]

end

theorem coatEnds : Claims.CoatEnds := by
  intro s l h p b older e hs hp hb hc fails ended u
  have hu : s.coatClosed h b.flowTol older e = u := by
    simp only [State.coatClosed, coatCheckFails_iff, u]; rfl
  have hframe : s.sameButSlots u := hu ▸ s.coatClosed_frame h b.flowTol older e
  have hlater (ms : Nat) : u.later ms = s.later ms := by rw [hframe]; rfl
  have hend := State.endCoat_eq hs hp hb hc
  simp only [hu, hlater] at hend
  refine ⟨fun hmore hwait => ?wait, fun hmore hnow => ?atOnce, fun hdone => ?parks⟩
  case wait => rw [hend, if_pos hmore, if_neg hwait]; rfl
  case atOnce =>
    have hnext : s.endCoat l = (u.recoatWaiting l s.tick).nextCoat l := by
      rw [hend, if_pos hmore, if_pos hnow, hnow, Nat.zero_mul, State.later_zero]
    have hserved : ((u.recoatWaiting l s.tick).bch.get l).served = some h := by
      rw [State.recoatWaiting, hframe]
      simpa using hs
    exact ⟨fun hg => hnext.trans (State.nextCoat_of_ungoverned hserved hg),
      fun hg => hnext.trans (State.nextCoat_of_governed hserved hg)⟩
  case parks => rw [hend, if_neg (Nat.not_lt.2 hdone)]

/-! ### Entry to PARKING (R108, R129) -/

/-- The channel is PARKING, and its generator counts as parked (R108). -/
def State.parking (l : LaneNo) (s : State) : State :=
  (s.modBch l fun c => { c with state := .parking, recoatExpiry := none }).modPgn l fun g =>
    { g with state := .idle, record := none, pos := parkPoint }

section
variable {s : State} {l : LaneNo}

theorem State.enterPark_of_parked (hpos : (s.pgn.get l).pos = parkPoint) :
    s.enterPark l = (s.parking l).parkDone l := by
  simp [State.enterPark, State.parkOrder, hpos, State.parking]

theorem State.enterPark_of_elsewhere (hpos : (s.pgn.get l).pos ≠ parkPoint) :
    s.enterPark l =
      (s.parking l).offer l (traverseOrder s.params.traverseSpeed (s.pgn.get l).pos parkPoint) := by
  simp [State.enterPark, State.parkOrder, hpos, State.parking]

end

theorem parkingRule : Claims.ParkingRule :=
  fun _ _ => ⟨State.enterPark_of_parked, State.enterPark_of_elsewhere⟩

/-! ### The end of a pass (R129) -/

/-- The served record becomes FLASHING exactly when every coat of its recipe is completed (R129). -/
theorem State.flashAfterPass_eq {s : State} {h : Nat} {p : Panel} {b : Body} (hp : s.panel h = some p)
    (hb : s.bodyOf p = some b) :
    s.flashAfterPass h = if p.coats.countP CoatEntry.completed = b.coats then
      s.setSlot h (some { p with stage := .flashing, flashEnd := some (s.later (b.flashMin * 1000)) })
    else s := by
  simp [State.flashAfterPass, hp, hb, State.passComplete, State.recipeCoats, completedCoats,
    State.modPanel_of_live hp]

theorem State.flashAfterPass_frame (s : State) (h : Nat) :
    s.sameButSlots (s.flashAfterPass h) ∧ s.othersKept (s.flashAfterPass h) h := by
  unfold State.flashAfterPass
  split
  · exact ⟨rfl, fun _ _ => rfl⟩
  split
  · exact ⟨rfl, fun _ _ => rfl⟩
  split
  · exact s.modPanel_frame h _
  · exact ⟨rfl, fun _ _ => rfl⟩

theorem State.parkDone_of_served {s : State} {l : LaneNo} {h : Nat} (hs : (s.bch.get l).served = some h) :
    s.parkDone l = (s.flashAfterPass h).channelIdle l := by
  simp [State.parkDone, State.served, hs]

theorem passEnds : Claims.PassEnds := by
  intro s l h p b hs hp hb u
  obtain ⟨hframe, hothers⟩ := s.flashAfterPass_frame h
  have hflash := State.flashAfterPass_eq hp hb
  have hu : u = (s.flashAfterPass h).channelIdle l := State.parkDone_of_served hs
  clear_value u
  subst hu
  generalize s.flashAfterPass h = v at *
  obtain ⟨-, -, hidle, hserved, -, hbch⟩ := v.channelIdle_spec l
  refine ⟨?_, hothers, ?_, hidle, hserved, ?_, ?_, fun hall => ?flashing, fun hnot => ?kept⟩
  · rw [hframe]; rfl
  · rw [hframe]; rfl
  · simp [State.channelIdle]
  · rw [hbch, hframe]
  case flashing =>
    rw [if_pos hall] at hflash
    rw [hflash]
    exact State.panel_setSlot_self _ (State.panel_lt hp)
  case kept =>
    rw [if_neg hnot] at hflash
    rw [hflash]
    exact hp

/-- Settles O49: the end of a coat, the entry to PARKING, and the end of a pass. -/
theorem coatAndPassEnd : Obligations.CoatAndPassEnd := ⟨coatEnds, parkingRule, passEnds⟩

end Sys2Proof.Machine
end

section
/-! SUPPORT. An arrival at BOOTH, FAULT, and the events of a serving channel (R117, R120, R122, R123, R126). -/

namespace Sys2Proof.Machine

/-! ### The arrival (R117) -/

/-- The channel serves the record in SETTLING, and the lane holds its BOOTH claim (R117). -/
def State.boothTaken (l : LaneNo) (h : Nat) (s : State) : State :=
  (s.modBch l fun c => { c with state := .settling, served := some h }).modLtk l fun t => { t with boothClaim := true }

theorem State.takeAtBooth_eq (s : State) (l : LaneNo) (h : Nat) :
    s.takeAtBooth l h = if s.inputLevel l .gantryErr = some true then (s.boothTaken l h).enterFault l
      else s.boothTaken l h := rfl

section
variable {s : State} {l : LaneNo} {h : Nat} {p : Panel} (hp : s.panel h = some p)
include hp

theorem State.arriveBooth_of_not_verified (hst : p.stage ≠ .verified) : s.arriveBooth l h = s := by
  simp [State.arriveBooth, hp, hst]

theorem State.arriveBooth_of_idle (hst : p.stage = .verified) (hc : (s.bch.get l).state = .idle) :
    s.arriveBooth l h = s.takeAtBooth l h := by
  simp [State.arriveBooth, hp, hst, hc]

theorem State.arriveBooth_of_fault (hst : p.stage = .verified) (hc : (s.bch.get l).state = .fault) :
    s.arriveBooth l h = s.raise .gantryFault h := by
  simp [State.arriveBooth, hp, hst, hc]

theorem State.arriveBooth_of_busy (hst : p.stage = .verified) (hi : (s.bch.get l).state ≠ .idle)
    (hf : (s.bch.get l).state ≠ .fault) : s.arriveBooth l h = s.raise .spacing h := by
  simp only [State.arriveBooth, hp, if_pos hst]

end

/-- Settles O47: by the record's stage, then by the channel's state, then by the level of GANTRY_ERR. -/
theorem boothArrivalRule : Obligations.BoothArrivalRule := by
  intro s l h p hp taken
  have harrive : s.arrive l (.booth, h) = s.arriveBooth l h := rfl
  have htake := s.takeAtBooth_eq l h
  rw [harrive]
  refine ⟨State.arriveBooth_of_not_verified hp, fun hst hi hlow => ?settling, fun hst hi herr => ?fault,
    State.arriveBooth_of_fault hp, State.arriveBooth_of_busy hp⟩
  case settling => rw [State.arriveBooth_of_idle hp hst hi, htake, if_neg hlow]; rfl
  case fault => rw [State.arriveBooth_of_idle hp hst hi, htake, if_pos herr]; rfl

/-! ### FAULT (R122) -/

section
variable {s : State} {l : LaneNo}

theorem State.enterFault_of_served {h : Nat} (hs : (s.bch.get l).served = some h) :
    s.enterFault l =
      ((s.modBch l fun c => { c with
          state := .fault, order := none, inFlight := false, flow := 0, recoatExpiry := none }).idleGenerator
        l).raise .gantryFault h := by
  simp [State.enterFault, State.served, State.idleGenerator, hs]

/-- The timeout of an order in flight without MOVE_DONE takes the channel to FAULT (R122). -/
theorem State.moveTimeoutEnd_of_due {o : MoveOrder} (ho : (s.bch.get l).order = some o)
    (hf : (s.bch.get l).inFlight = true) (hd : (s.bch.get l).doneSeen = false)
    (hdue : tickAfter ((s.bch.get l).sendTick + BitVec.ofNat 32 (2 * o.duration + 500)) s.tick = false) :
    s.moveTimeoutEnd l = s.enterFault l := by
  simp [State.moveTimeoutEnd, ho, hf, hd, due, hdue]

theorem ChannelState.gantryErrActs_iff (c : ChannelState) : c.gantryErrActs = true ↔ c ≠ .idle ∧ c ≠ .fault := by
  cases c <;> simp [ChannelState.gantryErrActs]

theorem State.gantryErrSample_of_acting (hi : (s.bch.get l).state ≠ .idle) (hf : (s.bch.get l).state ≠ .fault) :
    s.gantryErrSample l true = (s.keepLevel l .gantryErr true).enterFault l := by
  have hacts := (ChannelState.gantryErrActs_iff _).2 ⟨hi, hf⟩
  simp [State.gantryErrSample, hacts]

theorem State.gantryErrSample_of_resting (h : (s.bch.get l).state = .idle ∨ (s.bch.get l).state = .fault) :
    s.gantryErrSample l true = s.keepLevel l .gantryErr true := by
  rcases h with h | h <;> simp [State.gantryErrSample, h, ChannelState.gantryErrActs]

theorem State.gantryErrSample_negated : s.gantryErrSample l false = s.keepLevel l .gantryErr false := rfl

/-! ### Flow pulses and the recoat wait (R123, R126) -/

/-- A pulse is counted, up to saturation, exactly for an OPEN unsuppressed segment order in flight (R123). -/
theorem State.countPulse_of_order {o : MoveOrder} (ho : (s.bch.get l).order = some o) :
    s.countPulse l =
      if (s.bch.get l).inFlight = true ∧ o.isSegment = true ∧ o.valveOpen = true ∧ o.suppressed = false then
        s.modBch l fun c => { c with flow := satAdd c.flow 1 }
      else s := by
  simp [State.countPulse, ho, and_assoc]

theorem State.recoatEnd_of_due {e : Tick} (hst : (s.bch.get l).state = .recoatWait)
    (he : (s.bch.get l).recoatExpiry = some e) (hdue : tickAfter e s.tick = false) :
    s.recoatEnd l = (s.modBch l fun c => { c with recoatExpiry := none }).nextCoat l := by
  simp [State.recoatEnd, hst, State.expired_of_due he hdue]

end

/-- Settles O51: FAULT, and the four events one by one. -/
theorem channelEvents : Obligations.ChannelEvents := by
  refine ⟨fun s l h hs => State.enterFault_of_served hs, fun s l o hr ho hf hd hdue => ?timeout,
    fun s l hr => ?gantryErr, fun s l o hedge ho => ?flow, fun s l e h hr hst he hdue hs => ?recoat⟩
  case timeout =>
    have hrun : exec (.moveTimeout l) s = .next (s.moveTimeoutEnd l) := whenRunning_run _ hr
    rw [hrun, State.moveTimeoutEnd_of_due ho hf hd hdue]
  case gantryErr =>
    have hrun (v : Bool) : exec (.gantryErr l v) s = .next (s.gantryErrSample l v) := whenRunning_run _ hr
    rw [hrun, hrun]
    exact ⟨fun hi hf => congrArg _ (State.gantryErrSample_of_acting hi hf),
      fun hrest => congrArg _ (State.gantryErrSample_of_resting hrest), rfl⟩
  case flow =>
    intro k counted
    have hrun : exec (.flowPulse l true) s = .next (k.countPulse l) := whenRunning_edge _ hedge
    have hcount := State.countPulse_of_order (s := k) ho
    rw [hrun, hcount]
    exact ⟨fun hyes => congrArg _ (if_pos hyes), fun hno => congrArg _ (if_neg hno)⟩
  case recoat =>
    intro k
    have hrun : exec (.recoatExpiry l) s = .next (s.recoatEnd l) := whenRunning_run _ hr
    have hserved : (k.bch.get l).served = some h := by simpa [k] using hs
    rw [hrun, State.recoatEnd_of_due hst he hdue]
    exact ⟨fun hg => congrArg _ (State.nextCoat_of_ungoverned hserved hg),
      fun hg => congrArg _ (State.nextCoat_of_governed hserved hg)⟩

end Sys2Proof.Machine
end

section
/-! SUPPORT. The gantry port (R120, R194). -/

namespace Sys2Proof.Machine

theorem State.modBch_twice (s : State) (l : LaneNo) (f g : Channel → Channel) :
    (s.modBch l f).modBch l g = s.modBch l fun c => g (f c) := by
  simp [State.modBch]

theorem Channel.waiting_of_order {c : Channel} {o : MoveOrder} (ho : c.order = some o) (hf : c.inFlight = false) :
    c.waiting = true := by
  simp [Channel.waiting, ho, hf]

/-- A channel without an order, or with one in flight, has none waiting. -/
theorem Channel.not_waiting {c : Channel} (h : c.order = none ∨ c.inFlight = true) : c.waiting = false := by
  rcases h with h | h <;> simp [Channel.waiting, h]

section
variable {s : State} {l : LaneNo} {o : MoveOrder}

/-- The order in hand goes out: in flight with its marks cleared, its frame on the port (R120). -/
theorem State.send_of_order (ho : (s.bch.get l).order = some o) :
    s.send l =
      { s.modBch l fun c => { c with inFlight := true, doneSeen := false, durationExpired := false, flow := 0 } with
        port := some { lane := l, bytes := orderFrame o } } := by
  simp only [State.send, ho]

theorem State.offer_of_free (hport : s.port = none) :
    s.offer l o =
      { s.modBch l fun c => { c with
          order := some o, inFlight := true, sendTick := s.tick, doneSeen := false, durationExpired := false,
          flow := 0 } with
        port := some { lane := l, bytes := orderFrame o } } := by
  have hhand : s.offer l o =
      (s.modBch l fun c => { c with order := some o, inFlight := false, sendTick := s.tick }).send l := by
    simp [State.offer, hport]
  rw [hhand, State.send_of_order (o := o) (by simp), State.modBch_twice]

theorem State.offer_of_busy {f : GantryFrame} (hport : s.port = some f) :
    s.offer l o = s.modBch l fun c => { c with order := some o, inFlight := false, sendTick := s.tick } := by
  simp [State.offer, hport]

end

section
variable {s : State} {f : GantryFrame} (hport : s.port = some f)
include hport

theorem State.portEnd_of_none_waiting (hown : (s.bch.get f.lane).waiting = false)
    (hother : (s.bch.get (otherLane f.lane)).waiting = false) : s.portEnd = { s with port := none } := by
  simp [State.portEnd, hport, hown, hother]

/-- The other lane's waiting order goes out first; its send tick stays that of its offer (R120). -/
theorem State.portEnd_of_other_waiting (hother : (s.bch.get (otherLane f.lane)).waiting = true) :
    s.portEnd = State.send (otherLane f.lane) { s with port := none } := by
  simp [State.portEnd, hport, hother]

end

/-- Settles O50: an offer to the free and to the busy port, and the end of a transfer. -/
theorem gantryPortRule : Obligations.GantryPortRule := by
  refine ⟨fun s l o hport => State.offer_of_free hport, fun s l o f hport => State.offer_of_busy hport,
    fun s f hr hport => ?_⟩
  have hrun : exec .gantryTransferEnd s = .next s.portEnd := whenRunning_run _ hr
  rw [hrun]
  refine ⟨fun hown hother => ?free, fun o ho hwait => ?sent⟩
  case free =>
    rw [State.portEnd_of_none_waiting hport (Channel.not_waiting hown) (Channel.not_waiting hother)]
  case sent =>
    have hsend := State.send_of_order (s := { s with port := none }) ho
    rw [State.portEnd_of_other_waiting hport (Channel.waiting_of_order ho hwait), hsend]
    rfl

end Sys2Proof.Machine
end

section
/-! SUPPORT. Ranks, the governing hold and raises (R127, R157 to R160). -/

namespace Sys2Proof.Machine

/-! ### Ranks (R157) -/

theorem HoldReason.code_injective : Function.Injective HoldReason.code := by
  intro a b h
  have hback (r : HoldReason) : reasonOfCode r.code = some r := by cases r <;> rfl
  exact Option.some.inj ((hback a).symm.trans ((congrArg reasonOfCode h).trans (hback b)))

/-- The four tests of R157 as one lexicographic key, smaller for the higher rank: masked last, FIXED first, then the
level of a releasable reason, then the code. -/
def Rank.key (k : Rank) : Bool ×ₗ Bool ×ₗ ℕ ×ₗ ℕ :=
  toLex (k.masked, toLex (!k.fixed, toLex (if k.fixed then 0 else k.level, k.code)))

/-- The first test that separates two ranks decides, as in a lexicographic order (R157). -/
theorem Rank.outranks_iff (a b : Rank) : a.outranks b = true ↔ a.key < b.key := by
  obtain ⟨am, af, al, ac⟩ := a
  obtain ⟨bm, bf, bl, bc⟩ := b
  simp only [Rank.key, Prod.Lex.toLex_lt_toLex]
  unfold Rank.outranks
  split
  case isTrue hmask => cases am <;> cases bm <;> simp_all
  split
  case isTrue hfix => cases af <;> cases bf <;> simp_all
  split
  case isTrue hlevel => simp_all
  case isFalse hlevel => cases af <;> simp_all

theorem Rank.outranks_eq_false_iff (a b : Rank) : a.outranks b = false ↔ b.key ≤ a.key := by
  rw [← Bool.not_eq_true, Rank.outranks_iff, not_lt]

section
variable (prm : Params) (m : HoldMask)

/-- The code separates any two different reasons at the latest (R157). -/
theorem rankOf_key_injective : Function.Injective fun r => (rankOf prm m r).key := by
  intro a b h
  simp only [Rank.key, toLex_inj, Prod.mk.injEq] at h
  obtain ⟨-, -, -, hcode⟩ := h
  exact HoldReason.code_injective hcode

section
variable {prm : Params} {m : HoldMask} {a b : HoldReason}

theorem outranks_of_unmasked (ha : m.covers a = false) (hb : m.covers b = true) :
    (rankOf prm m a).outranks (rankOf prm m b) = true := by
  simp [Rank.outranks, rankOf, ha, hb]

/-- Only an unmasked reason outranks an unmasked one (R157). -/
theorem unmasked_of_outranks (h : (rankOf prm m a).outranks (rankOf prm m b) = true) (hb : m.covers b = false) :
    m.covers a = false := by
  by_contra ha
  simp [Rank.outranks, rankOf, hb, ha] at h

theorem outranks_of_fixed (hm : m.covers a = m.covers b) (ha : a.fixed = true) (hb : b.fixed = false) :
    (rankOf prm m a).outranks (rankOf prm m b) = true := by
  simp [Rank.outranks, rankOf, hm, ha, hb]

theorem outranks_of_level (hm : m.covers a = m.covers b) (ha : a.fixed = false) (hb : b.fixed = false)
    (hl : prm.level a < prm.level b) : (rankOf prm m a).outranks (rankOf prm m b) = true := by
  simp [Rank.outranks, rankOf, hm, ha, hb, hl, hl.ne]

end

/-! ### The governing hold (R158) -/

/-- The first entry ranks as high as the second, or higher. -/
def RanksAbove (x y : HoldEntry) : Prop := (entryRank prm m x).key ≤ (entryRank prm m y).key

theorem insertByRank_pairwise (e : HoldEntry) {xs : List HoldEntry} (h : xs.Pairwise (RanksAbove prm m)) :
    (insertByRank prm m e xs).Pairwise (RanksAbove prm m) := by
  induction xs with
  | nil => exact List.pairwise_singleton _ e
  | cons x xs ih =>
    obtain ⟨hx, hxs⟩ := List.pairwise_cons.1 h
    unfold insertByRank
    split
    case isTrue hout =>
      have hex : RanksAbove prm m e x := ((Rank.outranks_iff _ _).1 hout).le
      refine List.pairwise_cons.2 ⟨fun y hy => ?_, h⟩
      rcases List.mem_cons.1 hy with rfl | hy
      · exact hex
      · exact le_trans hex (hx y hy)
    case isFalse hout =>
      have hxe : RanksAbove prm m x e := (Rank.outranks_eq_false_iff _ _).1 (Bool.eq_false_iff.2 hout)
      refine List.pairwise_cons.2 ⟨fun y hy => ?_, ih hxs⟩
      rcases (mem_insertByRank prm m e y xs).1 hy with rfl | hy
      · exact hxe
      · exact hx y hy

theorem inRankOrder_pairwise (holds : List HoldEntry) :
    (inRankOrder prm m holds).Pairwise (RanksAbove prm m) := by
  induction holds with
  | nil => exact List.Pairwise.nil
  | cons e es ih => exact insertByRank_pairwise prm m e ih

/-- The governing hold is an unmasked entry that ranks above every unmasked entry (R158). -/
theorem governingOf_spec {holds : List HoldEntry} {g : HoldEntry} (hg : governingOf prm m holds = some g) :
    g ∈ holds ∧ m.covers g.reason = false ∧
      ∀ e ∈ holds, m.covers e.reason = false → RanksAbove prm m g e := by
  obtain ⟨hunmasked, before, after, hsplit, hbefore⟩ := List.find?_eq_some_iff_append.1 hg
  have hmem (e : HoldEntry) : e ∈ holds ↔ e ∈ before ∨ e = g ∨ e ∈ after := by
    rw [← mem_inRankOrder prm m, hsplit, List.mem_append, List.mem_cons]
  have hsorted := inRankOrder_pairwise prm m holds
  rw [hsplit, List.pairwise_append, List.pairwise_cons] at hsorted
  obtain ⟨-, ⟨hafter, -⟩, -⟩ := hsorted
  refine ⟨(hmem g).2 (.inr (.inl rfl)), by simpa using hunmasked, fun e he hu => ?_⟩
  rcases (hmem e).1 he with he | rfl | he
  · have hmasked := hbefore e he
    simp [hu] at hmasked
  · exact le_refl _
  · exact hafter e he

end

theorem rankAndGoverning : Claims.RankAndGoverning := by
  refine ⟨fun prm m a b c => ?rank, fun prm m holds => ⟨governingOf_eq_none_iff prm m holds, fun g hg => ?governs⟩⟩
  case rank =>
    intro up
    refine ⟨?irrefl, ?trans, fun hne => ?total, outranks_of_unmasked, outranks_of_fixed, outranks_of_level⟩
    all_goals simp only [up, Rank.outranks_iff]
    case irrefl => exact lt_irrefl _
    case trans => exact lt_trans
    case total => exact lt_or_gt_of_ne ((rankOf_key_injective prm m).ne hne)
  case governs =>
    obtain ⟨hmem, hunmasked, habove⟩ := governingOf_spec prm m hg
    refine ⟨hmem, hunmasked, fun e he hu hne => (Rank.outranks_iff _ _).2 ?_⟩
    exact lt_of_le_of_ne (habove e he hu) ((rankOf_key_injective prm m).ne hne.symm)

/-! ### A raise on a record (R159, R160) -/

/-- Some entry is unmasked exactly when a hold governs (R158). -/
theorem governingOf_ne_none_iff (prm : Params) (m : HoldMask) (holds : List HoldEntry) :
    governingOf prm m holds ≠ none ↔ ∃ e ∈ holds, m.covers e.reason = false := by
  simp [governingOf_eq_none_iff]

@[simp] theorem Panel.notify_holds (n : Notice) (p : Panel) : (p.notify n).holds = p.holds := rfl

section
variable {prm : Params} {m : HoldMask} {r : HoldReason} {p : Panel}

/-- A reason already on the list is counted once more (R159). -/
theorem Panel.raise_of_listed (h : ∃ e ∈ p.holds, e.reason = r) :
    (p.raise prm m r).1 = { p.notify .holdRaised with holds := p.holds.map (bumpEntry r) } := by
  simp [Panel.raise, h]

section
variable (hnew : ¬∃ e ∈ p.holds, e.reason = r)
include hnew

/-- A new reason is added while there is room (R159). -/
theorem Panel.raise_of_room (hroom : p.holds.length < 4) :
    (p.raise prm m r).1 = { p.notify .holdRaised with holds := p.holds ++ [newEntry r] } := by
  simp [Panel.raise, hnew, hroom]

/-- On a full list a new reason evicts the lowest-ranked PENDING entry that it outranks (R160). -/
theorem Panel.raise_of_evicting {low : HoldEntry} (hfull : 4 ≤ p.holds.length)
    (hlow : lowestPending prm m p.holds = some low)
    (hout : (rankOf prm m r).outranks (rankOf prm m low.reason) = true) :
    (p.raise prm m r).1 = { p.notify .holdRaised with
      holds := (p.holds.filter fun e => e.reason != low.reason) ++ [newEntry r], truncated := true } := by
  simp [Panel.raise, hnew, Nat.not_lt.2 hfull, hlow, entryRank, hout]

/-- On a full list a new reason that outranks no PENDING entry is dropped (R160). -/
theorem Panel.raise_of_dropped (hfull : 4 ≤ p.holds.length)
    (hbelow : ∀ low, lowestPending prm m p.holds = some low →
      (rankOf prm m r).outranks (rankOf prm m low.reason) = false) :
    (p.raise prm m r).1 = { p.notify .holdRaised with truncated := true } := by
  cases hlow : lowestPending prm m p.holds with
  | none => simp [Panel.raise, hnew, Nat.not_lt.2 hfull, hlow]
  | some low => simp [Panel.raise, hnew, Nat.not_lt.2 hfull, hlow, entryRank, hbelow low hlow]

/-- A full list that a new reason meets is marked truncated, whether the reason comes in or not (R160). -/
theorem Panel.truncated_of_full (hfull : 4 ≤ p.holds.length) : (p.raise prm m r).1.truncated = true := by
  by_cases hevict : ∃ low, lowestPending prm m p.holds = some low ∧
      (rankOf prm m r).outranks (rankOf prm m low.reason) = true
  · obtain ⟨low, hlow, hout⟩ := hevict
    rw [Panel.raise_of_evicting hnew hfull hlow hout]
  · rw [Panel.raise_of_dropped hnew hfull (by simpa using hevict)]

end

theorem governingOf_append {xs ys : List HoldEntry} (h : governingOf prm m xs ≠ none) :
    governingOf prm m (xs ++ ys) ≠ none := by
  rw [governingOf_ne_none_iff] at h ⊢
  obtain ⟨e, he, hu⟩ := h
  exact ⟨e, List.mem_append_left _ he, hu⟩

/-- An eviction leaves an unmasked entry: where the last one goes, the reason that outranks it is unmasked too. -/
theorem governingOf_evicting {low : HoldEntry} {holds : List HoldEntry} (h : governingOf prm m holds ≠ none)
    (hout : (rankOf prm m r).outranks (rankOf prm m low.reason) = true) :
    governingOf prm m ((holds.filter fun e => e.reason != low.reason) ++ [newEntry r]) ≠ none := by
  rw [governingOf_ne_none_iff] at h ⊢
  obtain ⟨e, he, hu⟩ := h
  by_cases hr : e.reason = low.reason
  · exact ⟨newEntry r, by simp, unmasked_of_outranks hout (hr ▸ hu)⟩
  · exact ⟨e, List.mem_append_left _ (List.mem_filter.2 ⟨he, by simpa using hr⟩), hu⟩

/-- A raise never leaves a record without the governing hold it had (R158 to R160). -/
theorem Panel.governing_raise (h : governingOf prm m p.holds ≠ none) :
    governingOf prm m (p.raise prm m r).1.holds ≠ none := by
  by_cases hnew : ∃ e ∈ p.holds, e.reason = r
  · rw [Panel.raise_of_listed hnew, governingOf_ne_none_iff]
    obtain ⟨e, he, hu⟩ := (governingOf_ne_none_iff ..).1 h
    exact ⟨bumpEntry r e, List.mem_map_of_mem he, by rw [bumpEntry_reason, hu]⟩
  by_cases hroom : p.holds.length < 4
  · rw [Panel.raise_of_room hnew hroom]
    exact governingOf_append h
  by_cases hevict : ∃ low, lowestPending prm m p.holds = some low ∧
      (rankOf prm m r).outranks (rankOf prm m low.reason) = true
  · obtain ⟨low, hlow, hout⟩ := hevict
    rw [Panel.raise_of_evicting hnew (Nat.not_lt.1 hroom) hlow hout]
    exact governingOf_evicting h hout
  · rw [Panel.raise_of_dropped hnew (Nat.not_lt.1 hroom) (by simpa using hevict)]
    exact h

end

theorem raiseRule : Claims.RaiseRule := by
  intro prm m r p q
  refine ⟨p.raise_frame prm m r, fun hlisted => ?listed, fun hnone hroom => ?room, fun hnone hfull => ?full,
    Panel.governing_raise⟩
  case listed =>
    have hq : q = _ := Panel.raise_of_listed hlisted
    exact hq ▸ ⟨rfl, rfl⟩
  all_goals have hnew : ¬∃ e ∈ p.holds, e.reason = r := fun ⟨e, he, hr⟩ => hnone e he hr
  case room =>
    have hq : q = _ := Panel.raise_of_room hnew hroom
    exact hq ▸ ⟨rfl, rfl⟩
  case full =>
    refine ⟨Panel.truncated_of_full hnew hfull, fun low hlow hout => ?_, fun hbelow => ?_⟩
    · have hq : q = _ := Panel.raise_of_evicting hnew hfull hlow hout
      exact hq ▸ rfl
    · have hq : q = _ := Panel.raise_of_dropped hnew hfull hbelow
      exact hq ▸ rfl

/-! ### A raise on a live record, passed to the serving channel (R127, R159) -/

/-- The channel that serves a live record is told of a raise on it, no other (R159). -/
theorem State.tellBooth_of_live {s : State} {h : Nat} {p : Panel} (hp : s.panel h = some p) :
    s.tellBooth h = if (s.bch.get p.lane).served = some h then s.askAbort p.lane else s := by
  simp only [State.tellBooth, hp]

theorem State.bch_raiseQuiet (s : State) (r : HoldReason) (h : Nat) : (s.raiseQuiet r h).bch = s.bch := by
  rw [State.raiseQuiet_eq, State.modPanel_bch]

/-- Telling the channel of a raise leaves every governing hold. -/
theorem State.governing_tellBooth (s : State) (h k : Nat) : (s.tellBooth h).governing k = s.governing k := by
  rcases s.tellBooth_cases h with e | ⟨l, e⟩ <;> rw [e]
  exact s.modBch_governing l _ k

section
variable {s : State} {h : Nat} {p : Panel} (r : HoldReason) (hp : s.panel h = some p)
include hp

/-- The record keeps its lane at a raise, so that its own lane's channel is the one that can be told. -/
theorem State.raise_of_live :
    s.raise r h = if (s.bch.get p.lane).served = some h then (s.raiseQuiet r h).askAbort p.lane
      else s.raiseQuiet r h := by
  have hq : (s.raiseQuiet r h).panel h = some (p.raise s.params (s.holdMaskOf p) r).1 := by
    rw [State.raiseQuiet_eq, State.panel_modPanel_self, hp]; rfl
  have hlane : (p.raise s.params (s.holdMaskOf p) r).1.lane = p.lane := by rw [Panel.raise_frame]
  rw [State.raise, State.tellBooth_of_live hq, hlane, State.bch_raiseQuiet]

theorem State.bch_raise_other : (s.raise r h).bch.get (otherLane p.lane) = s.bch.get (otherLane p.lane) := by
  rw [State.raise_of_live r hp]
  split
  · rw [State.bch_askAbort_other, State.bch_raiseQuiet]
  · rw [State.bch_raiseQuiet]

theorem State.bch_raise_self :
    (s.raise r h).bch.get p.lane =
      if (s.bch.get p.lane).served = some h ∧ (s.raiseQuiet r h).mustAbort p.lane = true then
        { s.bch.get p.lane with state := .aborting }
      else s.bch.get p.lane := by
  rw [State.raise_of_live r hp, ite_and]
  split
  · rw [State.bch_askAbort, State.bch_raiseQuiet]
  · rw [State.bch_raiseQuiet]

end

theorem raiseTold : Claims.RaiseTold := by
  intro s r h p hp u
  have hself := State.bch_raise_self r hp
  have hgoverning : u.governing h = (s.raiseQuiet r h).governing h := State.governing_tellBooth _ h h
  refine ⟨s.raise_frame r h, fun k hk => ?others, ?record, State.bch_raise_other r hp, ?_⟩
  case others => rw [State.panel_raise, if_neg hk]
  case record => rw [State.panel_raise, if_pos rfl, hp]; rfl
  intro aborts
  have hparams : (s.raiseQuiet r h).params = s.params := by rw [State.raiseQuiet_eq, State.modPanel_params]
  have haborts : (s.bch.get p.lane).served = some h ∧ (s.raiseQuiet r h).mustAbort p.lane = true ↔ aborts := by
    rw [State.mustAbort_iff, State.bch_raiseQuiet, hparams]
    refine and_congr_right fun hserved => and_congr_right fun _ => ?_
    simp [hserved, hgoverning]
  exact ⟨fun hyes => hself.trans (if_pos (haborts.2 hyes)), fun hno => hself.trans (if_neg (mt haborts.1 hno))⟩

/-- Settles O58: ranks and the governing hold, a raise on a record, and a raise passed to the serving channel. -/
theorem holdArbitration : Obligations.HoldArbitration := ⟨rankAndGoverning, raiseRule, raiseTold⟩

end Sys2Proof.Machine
end

section
/-! SUPPORT. A live record's dose never falls but at REENTER FROM_MASK or FROM_SPRAY (R148, R169): no edit of the cure
fields lowers a dose that lies in its range, and REENTER FROM_OVEN keeps the cure fields. -/

namespace Sys2Proof.Machine

/-! ### Edits of the cure fields -/

/-- A poll adds to a dose, up to the largest dose there is (R148). -/
theorem dose_le_cureUpdate {gain : Nat} {air : Int} {prof : CureProfile} {now : Tick} {c : Cure}
    (hc : c.dose ≤ 4294967295) : c.dose ≤ (cureUpdate gain air prof now c).dose := by
  simp only [cureUpdate]
  split
  · exact Nat.le_min.2 ⟨hc, Nat.le_add_right ..⟩
  · exact Nat.le_refl _

theorem CureEdit.exists_dose_le {s : State} {c : Cure} {b : Option Cure} (he : CureEdit s (some c) b)
    (hc : Machine.cureOk c) :
    ∃ d, b = some d ∧ c.dose ≤ d.dose := by
  cases he with
  | same => exact ⟨c, rfl, Nat.le_refl _⟩
  | transferred => exact ⟨_, rfl, Nat.le_refl c.dose⟩
  | updated _ gain i z prof =>
    obtain ⟨-, -, hdose, -⟩ := hc
    exact ⟨_, rfl, dose_le_cureUpdate hdose⟩
  | judged _ v => exact ⟨_, rfl, Nat.le_refl c.dose⟩

/-! ### A record with a dose -/

/-- The handle's record is live and its dose is at least `n`. -/
def State.dosed (s : State) (n h : Nat) : Prop := ∃ p a, s.panel h = some p ∧ p.cure = some a ∧ n ≤ a.dose

section
variable {s : State} {n h k : Nat} {p q : Panel}

theorem State.dosed_of_slots {t : State} (hs : s.dosed n k) (e : t.slots = s.slots) : t.dosed n k := by
  obtain ⟨p, a, hp, hrest⟩ := hs
  exact ⟨p, a, by rwa [State.panel_of_slots e], hrest⟩

/-- One slot changes, and its record's dose does not fall. -/
theorem State.dosed_setSlot (hs : s.dosed n k) (hp : s.panel h = some p)
    (hq : ∀ a, p.cure = some a → ∃ b, q.cure = some b ∧ a.dose ≤ b.dose) :
    (s.setSlot h (some q)).dosed n k := by
  obtain ⟨x, a, hx, ha, hn⟩ := hs
  by_cases hk : k = h
  · subst k
    obtain rfl : p = x := Option.some.inj (hp.symm.trans hx)
    obtain ⟨b, hb, hle⟩ := hq a ha
    exact ⟨q, b, State.panel_setSlot_self _ (State.panel_lt hp), hb, hn.trans hle⟩
  · exact ⟨x, a, by rw [State.panel_setSlot_ne _ hk]; exact hx, ha, hn⟩

/-- One slot changes, and its record keeps its cure fields. -/
theorem State.dosed_setSlot_same (hs : s.dosed n k) (hp : s.panel h = some p) (hq : q.cure = p.cure) :
    (s.setSlot h (some q)).dosed n k :=
  State.dosed_setSlot hs hp fun a ha => ⟨a, hq.trans ha, Nat.le_refl _⟩

theorem State.dosed_setSlot_ne {o : Option Panel} (hs : s.dosed n k) (hk : k ≠ h) : (s.setSlot h o).dosed n k := by
  obtain ⟨x, a, hx, hrest⟩ := hs
  exact ⟨x, a, by rw [State.panel_setSlot_ne _ hk]; exact hx, hrest⟩

end

theorem Quiet.dosed {s t : State} {n k : Nat} (h : Quiet s t) (hs : s.dosed n k) : t.dosed n k :=
  State.dosed_of_slots hs (congrArg RecordView.slots h.view)

/-! ### The kinds of step -/

/-- The store in order says that a created record takes a FREE slot; the oven in order, that no dose is past its
range. -/
theorem Evolves.dosed {s t : State} {n k : Nat} (h : Evolves s t) (hok : s.storeOk) (hoven : s.ovenOk)
    (hs : s.dosed n k) : t.dosed n k := by
  induction h with
  | quiet h => exact h.dosed hs
  | trans h1 _ ih1 ih2 => exact ih2 (h1.storeOk hok) (h1.ovenOk hoven) (ih1 hok hoven hs)
  | @panel s h p q hp he =>
    obtain ⟨-, -, -, hcures⟩ := hoven
    exact State.dosed_setSlot hs hp fun a ha => CureEdit.exists_dose_le (ha ▸ he.cure) (hcures h p a hp ha)
  | @create s h rest l hf =>
    obtain ⟨-, hnone⟩ := State.panel_of_freeList hok.1 (h := h) (by rw [hf]; exact List.mem_cons_self)
    have hne : k ≠ h := by
      rintro rfl
      obtain ⟨p, a, hp, -⟩ := hs
      rw [hnone] at hp
      cases hp
    exact State.dosed_setSlot_ne (s := { s with freeList := rest }) hs hne
  | @identify s h p id hp hn hf =>
    have hkept : (s.modPanel h fun p => { p with id := some id }).dosed n k := by
      rw [State.modPanel_of_live hp]
      exact State.dosed_setSlot_same hs hp rfl
    exact State.dosed_of_slots hkept rfl
  | @assign s h p r m hp =>
    have hkept := State.dosed_setSlot_same (q := { p with recipe := some r, mask := m }) hs hp rfl
    exact State.dosed_of_slots hkept (by rw [State.moveRefs_frame])
  | parts => exact State.dosed_of_slots hs rfl
  | zone => exact State.dosed_of_slots hs (by simp)
  | @relimit s n =>
    obtain ⟨hslots, -⟩ := State.fields_of_zoneRest
      (State.relimitAll_zoneRest (s.writeParams fun p => { p with staleLimit := n }))
    exact State.dosed_of_slots hs hslots
  | ambient => exact State.dosed_of_slots hs rfl

/-! ### RETIRE and REENTER -/

/-- RETIRE of a record leaves every other record its dose (R23). -/
theorem State.dosed_serveRetire {s : State} {n h k : Nat} (hs : s.dosed n k) (hk : k ≠ h) (d : Nat) :
    (serveRetire h d s).1.dosed n k := by
  rcases serveRetire_cases h d s with e | ⟨p, -, -, -, -, e⟩ <;> rw [e]
  · exact hs
  · exact State.dosed_of_slots (State.dosed_setSlot_ne hs hk) (by rw [State.retireRecord_frame]; rfl)

/-- A retired record is gone, so that a record that is live after RETIRE was not freed by it (R23). -/
theorem serveRetire_eq_of_kept {s : State} {h : Nat} {q : Panel} (d : Nat)
    (hq : (serveRetire h d s).1.panel h = some q) : (serveRetire h d s).1 = s := by
  rcases serveRetire_cases h d s with e | ⟨p, hp, -, -, -, e⟩
  · exact e
  · rw [e, State.panel_retireRecord_self hp] at hq
    cases hq

/-- REENTER writes no other slot than its record's, and that by the resume point of its code (R169). -/
theorem serveReenter_slots (h lane point : Nat) (s : State) :
    (serveReenter h lane point s).1 = s ∨ ∃ p l rp, s.panel h = some p ∧ resumeOfCode point = some rp ∧
      (serveReenter h lane point s).1.slots = (s.setSlot h (some (reentered l rp p))).slots := by
  cases hp : s.panel h with
  | none => exact .inl (by simp [serveReenter, hp])
  | some p =>
    cases hl : laneOfNat lane with
    | none => exact .inl (by simp [serveReenter, hp, hl])
    | some l =>
      cases hrp : resumeOfCode point with
      | none => exact .inl (by simp [serveReenter, hp, hl, hrp])
      | some rp =>
        have hserve : serveReenter h lane point s = s.reenterChecked h l rp p := by simp [serveReenter, hp, hl, hrp]
        rw [hserve]
        unfold State.reenterChecked
        split; · exact .inl rfl
        split; · exact .inl rfl
        split; · exact .inl rfl
        split; · exact .inl rfl
        split; · exact .inl rfl
        split; · exact .inl rfl
        split; · exact .inl rfl
        exact .inr ⟨p, l, rp, rfl, rfl, by rw [State.modPanel_of_live hp]; rfl⟩

/-- A code above FROM_SPRAY's names FROM_OVEN or nothing (R193). -/
theorem eq_fromOven_of_resumeOfCode {point : Nat} {rp : ResumePoint} (hrp : resumeOfCode point = some rp)
    (hpoint : 1 < point) : rp = .fromOven := by
  match point, hpoint with
  | 2, _ => exact (Option.some.inj hrp).symm
  | _ + 3, _ => cases hrp

/-- FROM_OVEN takes the verdict from the cure fields and nothing else (R169). -/
theorem reentered_fromOven_cure {l : LaneNo} {p : Panel} {a : Cure} (ha : p.cure = some a) :
    (reentered l .fromOven p).cure = some { a with verdict := none } := by
  simp [reentered, resetForResume, Panel.notify, ha]

/-- REENTER lowers a dose only of its own record, FROM_MASK or FROM_SPRAY (R169). -/
theorem State.dosed_serveReenter {s : State} {n k : Nat} (hs : s.dosed n k) (h lane point : Nat) :
    (serveReenter h lane point s).1.dosed n k ∨ (h = k ∧ point ≤ 1) := by
  rcases serveReenter_slots h lane point s with e | ⟨p, l, rp, hp, hrp, e⟩
  · exact .inl (by rw [e]; exact hs)
  by_cases hk : k = h
  · by_cases hpoint : point ≤ 1
    · exact .inr ⟨hk.symm, hpoint⟩
    · obtain rfl := eq_fromOven_of_resumeOfCode hrp (Nat.lt_of_not_le hpoint)
      refine .inl (State.dosed_of_slots (State.dosed_setSlot hs hp fun a ha => ?_) e)
      exact ⟨_, reentered_fromOven_cure ha, Nat.le_refl a.dose⟩
  · exact .inl (State.dosed_of_slots (State.dosed_setSlot_ne hs hk) e)

/-- Settles O14: by the kinds of step, with RETIRE and REENTER apart. -/
theorem doseNeverFalls : Obligations.DoseNeverFalls := by
  intro c s t h p q a hok hoven hx hp hq ha
  have hs : s.dosed a.dose h := ⟨p, a, hp, ha, Nat.le_refl _⟩
  have hkept : t.dosed a.dose h → ∃ b, q.cure = some b ∧ a.dose ≤ b.dose := by
    rintro ⟨q', b, hq', hb⟩
    obtain rfl : q = q' := Option.some.inj (hq.symm.trans hq')
    exact ⟨b, hb⟩
  rcases exec_cases hx with he | ⟨k, d, -, hquiet⟩ | ⟨k, lane, point, hcar, hquiet⟩ | ⟨-, rfl⟩
  · exact .inl (hkept (he.dosed hok hoven hs))
  · refine .inl (hkept (hquiet.dosed ?_))
    by_cases hk : h = k
    · subst k
      rw [State.panel_of_slots (congrArg RecordView.slots hquiet.view)] at hq
      exact (serveRetire_eq_of_kept d hq).symm ▸ hs
    · exact State.dosed_serveRetire hs hk d
  · rcases State.dosed_serveReenter hs k lane point with hdosed | ⟨rfl, hpoint⟩
    · exact .inl (hkept (hquiet.dosed hdosed))
    · exact .inr ⟨lane, point, hpoint, hcar⟩
  · have hnone : s.endReset.panel h = none := State.reset_panel h
    rw [hnone] at hq
    cases hq

end Sys2Proof.Machine
end

section
/-! SUPPORT. The oven's fixed-point steps: rounding (R146), the dose exponent and the increment at the reference
temperature (R147, R148). -/

namespace Sys2Proof.Machine

/-! ### The temperature step (R146) -/

/-- The quotient is rounded to nearest, and a half is taken away from zero (R146). -/
theorem roundQ16_nearest (x : Int) : |x - 65536 * roundQ16 x| ≤ 32768 ∧
    (|x - 65536 * roundQ16 x| = 32768 → |x| < 65536 * |roundQ16 x|) := by
  unfold roundQ16
  split
  case isTrue hx =>
    rw [abs_of_nonneg hx, abs_of_nonneg (show 0 ≤ (x + 32768) / 65536 by omega), abs_le]
    refine ⟨by omega, fun hhalf => ?_⟩
    rcases abs_cases (x - 65536 * ((x + 32768) / 65536)) with ⟨habs, -⟩ | ⟨habs, -⟩ <;> omega
  case isFalse hx =>
    rw [abs_of_neg (Int.not_le.1 hx), abs_neg, abs_of_nonneg (show 0 ≤ (-x + 32768) / 65536 by omega), abs_le]
    refine ⟨by omega, fun hhalf => ?_⟩
    rcases abs_cases (x - 65536 * -((-x + 32768) / 65536)) with ⟨habs, -⟩ | ⟨habs, -⟩ <;> omega

/-- The step goes towards the air temperature and not past it (R146). -/
theorem tempStep_between (air temp : Int) {g : Nat} (hg : g ≤ 65535) :
    min air temp ≤ tempStep air temp g ∧ tempStep air temp g ≤ max air temp := by
  obtain ⟨hheats, hcools⟩ := roundQ16_between (d := air - temp) hg
  unfold tempStep
  rcases Int.le_total temp air with h | h
  · have := hheats (by omega)
    omega
  · have := hcools (by omega)
    omega

/-! ### The dose exponent and the increment (R147, R148) -/

theorem clampInt_bounds {a b : Int} (h : a ≤ b) (v : Int) : a ≤ clampInt a b v ∧ clampInt a b v ≤ b := by
  unfold clampInt
  omega

/-- A value inside the bounds was not clamped. -/
theorem clampInt_eq_self {a b v : Int} (hlow : a < clampInt a b v) (hhigh : clampInt a b v < b) :
    clampInt a b v = v := by
  unfold clampInt at *
  omega

/-- The floor of a quotient by a positive divisor. -/
theorem fdiv_floor (x : Int) {d : Int} (hd : 0 < d) : Int.fdiv x d * d ≤ x ∧ x < (Int.fdiv x d + 1) * d := by
  rw [Int.fdiv_eq_ediv_of_nonneg x hd.le]
  exact ⟨Int.ediv_mul_le x hd.ne', Int.lt_ediv_add_one_mul_self x hd⟩

/-- At the reference temperature the exponent is 0 and the increment is the time itself (R147, R148). -/
theorem doseIncrement_at_reference (dt : Nat) (temp : Int) (doubling : Nat) :
    doseIncrement dt (doseExponent temp temp doubling) = dt := by
  have hzero : doseExponent temp temp doubling = 0 := by simp [doseExponent, clampInt]
  simp [hzero, doseIncrement, powTable]

/-- Settles O56: rounding, the temperature's bounds, the dose exponent, and the increment at the reference. -/
theorem ovenArithmetic : Obligations.OvenArithmetic := by
  refine ⟨roundQ16_nearest, fun air temp g hg => tempStep_between air temp hg, fun temp tRef doubling dt hd => ?_⟩
  obtain ⟨hlow, hhigh⟩ := clampInt_bounds (a := -128) (b := 128) (by decide)
    (Int.fdiv ((temp - tRef) * 16) (10 * (doubling : Int)))
  refine ⟨hlow, hhigh, fun hbelow habove => ?_, ?_⟩
  · have hfloor : doseExponent temp tRef doubling = _ := clampInt_eq_self habove hbelow
    rw [hfloor]
    exact fdiv_floor _ (by omega)
  · rintro rfl
    exact doseIncrement_at_reference dt temp doubling

end Sys2Proof.Machine
end

section
/-! SUPPORT. The fans (R138, R139, R186): a reading of a tachometer, the period and class of an edge, and the stall
watch. -/

namespace Sys2Proof.Machine

/-! ### Readings (R186) -/

theorem unreadAt_iff (t : Nat) (z : Zone) : unreadAt t z = true ↔ ∀ r, z.readAt = some r → r < t := by
  cases hr : z.readAt <;> simp [unreadAt, hr]

theorem State.modZone_fin (s : State) (i : Fin 6) (f : Zone → Zone) :
    s.modZone i f = { s with zones := s.zones.set i (f s.zones[i]) } := by
  have hset : s.zones.setIfInBounds i (f s.zones[i]) = s.zones.set i (f s.zones[i]) :=
    Vector.ext fun j hj => by simp [Vector.getElem_setIfInBounds, Vector.getElem_set]
  simp only [State.modZone, Fin.is_lt, getElem?_pos]
  rw [← hset]
  rfl

/-- One zone entry is replaced, and the sample clock moves on to a sample. -/
def State.withZone (s : State) (t : Nat) (i : Fin 6) (z : Zone) : State :=
  { s with samples := t, zones := s.zones.set i z }

section
variable {s : State} (hr : s.inReset = false) (i : Fin 6) (at_ : Nat)
include hr

/-- TACH_EDGE reads an input that has not been read at its sample, and does nothing else (R138, R186). -/
theorem exec_tachEdge (v : Bool) :
    exec (.tachEdge i v at_) s = .next (if unreadAt (s.sampleAt at_) s.zones[i] then
      s.withZone (s.sampleAt at_) i (tachSample s.params.limits (s.sampleAt at_) v s.zones[i]) else s) := by
  have hexec : exec (.tachEdge i v at_) s = .next (s.readTach i v (s.sampleAt at_)) := whenRunning_run _ hr
  rw [hexec, State.readTach]
  simp only [Fin.is_lt, getElem?_pos, State.modZone_fin]
  rfl

/-- STALL_WATCH_EXPIRY acts on a fan whose stall watch has run out, and moves the sample clock on (R139). -/
theorem exec_stallWatchExpiry :
    exec (.stallWatchExpiry i at_) s = .next (if stallDue (s.sampleAt at_) s.zones[i] then
      (s.withZone (s.sampleAt at_) i { s.zones[i] with airflow := 0, running := false }).raiseFlag .zoneAlarm
      else s.withZone (s.sampleAt at_) i s.zones[i]) := by
  have hexec : exec (.stallWatchExpiry i at_) s =
    .next ((s.atSample (s.sampleAt at_)).stallAt i (s.sampleAt at_)) :=
    whenRunning_run (fun s => (s.atSample (s.sampleAt at_)).stallAt i (s.sampleAt at_)) hr
  rw [hexec, State.stallAt]
  simp [State.modZone_fin, State.withZone, State.atSample]

end

/-! ### Edges (R138) -/

/-- A sample that is no rising edge keeps its level alone (R186, R187). -/
theorem tachSample_of_level {c : ClassLimits} {t : Nat} {v : Bool} {z : Zone} (h : v = false ∨ z.level ≠ some false) :
    tachSample c t v z = { z with level := some v, readAt := some t } := by
  have hedge : risingEdge z.level v = false := by
    rcases h with rfl | h <;> simp [risingEdge, *]
  simp [tachSample, hedge]

section
variable {c : ClassLimits} {t : Nat} {z : Zone} (hlow : z.level = some false)
include hlow

/-- The first edge starts the fan and gives no period (R138). -/
theorem tachSample_of_first_edge (hfirst : z.lastEdge = none) :
    tachSample c t true z =
      { z with level := some true, readAt := some t, running := true, lastEdge := some t } := by
  simp [tachSample, risingEdge, hlow, fanEdge, fanPeriod, hfirst]

/-- A later edge gives the period and its class; across a stall the period is the stall time (R138, R139). -/
theorem tachSample_of_later_edge {e : Nat} (hlast : z.lastEdge = some e) :
    let d := if z.running = true then min 50000 (t - e) else 50000
    tachSample c t true z =
      { z with level := some true, readAt := some t, running := true, lastEdge := some t, period := some d,
               airflow := airflowClass c d } := by
  simp [tachSample, risingEdge, hlow, fanEdge, fanPeriod, hlast, stallTime]

end

/-- The class of a period by the limits, the highest class first (R138). -/
theorem airflowClass_spec (c : ClassLimits) (d : Nat) :
    (airflowClass c d = 5 ↔ d < c.class5) ∧ (c.class5 ≤ d → d < c.class4 → airflowClass c d = 4) ∧
    (c.class5 ≤ d → c.class4 ≤ d → d < c.class3 → airflowClass c d = 3) ∧
    (c.class5 ≤ d → c.class4 ≤ d → c.class3 ≤ d → d < c.class2 → airflowClass c d = 2) ∧
    (c.class5 ≤ d → c.class4 ≤ d → c.class3 ≤ d → c.class2 ≤ d → d < c.class1 → airflowClass c d = 1) ∧
    (c.class5 ≤ d → c.class4 ≤ d → c.class3 ≤ d → c.class2 ≤ d → c.class1 ≤ d → airflowClass c d = 0) := by
  unfold airflowClass
  refine ⟨?fastest, ?_, ?_, ?_, ?_, ?_⟩
  case fastest => split_ifs with h5 <;> simp [h5]
  all_goals intros; split_ifs <;> omega

/-! ### The stall watch (R139) -/

theorem stallDue_iff {t e : Nat} {z : Zone} (hlast : z.lastEdge = some e) :
    stallDue t z = true ↔ z.running = true ∧ e + 50000 ≤ t := by
  have hstall : stallTime ≤ t - e ↔ e + 50000 ≤ t := by
    unfold stallTime
    omega
  simp only [stallDue, hlast, Bool.and_eq_true, decide_eq_true_eq, hstall]

/-- Settles O57: a reading, an edge's period and class, and the stall watch. -/
theorem fanRule : Obligations.FanRule := by
  intro s i at_ hr z t lim put unread
  have hunread : unreadAt t z = true ↔ unread := unreadAt_iff t z
  have hread (v : Bool) (hu : unread) : exec (.tachEdge i v at_) s = .next (put (tachSample lim t v z)) := by
    rw [exec_tachEdge hr, if_pos (hunread.2 hu)]
    rfl
  refine ⟨fun hu v => ?again, fun v hu hlevel => ?level, fun hu hlow hfirst => ?first,
    fun e d hu hlow hlast hd => ?later, fun e hrun hlast hdue => ?stalled, fun e hlast hdue => ?turning⟩
  case again => rw [exec_tachEdge hr, if_neg (mt hunread.1 hu)]
  case level => rw [hread v hu, tachSample_of_level hlevel]
  case first => rw [hread true hu, tachSample_of_first_edge hlow hfirst]
  case later => exact ⟨airflowClass lim d, by rw [hread true hu, tachSample_of_later_edge hlow hlast, hd],
    airflowClass_spec lim d⟩
  case stalled =>
    rw [exec_stallWatchExpiry hr, if_pos ((stallDue_iff hlast).2 ⟨hrun, hdue⟩)]
    rfl
  case turning =>
    have hnot : ¬stallDue t z = true := fun h => Nat.not_le.2 hdue ((stallDue_iff hlast).1 h).2
    rw [exec_stallWatchExpiry hr, if_neg hnot]
    rfl

end Sys2Proof.Machine
end

section
/-! SUPPORT. A poll's completion (R134, R136, R143 to R149): the zone table and ZONE_ALARM by the six replies, and the
panel update of the records on the oven queues. -/

namespace Sys2Proof.Machine

/-! ### The replies (R136, R194) -/

section
variable {r : SensorReply} (limit : Nat) (z : Zone)

/-- Status 0 gives the air temperature of the last two bytes and makes the zone VALID (R136, R194). -/
theorem applyReply_of_ok (h : r.status = 0) :
    applyReply limit r z =
      { z with air := max (-400) (min 4000 (r.tempHigh ++ r.tempLow).toInt), stale := 0, state := .valid } :=
  if_pos h

/-- Any other status counts the zone's entry stale, up to the limit (R135, R136). -/
theorem applyReply_of_bad (h : r.status ≠ 0) :
    let n := if z.stale < limit then z.stale + 1 else z.stale
    applyReply limit r z = { z with stale := n, state := if n < limit then .stale else .invalid } :=
  if_neg h

end

section
variable (s : State) (r : SensorReply) (i : Nat)

@[simp] theorem State.applyReplyAt_zoneRest : (s.applyReplyAt r i).zoneRest = s.zoneRest := by
  unfold State.applyReplyAt State.alarmIfInvalid State.modZone
  split; · rfl
  split
  · split <;> rfl
  · split
    · rfl
    · split <;> rfl

@[simp] theorem State.params_applyReplyAt : (s.applyReplyAt r i).params = s.params := by
  obtain ⟨-, -, -, -, hparams, -⟩ := State.fields_of_zoneRest (s.applyReplyAt_zoneRest r i)
  exact hparams

theorem State.zones_alarmIfInvalid (before : ZoneState) : (s.alarmIfInvalid before i).zones = s.zones := by
  unfold State.alarmIfInvalid
  split; · rfl
  split <;> rfl

/-- A reply writes its own zone's entry (R136). -/
theorem State.zones_applyReplyAt (j : Nat) :
    (s.applyReplyAt r i).zones[j]? =
      if j = i then (s.zones[j]?).map (applyReply s.params.staleLimit r) else s.zones[j]? := by
  cases hz : s.zones[i]? with
  | none =>
    simp only [State.applyReplyAt, hz]
    split
    · subst j; rw [hz]; rfl
    · rfl
  | some z => simp only [State.applyReplyAt, hz, State.zones_alarmIfInvalid, State.zones_modZone]

/-- The reply makes a zone of the table enter INVALID (R136). -/
def State.replyInvalidates : Bool :=
  (s.zones[i]?).any fun z => z.state != .invalid && (applyReply s.params.staleLimit r z).state == .invalid

theorem State.flags_applyReplyAt :
    (s.applyReplyAt r i).flags = { s.flags with zoneAlarm := s.flags.zoneAlarm || s.replyInvalidates r i } := by
  cases hz : s.zones[i]? with
  | none => simp [State.applyReplyAt, State.replyInvalidates, hz]
  | some z =>
    have hnew : (s.modZone i (applyReply s.params.staleLimit r)).zones[i]? =
        some (applyReply s.params.staleLimit r z) := by
      rw [State.zones_modZone, if_pos rfl, hz, Option.map_some]
    have henters : s.replyInvalidates r i =
        (z.state != .invalid && (applyReply s.params.staleLimit r z).state == .invalid) := by
      rw [State.replyInvalidates, hz]; rfl
    simp only [State.applyReplyAt, hz, State.alarmIfInvalid, hnew, ← henters]
    cases s.replyInvalidates r i <;> simp [State.raiseFlag, Flags.raise]

/-- A reply decides nothing of another zone. -/
theorem State.replyInvalidates_applyReplyAt_ne (r' : SensorReply) {j : Nat} (h : j ≠ i) :
    (s.applyReplyAt r i).replyInvalidates r' j = s.replyInvalidates r' j := by
  rw [State.replyInvalidates, State.zones_applyReplyAt, if_neg h, State.params_applyReplyAt, State.replyInvalidates]

end

section
variable (s : State) (rs : Vector SensorReply 6)

/-- The six replies write the zone table and the flags alone. -/
theorem State.applyReplies_frame :
    s.applyReplies rs = { s with zones := (s.applyReplies rs).zones, flags := (s.applyReplies rs).flags } :=
  State.eq_of_zoneRest (by simp [State.applyReplies])

variable {s rs} in
/-- Every zone's entry is written by its own reply (R136). -/
theorem State.zones_applyReplies {i : Nat} {z : Zone} {r : SensorReply} (hz : s.zones[i]? = some z)
    (hr : rs[i]? = some r) : (s.applyReplies rs).zones[i]? = some (applyReply s.params.staleLimit r z) := by
  have hi : i < 6 := State.zone_lt hz
  have hreply : r = rs[i] := by simpa [hi] using hr.symm
  have hread : (s.applyReplies rs).zones[i]? = (s.zones[i]?).map (applyReply s.params.staleLimit r) := by
    simp only [State.applyReplies, State.zones_applyReplyAt, State.params_applyReplyAt, hreply]
    interval_cases i <;> simp
  rw [hread, hz, Option.map_some]

/-- ZONE_ALARM is set when a reply makes its zone enter INVALID (R136). -/
theorem State.flags_applyReplies :
    (s.applyReplies rs).flags = { s.flags with
      zoneAlarm := s.flags.zoneAlarm || (List.finRange 6).any fun i => s.replyInvalidates rs[i] i } := by
  have hlist : List.finRange 6 = [0, 1, 2, 3, 4, 5] := rfl
  simp [State.applyReplies, State.flags_applyReplyAt, State.replyInvalidates_applyReplyAt_ne, hlist, Bool.or_assoc]

/-- Some zone enters INVALID by its reply exactly when its entry shows it (R136). -/
theorem State.any_replyInvalidates_iff :
    ((List.finRange 6).any fun i => s.replyInvalidates rs[i] i) = true ↔
      ∃ (i : Nat) (z z' : Zone), s.zones[i]? = some z ∧ (s.applyReplies rs).zones[i]? = some z' ∧
        z.state ≠ .invalid ∧ z'.state = .invalid := by
  simp only [List.any_eq_true, State.replyInvalidates, Option.any_eq_true, Bool.and_eq_true, bne_iff_ne, beq_iff_eq]
  constructor
  · rintro ⟨i, -, z, hz, hbefore, hafter⟩
    exact ⟨i, z, _, hz, State.zones_applyReplies hz (by simp), hbefore, hafter⟩
  · rintro ⟨i, z, z', hz, hz', hbefore, hafter⟩
    have hi : i < 6 := State.zone_lt hz
    rw [State.zones_applyReplies hz (Vector.getElem?_eq_getElem hi)] at hz'
    obtain rfl := Option.some.inj hz'
    exact ⟨⟨i, hi⟩, List.mem_finRange _, z, hz, hbefore, hafter⟩

end

/-! ### The panel update (R143 to R149) -/

/-- Reasons raised on a record one after another (R149, R159). -/
def Panel.raiseEach (prm : Params) (m : HoldMask) (rs : List HoldReason) (p : Panel) : Panel :=
  rs.foldl (fun q r => (q.raise prm m r).1) p

/-- A raise leaves the record its recipe, and so the hold mask (R156). -/
theorem State.holdMaskOf_raise (s : State) (prm : Params) (m : HoldMask) (r : HoldReason) (p : Panel) :
    s.holdMaskOf (p.raise prm m r).1 = s.holdMaskOf p := by
  rw [Panel.raise_frame]
  rfl

/-- Reasons raised on one record leave everything but the slots and the channels, and every other record. -/
theorem State.raiseEach_spec (h : Nat) (rs : List HoldReason) (s : State) :
    s.raiseEach h rs = { s with slots := (s.raiseEach h rs).slots, bch := (s.raiseEach h rs).bch } ∧
    ∀ k, (s.raiseEach h rs).panel k =
      if k = h then (s.panel k).map fun p => p.raiseEach s.params (s.holdMaskOf p) rs else s.panel k := by
  induction rs generalizing s with
  | nil => exact ⟨rfl, fun k => by simp [State.raiseEach, Panel.raiseEach]⟩
  | cons r rs ih =>
    obtain ⟨hframe, hpanel⟩ := ih (s.raise r h)
    have hone := s.raise_frame r h
    have hcons : s.raiseEach h (r :: rs) = (s.raise r h).raiseEach h rs := rfl
    have hparams : (s.raise r h).params = s.params := by rw [hone]
    have hmask (p : Panel) : (s.raise r h).holdMaskOf p = s.holdMaskOf p := by rw [hone]; rfl
    rw [hcons]
    refine ⟨by rw [hframe, hone], fun k => ?_⟩
    rw [hpanel, State.panel_raise, hparams]
    by_cases hk : k = h
    · simp [hk, hmask, Function.comp_def, State.holdMaskOf_raise, Panel.raiseEach]
    · simp [hk]

/-- A record after the panel update of a poll: a CURING record has its cure fields advanced and its holds raised; any
other record stays (R143, R149). -/
def State.curedPanel (s : State) (p : Panel) : Panel :=
  match s.curingInputs p with
  | none => p
  | some (z, b, prof, c) =>
    let c' := cureUpdate (s.params.gainAt b.massClass z.airflow) z.air prof s.tick c
    { p with cure := some c' }.raiseEach s.params (s.holdMaskOf p) (ovenHolds prof z.state c')

/-- The panel update of one record leaves everything but the slots and the channels, and every other record. -/
theorem State.updateCuring_spec (s : State) (h : Nat) :
    s.updateCuring h = { s with slots := (s.updateCuring h).slots, bch := (s.updateCuring h).bch } ∧
    ∀ k, (s.updateCuring h).panel k = if k = h then (s.panel k).map s.curedPanel else s.panel k := by
  cases hp : s.panel h with
  | none =>
    have hsame : s.updateCuring h = s := by simp [State.updateCuring, hp]
    rw [hsame]
    refine ⟨rfl, fun k => ?_⟩
    split
    · subst k; simp [hp]
    · rfl
  | some p =>
    cases hin : s.curingInputs p with
    | none =>
      have hsame : s.updateCuring h = s := by simp [State.updateCuring, hp, hin]
      rw [hsame]
      refine ⟨rfl, fun k => ?_⟩
      split
      · subst k; simp [hp, State.curedPanel, hin]
      · rfl
    | some x =>
      obtain ⟨z, b, prof, c⟩ := x
      let c' := cureUpdate (s.params.gainAt b.massClass z.airflow) z.air prof s.tick c
      have hupdate : s.updateCuring h =
          (s.setSlot h (some { p with cure := some c' })).raiseEach h (ovenHolds prof z.state c') := by
        simp [State.updateCuring, hp, hin, State.modPanel_of_live hp, c']
      obtain ⟨hframe, hpanel⟩ := State.raiseEach_spec h (ovenHolds prof z.state c')
        (s.setSlot h (some { p with cure := some c' }))
      rw [hupdate]
      refine ⟨by rw [hframe]; rfl, fun k => ?_⟩
      rw [hpanel]
      by_cases hk : k = h
      · subst k
        rw [if_pos rfl, if_pos rfl, State.panel_setSlot_self _ (State.panel_lt hp), hp, Option.map_some,
          Option.map_some]
        simp only [State.curedPanel, hin]
        rfl
      · rw [if_neg hk, if_neg hk, State.panel_setSlot_ne _ hk]

/-- The panel update reads nothing that a panel update writes, so that each record's is its own (R143). -/
theorem State.foldl_updateCuring {hs : List Nat} (hn : hs.Nodup) (s : State) :
    let t := hs.foldl (fun s h => s.updateCuring h) s
    t = { s with slots := t.slots, bch := t.bch } ∧
    ∀ k, t.panel k = if k ∈ hs then (s.panel k).map s.curedPanel else s.panel k := by
  induction hs generalizing s with
  | nil => exact ⟨rfl, fun k => by simp⟩
  | cons h hs ih =>
    obtain ⟨hh, hn⟩ := List.nodup_cons.1 hn
    obtain ⟨hone, hself⟩ := s.updateCuring_spec h
    obtain ⟨hframe, hpanel⟩ := ih hn (s.updateCuring h)
    have hcured : (s.updateCuring h).curedPanel = s.curedPanel := by rw [hone]; rfl
    rw [List.foldl_cons]
    refine ⟨by rw [hframe, hone], fun k => ?_⟩
    rw [hpanel, hself, hcured]
    by_cases hk : k = h
    · simp [hk, hh]
    · simp [hk]

/-! ### What the update makes of one record -/

theorem State.curedPanel_of_other {s : State} {p : Panel} (h : p.stage ≠ .curing) : s.curedPanel p = p := by
  have hnone : s.curingInputs p = none := by
    unfold State.curingInputs
    split
    · exact absurd ‹_› h
    · rfl
  rw [State.curedPanel, hnone]

/-- The three hold checks raise in their order (R149). -/
theorem Panel.raiseEach_ovenHolds (prm : Params) (m : HoldMask) (prof : CureProfile) (zone : ZoneState) (c : Cure)
    (p : Panel) :
    let held := fun (due : Prop) [Decidable due] (r : HoldReason) (q : Panel) =>
      if due then (q.raise prm m r).1 else q
    p.raiseEach prm m (ovenHolds prof zone c) =
      held (zone = .invalid) .cureUnverified (held (prof.ceiling < c.dose) .overcure
        (held (prof.peakLimit < c.temp) .overtemp p)) := by
  have hcheck (due : Prop) [Decidable due] (r : HoldReason) (q : Panel) :
      (if due then [r] else []).foldl (fun q r => (q.raise prm m r).1) q = if due then (q.raise prm m r).1 else q := by
    split <;> rfl
  simp only [Panel.raiseEach, ovenHolds, List.foldl_append, hcheck]

/-- A CURING record in a zone, its recipe's parts present (R143). -/
theorem State.curingInputs_of_curing {s : State} {p : Panel} {pl : Place} {c : Cure} {b : Body} {prof : CureProfile}
    {i : Nat} {z : Zone} (hstage : p.stage = .curing) (hplace : p.place = some pl) (hcure : p.cure = some c)
    (hbody : s.bodyOf p = some b) (hprof : s.cureProfileOf p = some prof) (hzone : zoneOf s.params pl.pos = some i)
    (hz : s.zones[i]? = some z) : s.curingInputs p = some (z, b, prof, c) := by
  simp [State.curingInputs, hstage, hplace, hcure, hbody, hprof, hzone, hz]

/-! ### POLL_START and POLL_COMPLETION (R134, R136) -/

/-- The next boundary lies the sample period later, and no poll is in flight (R134). -/
def State.nextPoll (s : State) : State :=
  { s with poll := { boundary := s.poll.boundary + BitVec.ofNat 32 s.params.samplePeriod, inFlight := false } }

/-- A poll in flight completes at its boundary: next boundary, replies, panel update (R134, R136, R143). -/
theorem exec_pollCompletion {s : State} (rs : Vector SensorReply 6) (hr : s.inReset = false)
    (hflight : s.poll.inFlight = true) (hdue : tickAfter s.poll.boundary s.tick = false) :
    exec (.pollCompletion rs) s = .next (s.nextPoll.applyReplies rs).updateOven := by
  have hexec : exec (.pollCompletion rs) s = .next (s.completePoll rs) := whenRunning_run _ hr
  have hguard : (s.poll.inFlight && due s.tick s.poll.boundary) = true := by simp [hflight, due, hdue]
  rw [hexec, State.completePoll, if_pos hguard]
  rfl

theorem exec_pollStart {s : State} (hr : s.inReset = false) (hidle : s.poll.inFlight = false)
    (hdue : tickAfter s.poll.boundary (s.tick + 1) = false) :
    exec .pollStart s = .next { s with poll := { s.poll with inFlight := true } } := by
  have hexec : exec .pollStart s =
      .next (if s.pollMayStart then { s with poll := { s.poll with inFlight := true } } else s) :=
    whenRunning_run _ hr
  have hmay : s.pollMayStart = true := by
    simp only [State.pollMayStart, hidle, due, hdue, Bool.not_false, Bool.and_self]
  rw [hexec, if_pos hmay]

/-- The panel update of all records on the oven queues, each of them once (R143). -/
theorem State.updateOven_spec {s : State} (hn : (s.ltk.zero.oven ++ s.ltk.one.oven).Nodup) :
    s.updateOven = { s with slots := s.updateOven.slots, bch := s.updateOven.bch } ∧
    ∀ k, s.updateOven.panel k =
      if k ∈ s.ltk.zero.oven ++ s.ltk.one.oven then (s.panel k).map s.curedPanel else s.panel k :=
  State.foldl_updateCuring hn s

/-- Settles O55: the start of a poll; and its completion, by the replies and then the panel update. -/
theorem pollRule : Obligations.PollRule := by
  refine ⟨fun s => exec_pollStart, fun s rs hr hflight hdue hn => ?_⟩
  have hexec := exec_pollCompletion rs hr hflight hdue
  have hreplies := s.nextPoll.applyReplies_frame rs
  have hflags := s.nextPoll.flags_applyReplies rs
  have halarm := s.nextPoll.any_replyInvalidates_iff rs
  have hzones {i : Nat} {z : Zone} {r : SensorReply} : s.zones[i]? = some z → rs[i]? = some r →
      (s.nextPoll.applyReplies rs).zones[i]? = some (applyReply s.params.staleLimit r z) :=
    State.zones_applyReplies (s := s.nextPoll)
  generalize s.nextPoll.applyReplies rs = u at hexec hreplies hflags halarm hzones
  have hltk : u.ltk = s.ltk := by rw [hreplies]; rfl
  have hslots (h : Nat) : u.panel h = s.panel h := by rw [hreplies]; rfl
  obtain ⟨hframe, hpanel⟩ := State.updateOven_spec (s := u) (hltk ▸ hn)
  rw [hltk] at hpanel
  generalize u.updateOven = t at hexec hframe hpanel
  have htz : t.zones = u.zones := by rw [hframe]
  have htf : t.flags = u.flags := by rw [hframe]
  refine ⟨t, hexec, ?frame, fun i z r hz hr => ⟨fun hok => ?ok, fun hbad => ?bad⟩, fun hyes => ?alarm,
    fun hno => ?quiet, fun h hout => ?off, fun h p hin hp hstage => ?other, ?curing⟩
  case frame =>
    rw [htz, htf]
    rw [hreplies] at hframe
    exact hframe
  case ok => rw [htz, hzones hz hr, applyReply_of_ok _ _ hok]
  case bad => rw [htz, hzones hz hr, applyReply_of_bad _ _ hbad]
  case alarm =>
    rw [← htz] at halarm
    rw [htf, hflags, halarm.2 hyes, Bool.or_true]
    rfl
  case quiet =>
    rw [← htz] at halarm
    have hnone := mt halarm.1 fun ⟨i, z, z', hz, hz', hbefore, hafter⟩ => hbefore (hno i z z' hz hz' hafter)
    rw [htf, hflags, Bool.eq_false_iff.2 hnone, Bool.or_false]
    rfl
  case off => rw [hpanel, if_neg hout, hslots]
  case other => rw [hpanel, if_pos hin, hslots, hp, Option.map_some, State.curedPanel_of_other hstage]
  case curing =>
    intro h p pl c b prof i z hin hp hstage hplace hcure hbody hprof hzone hz
    have hparams : u.params = s.params := by rw [hreplies]; rfl
    have htick : u.tick = s.tick := by rw [hreplies]; rfl
    have hmask : u.holdMaskOf p = s.holdMaskOf p := by rw [hreplies]; rfl
    have hbody' : u.bodyOf p = some b := by rw [← hbody, hreplies]; rfl
    have hprof' : u.cureProfileOf p = some prof := by rw [← hprof, hreplies]; rfl
    have hinputs : u.curingInputs p = some (z, b, prof, c) :=
      State.curingInputs_of_curing hstage hplace hcure hbody' hprof' (hparams ▸ hzone) (htz ▸ hz)
    rw [hpanel, if_pos hin, hslots, hp, Option.map_some, State.curedPanel, hinputs]
    simp only [Panel.raiseEach_ovenHolds, hparams, htick, hmask]
    rfl

end Sys2Proof.Machine
end

section
/-! SUPPORT. Every step keeps every hold list in order (R155, R164): a raise, SERVICE and RELEASE each leave a list in
order, and no other step writes a hold list. -/

namespace Sys2Proof.Machine

/-! ### PENDING and IN_SERVICE entries (R155) -/

section
variable (e : HoldEntry)

theorem HoldEntry.isPending_iff : e.isPending = true ↔ e.state = .pending := by
  unfold HoldEntry.isPending
  split <;> simp [*]

theorem serviceRank_eq_some_iff (k : Rank) : serviceRank e = some k ↔ e.state = .inService k := by
  unfold serviceRank
  split <;> simp [*]

@[simp] theorem isPending_newEntry (r : HoldReason) : (newEntry r).isPending = true := rfl

@[simp] theorem isPending_inService (k : Rank) : ({ e with state := .inService k } : HoldEntry).isPending = false := rfl

theorem state_bumpEntry (r : HoldReason) : (bumpEntry r e).state = e.state := by
  unfold bumpEntry
  split <;> rfl

@[simp] theorem serviceRank_bumpEntry (r : HoldReason) : serviceRank (bumpEntry r e) = serviceRank e := by
  rw [serviceRank, state_bumpEntry, serviceRank]

@[simp] theorem isPending_bumpEntry (r : HoldReason) : (bumpEntry r e).isPending = e.isPending := by
  rw [HoldEntry.isPending, state_bumpEntry, HoldEntry.isPending]

/-- A count of 1..15 stays one when the reason occurs again (R159). -/
theorem count_bumpEntry (r : HoldReason) (h : 1 ≤ e.count ∧ e.count ≤ 15) :
    1 ≤ (bumpEntry r e).count ∧ (bumpEntry r e).count ≤ 15 := by
  unfold bumpEntry
  split
  · show 1 ≤ min 15 (e.count + 1) ∧ min 15 (e.count + 1) ≤ 15
    omega
  · exact h

end

/-! ### Entries in rank order (R157, R165) -/

/-- The first entry of a kind in rank order ranks above every entry of its kind (R157). -/
theorem find?_inRankOrder {prm : Params} {m : HoldMask} {holds : List HoldEntry} {kind : HoldEntry → Bool}
    {g : HoldEntry} (hg : (inRankOrder prm m holds).find? kind = some g) :
    g ∈ holds ∧ kind g = true ∧ ∀ e ∈ holds, kind e = true → RanksAbove prm m g e := by
  rw [← List.head?_filter, List.head?_eq_some_iff] at hg
  obtain ⟨rest, hkind⟩ := hg
  have hmem (e : HoldEntry) : e = g ∨ e ∈ rest ↔ e ∈ holds ∧ kind e = true := by
    rw [← mem_inRankOrder prm m e holds, ← List.mem_filter, hkind, List.mem_cons]
  have hsorted := (inRankOrder_pairwise prm m holds).filter kind
  rw [hkind, List.pairwise_cons] at hsorted
  obtain ⟨habove, -⟩ := hsorted
  obtain ⟨hg, hkg⟩ := (hmem g).1 (.inl rfl)
  refine ⟨hg, hkg, fun e he hk => ?_⟩
  rcases (hmem e).2 ⟨he, hk⟩ with rfl | he
  · exact le_refl _
  · exact habove e he

theorem mem_of_lowestPending {prm : Params} {m : HoldMask} {holds : List HoldEntry} {low : HoldEntry}
    (h : lowestPending prm m holds = some low) : low ∈ holds :=
  (mem_inRankOrder prm m low holds).1 (List.mem_filter.1 (List.mem_of_getLast? h)).1

/-- The reason's entry is PENDING and its live rank outranks that of every other PENDING entry (R165 check 4). -/
def FirstPending (prm : Params) (m : HoldMask) (holds : List HoldEntry) (r : HoldReason) : Prop :=
  ∃ e ∈ holds, e.reason = r ∧ e.state = .pending ∧
    ∀ x ∈ holds, x.state = .pending → x.reason ≠ r → (rankOf prm m r).outranks (rankOf prm m x.reason) = true

/-- The rank outranks the service rank of the chain's top, if there is one (R165 check 4). -/
def AboveTop (holds : List HoldEntry) (rank : Rank) : Prop :=
  ∀ top k, (serviceChain holds).getLast? = some top → top.state = .inService k → rank.outranks k = true

theorem highestPending_reason_iff (prm : Params) (m : HoldMask) (holds : List HoldEntry) (r : HoldReason) :
    (highestPending prm m holds).map HoldEntry.reason = some r ↔ FirstPending prm m holds r := by
  constructor
  · intro h
    obtain ⟨g, hg, rfl⟩ := Option.map_eq_some_iff.1 h
    obtain ⟨hmem, hpending, habove⟩ := find?_inRankOrder hg
    refine ⟨g, hmem, rfl, g.isPending_iff.1 hpending, fun x hx hxp hne => (Rank.outranks_iff _ _).2 ?_⟩
    exact lt_of_le_of_ne (habove x hx (x.isPending_iff.2 hxp)) ((rankOf_key_injective prm m).ne hne.symm)
  · rintro ⟨e, he, rfl, hpending, hout⟩
    obtain ⟨g, hg⟩ : ∃ g, highestPending prm m holds = some g :=
      Option.isSome_iff_exists.1 (List.find?_isSome.2
        ⟨e, (mem_inRankOrder prm m e holds).2 he, e.isPending_iff.2 hpending⟩)
    obtain ⟨hmem, hgp, habove⟩ := find?_inRankOrder hg
    have hreason : g.reason = e.reason := by
      by_contra hne
      have hlt := (Rank.outranks_iff _ _).1 (hout g hmem (g.isPending_iff.1 hgp) hne)
      exact absurd (habove e he (e.isPending_iff.2 hpending)) (not_le.2 hlt)
    rw [hg, Option.map_some, hreason]

/-- The top of a service chain is IN_SERVICE. -/
theorem inService_of_chainTop {holds : List HoldEntry} {top : HoldEntry} (h : chainTop holds = some top) :
    ∃ k, top.state = .inService k := by
  have hserved := (List.mem_filter.1 (List.mem_of_getLast? h)).2
  cases hstate : top.state with
  | pending => simp [HoldEntry.isPending, hstate] at hserved
  | inService k => exact ⟨k, rfl⟩

theorem outranksTop_iff (holds : List HoldEntry) (rank : Rank) :
    outranksTop holds rank = true ↔ AboveTop holds rank := by
  unfold outranksTop AboveTop
  cases htop : chainTop holds with
  | none =>
    have hnone : (serviceChain holds).getLast? = none := htop
    simp [hnone]
  | some top =>
    have hsome : (serviceChain holds).getLast? = some top := htop
    obtain ⟨k, hk⟩ := inService_of_chainTop htop
    have hrank : serviceRank top = some k := (serviceRank_eq_some_iff top k).2 hk
    simp only [Option.bind_some, hrank, hsome, Option.some.injEq]
    constructor
    · rintro h _ n rfl hn
      obtain rfl : k = n := HoldState.inService.inj (hk.symm.trans hn)
      exact h
    · exact fun h => h top k rfl hk

/-- SERVICE's check 4, in the words of R165. -/
theorem serviceable_iff (prm : Params) (m : HoldMask) (holds : List HoldEntry) (r : HoldReason) :
    serviceable prm m holds r = true ↔ FirstPending prm m holds r ∧ AboveTop holds (rankOf prm m r) := by
  rw [serviceable, Bool.and_eq_true, beq_iff_eq, highestPending_reason_iff, outranksTop_iff]

/-! ### The service chain (R164) -/

theorem Rank.outranks_trans {a b c : Rank} (h : a.outranks b = true) (k : b.outranks c = true) :
    a.outranks c = true := by
  rw [Rank.outranks_iff] at *
  exact h.trans k

/-- On a rising chain, a rank that outranks the top's outranks every other (R164). -/
theorem AboveTop.outranks {holds : List HoldEntry} {rank k : Rank} {x : HoldEntry} (htop : AboveTop holds rank)
    (hchain : (serviceChain holds).Pairwise servedAbove) (hx : x ∈ serviceChain holds)
    (hk : serviceRank x = some k) : rank.outranks k = true := by
  obtain ⟨below, top, hsplit⟩ := (List.eq_nil_or_concat' (serviceChain holds)).resolve_left (List.ne_nil_of_mem hx)
  have hlast : (serviceChain holds).getLast? = some top := by rw [hsplit, List.getLast?_concat]
  obtain ⟨n, hn⟩ := inService_of_chainTop hlast
  have hrank : rank.outranks n = true := htop top n hlast hn
  rw [hsplit, List.pairwise_append] at hchain
  obtain ⟨-, -, hrises⟩ := hchain
  rw [hsplit, List.mem_append, List.mem_singleton] at hx
  rcases hx with hx | rfl
  · have hrise : servedAbove x top := hrises x hx top (List.mem_singleton_self top)
    exact Rank.outranks_trans hrank (hrise k n hk ((serviceRank_eq_some_iff top n).2 hn))
  · rw [serviceRank_eq_some_iff, hn] at hk
    cases hk
    exact hrank

section
variable {holds : List HoldEntry} {e : HoldEntry} (hn : (holds.map HoldEntry.reason).Nodup) (he : e ∈ holds)
include hn he

/-- A reason stands once on a list (R155), so that its entry is the only one SERVICE moves. -/
theorem filter_reason_eq : (holds.filter fun x => x.reason == e.reason) = [e] := by
  have hmem (x : HoldEntry) : (x ∈ holds.filter fun x => x.reason == e.reason) ↔ x ∈ [e] := by
    rw [List.mem_filter, beq_iff_eq, List.mem_singleton]
    exact ⟨fun ⟨hx, hr⟩ => List.inj_on_of_nodup_map hn hx he hr, by rintro rfl; exact ⟨he, rfl⟩⟩
  exact List.perm_singleton.1
    ((List.perm_ext_iff_of_nodup (hn.of_map.filter _) (List.nodup_singleton e)).2 hmem)

theorem takeInService_eq (k : Rank) :
    takeInService k e.reason holds =
      (holds.filter fun x => x.reason != e.reason) ++ [{ e with state := .inService k }] := by
  rw [takeInService, filter_reason_eq hn he, List.map_singleton]

/-- A PENDING entry taken into service becomes the top of the chain (R164). -/
theorem serviceChain_takeInService (hp : e.state = .pending) (k : Rank) :
    serviceChain (takeInService k e.reason holds) = serviceChain holds ++ [{ e with state := .inService k }] := by
  have hothers : serviceChain (holds.filter fun x => x.reason != e.reason) = serviceChain holds := by
    rw [serviceChain, List.filter_filter]
    refine List.filter_congr fun x hx => ?_
    cases hserved : x.isPending with
    | true => rfl
    | false =>
      have hne : x.reason ≠ e.reason := fun hr => by
        obtain rfl := List.inj_on_of_nodup_map hn hx he hr
        simp [HoldEntry.isPending, hp] at hserved
      simp [hne]
  have happend (xs ys : List HoldEntry) : serviceChain (xs ++ ys) = serviceChain xs ++ serviceChain ys :=
    List.filter_append ..
  rw [takeInService_eq hn he, happend, hothers]
  rfl

end

/-! ### Edits of a hold list -/

section
variable {holds : List HoldEntry} {r : HoldReason}

/-- Entries taken off a list in order leave it in order. -/
theorem holdsOk.sublist {fewer : List HoldEntry} (h : holdsOk holds) (hsub : fewer.Sublist holds) :
    holdsOk fewer := by
  obtain ⟨hlength, hnodup, hcount, hchain⟩ := h
  exact ⟨hsub.length_le.trans hlength, hnodup.sublist (hsub.map _), fun e he => hcount e (hsub.subset he),
    hchain.sublist (hsub.filter _)⟩

/-- One more occurrence changes a count alone (R159). -/
theorem holdsOk.bump (h : holdsOk holds) (r : HoldReason) : holdsOk (holds.map (bumpEntry r)) := by
  obtain ⟨hlength, hnodup, hcount, hchain⟩ := h
  have hreasons : (holds.map (bumpEntry r)).map HoldEntry.reason = holds.map HoldEntry.reason := by
    rw [List.map_map]
    exact List.map_congr_left fun e _ => bumpEntry_reason r e
  have hserved : serviceChain (holds.map (bumpEntry r)) = (serviceChain holds).map (bumpEntry r) := by
    simp [serviceChain, List.filter_map, Function.comp_def]
  refine ⟨by rwa [List.length_map], hreasons ▸ hnodup, fun x hx => ?_, ?_⟩
  · obtain ⟨e, he, rfl⟩ := List.mem_map.1 hx
    exact count_bumpEntry e r (hcount e he)
  · rw [hserved, List.pairwise_map]
    exact hchain.imp fun {a b} hab => by simpa [servedAbove] using hab

/-- A new entry is PENDING, so that it leaves the chain as it is (R159). -/
theorem holdsOk.append (h : holdsOk holds) (hroom : holds.length < 4) (hnew : ¬∃ e ∈ holds, e.reason = r) :
    holdsOk (holds ++ [newEntry r]) := by
  obtain ⟨-, hnodup, hcount, hchain⟩ := h
  refine ⟨by simpa using hroom, ?_, fun e he => ?_, ?_⟩
  · rw [List.map_append]
    refine hnodup.append (List.nodup_singleton _) ?_
    simpa [newEntry] using hnew
  · rcases List.mem_append.1 he with he | he
    · exact hcount e he
    · obtain rfl := List.mem_singleton.1 he
      exact ⟨le_refl 1, Nat.le_add_left 1 14⟩
  · simpa [serviceChain] using hchain

/-- A raise leaves the hold list in order, whatever its outcome (R159, R160). -/
theorem holdsOk.raise {p : Panel} (h : holdsOk p.holds) (prm : Params) (m : HoldMask) (r : HoldReason) :
    holdsOk (p.raise prm m r).1.holds := by
  by_cases hnew : ∃ e ∈ p.holds, e.reason = r
  · rw [Panel.raise_of_listed hnew]
    exact h.bump r
  by_cases hroom : p.holds.length < 4
  · rw [Panel.raise_of_room hnew hroom]
    exact h.append hroom hnew
  by_cases hevict : ∃ low, lowestPending prm m p.holds = some low ∧
      (rankOf prm m r).outranks (rankOf prm m low.reason) = true
  · obtain ⟨low, hlow, hout⟩ := hevict
    rw [Panel.raise_of_evicting hnew (Nat.not_lt.1 hroom) hlow hout]
    have hshorter : (p.holds.filter fun e => e.reason != low.reason).length < p.holds.length :=
      List.length_filter_lt_length_iff_exists.2 ⟨low, mem_of_lowestPending hlow, by simp⟩
    have hleft : ¬∃ e ∈ p.holds.filter fun e => e.reason != low.reason, e.reason = r :=
      fun ⟨e, he, hr⟩ => hnew ⟨e, (List.mem_filter.1 he).1, hr⟩
    exact (h.sublist List.filter_sublist).append (hshorter.trans_le h.1) hleft
  · rw [Panel.raise_of_dropped hnew (Nat.not_lt.1 hroom) (by simpa using hevict)]
    exact h

/-- A PENDING entry taken into service above the chain's top leaves the list in order (R164). -/
theorem holdsOk.intoService {e : HoldEntry} {k : Rank} (h : holdsOk holds) (he : e ∈ holds)
    (hp : e.state = .pending) (htop : AboveTop holds k) : holdsOk (takeInService k e.reason holds) := by
  obtain ⟨hlength, hnodup, hcount, hchain⟩ := h
  have hperm : ((takeInService k e.reason holds).map HoldEntry.reason).Perm (holds.map HoldEntry.reason) := by
    have hsplit := (List.filter_append_perm (fun x : HoldEntry => x.reason != e.reason) holds).map HoldEntry.reason
    simpa [takeInService, Function.comp_def, bne] using hsplit
  have hsame : (takeInService k e.reason holds).length = holds.length := by simpa using hperm.length_eq
  refine ⟨hsame.trans_le hlength, hperm.nodup_iff.2 hnodup, fun x hx => ?_, ?_⟩
  · rw [takeInService_eq hnodup he, List.mem_append, List.mem_singleton] at hx
    rcases hx with hx | rfl
    · exact hcount x (List.mem_filter.1 hx).1
    · exact hcount e he
  · rw [serviceChain_takeInService hnodup he hp, List.pairwise_append]
    refine ⟨hchain, List.pairwise_singleton _ _, fun x hx y hy a b ha hb => ?_⟩
    obtain rfl := List.mem_singleton.1 hy
    obtain rfl : k = b := Option.some.inj hb
    exact htop.outranks hchain hx ha

/-- SERVICE puts an entry on top of the chain that outranks the whole chain (R164, R165). -/
theorem holdsOk.serve {prm : Params} {m : HoldMask} (h : holdsOk holds)
    (hs : serviceable prm m holds r = true) : holdsOk (takeInService (rankOf prm m r) r holds) := by
  obtain ⟨⟨e, he, rfl, hpending, -⟩, htop⟩ := (serviceable_iff ..).1 hs
  exact h.intoService he hpending htop

end

theorem HoldsEdit.holdsOk {s : State} {p : Panel} {holds : List HoldEntry} (he : HoldsEdit s p holds)
    (h : Machine.holdsOk p.holds) : Machine.holdsOk holds := by
  cases he with
  | same => exact h
  | raised r => exact h.raise _ _ r
  | served r hs => exact h.serve hs
  | released top _ _ => exact h.sublist List.filter_sublist

/-! ### The kinds of step -/

section
variable {s : State}

theorem State.holdListsOk_of_slots {t : State} (hs : s.holdListsOk) (e : t.slots = s.slots) : t.holdListsOk :=
  fun h p hp => hs h p (by rwa [State.panel_of_slots e] at hp)

theorem State.holdListsOk_setSlot {h : Nat} {o : Option Panel} (hs : s.holdListsOk)
    (ho : ∀ q, o = some q → holdsOk q.holds) : (s.setSlot h o).holdListsOk := by
  intro k q hq
  by_cases hk : k = h
  · subst k
    rw [State.panel_setSlot_self _ (State.panel_lt hq)] at hq
    exact ho q hq
  · rw [State.panel_setSlot_ne _ hk] at hq
    exact hs k q hq

/-- A change of one record that leaves its hold list alone. -/
theorem State.holdListsOk_setSlot_same {h : Nat} {p q : Panel} (hs : s.holdListsOk) (hp : s.panel h = some p)
    (hq : q.holds = p.holds) : (s.setSlot h (some q)).holdListsOk :=
  State.holdListsOk_setSlot hs fun x hx => by
    cases hx
    exact hq ▸ hs h p hp

theorem Evolves.holdListsOk {t : State} (h : Evolves s t) (hs : s.holdListsOk) : t.holdListsOk := by
  induction h with
  | quiet h => exact State.holdListsOk_of_slots hs (congrArg RecordView.slots h.view)
  | trans _ _ ih1 ih2 => exact ih2 (ih1 hs)
  | @panel s h p q hp he =>
    refine State.holdListsOk_setSlot hs fun x hx => ?_
    cases hx
    exact he.holds.holdsOk (hs h p hp)
  | @create s h rest l hf =>
    refine State.holdListsOk_setSlot (s := { s with freeList := rest }) hs fun x hx => ?_
    cases hx
    exact ⟨Nat.zero_le 4, List.nodup_nil, fun e he => absurd he List.not_mem_nil, List.Pairwise.nil⟩
  | @identify s h p id hp hn hf =>
    have hkept : (s.modPanel h fun p => { p with id := some id }).holdListsOk := by
      rw [State.modPanel_of_live hp]
      exact State.holdListsOk_setSlot_same hs hp rfl
    exact State.holdListsOk_of_slots hkept rfl
  | @assign s h p r m hp =>
    have hkept := State.holdListsOk_setSlot_same (q := { p with recipe := some r, mask := m }) hs hp rfl
    exact State.holdListsOk_of_slots hkept (by rw [State.moveRefs_frame])
  | parts => exact State.holdListsOk_of_slots hs rfl
  | zone => exact State.holdListsOk_of_slots hs (by simp)
  | @relimit s n =>
    obtain ⟨hslots, -⟩ := State.fields_of_zoneRest
      (State.relimitAll_zoneRest (s.writeParams fun p => { p with staleLimit := n }))
    exact State.holdListsOk_of_slots hs hslots
  | ambient => exact State.holdListsOk_of_slots hs rfl

theorem State.holdListsOk_serveRetire (hs : s.holdListsOk) (h d : Nat) : (serveRetire h d s).1.holdListsOk := by
  rcases serveRetire_cases h d s with e | ⟨p, -, -, -, -, e⟩ <;> rw [e]
  · exact hs
  · have hfreed : (s.setSlot h none).holdListsOk := State.holdListsOk_setSlot hs fun q hq => by cases hq
    exact State.holdListsOk_of_slots hfreed (by rw [State.retireRecord_frame]; rfl)

theorem State.holdListsOk_serveReenter (hs : s.holdListsOk) (h l p : Nat) :
    (serveReenter h l p s).1.holdListsOk := by
  rcases serveReenter_cases h l p s with e | ⟨p, l, rp, hp, -, -, e⟩ <;> rw [e]
  · exact hs
  · obtain ⟨-, -, hholds, -⟩ := reentered_keeps l rp p
    exact State.holdListsOk_of_slots (State.holdListsOk_setSlot_same hs hp hholds) rfl

end

/-- Settles O6: each kind of step keeps the hold lists in order, and so does every command. -/
theorem holdListsKept : Obligations.HoldListsKept := by
  intro s t hs h
  exact step_keeps_records (fun _ _ h hs => h.holdListsOk hs) (fun _ h d hs => State.holdListsOk_serveRetire hs h d)
    (fun _ h l p hs => State.holdListsOk_serveReenter hs h l p) (fun _ => State.reset_holdListsOk) hs h

end Sys2Proof.Machine
end

section
/-! SUPPORT. HOLD, SERVICE and RELEASE of a live record (R162, R165, R166). -/

namespace Sys2Proof.Machine

/-! ### HOLD (R162) -/

/-- HOLD of a live record goes by its reason (R162). -/
theorem serveHold_of_live {s : State} {h reason : Nat} {p : Panel} (hh : s.panel h = some p) :
    serveHold h reason s =
      if reason = 17 then
        (s.raise .hostQa h).answer (outcomeBytes (p.raise s.params (s.holdMaskOf p) .hostQa).2)
      else s.refuse .range := by
  simp only [serveHold, hh]

section
variable {prm : Params} {m : HoldMask} {r : HoldReason} {p : Panel}

theorem Panel.outcome_of_listed (h : ∃ e ∈ p.holds, e.reason = r) : (p.raise prm m r).2 = .coalesced := by
  simp [Panel.raise, h]

section
variable (hnew : ¬∃ e ∈ p.holds, e.reason = r)
include hnew

theorem Panel.outcome_of_room (hroom : p.holds.length < 4) : (p.raise prm m r).2 = .added := by
  simp [Panel.raise, hnew, hroom]

theorem Panel.outcome_of_evicting {low : HoldEntry} (hfull : 4 ≤ p.holds.length)
    (hlow : lowestPending prm m p.holds = some low)
    (hout : (rankOf prm m r).outranks (rankOf prm m low.reason) = true) :
    (p.raise prm m r).2 = .evicted low.reason := by
  simp [Panel.raise, hnew, Nat.not_lt.2 hfull, hlow, entryRank, hout]

theorem Panel.outcome_of_dropped (hfull : 4 ≤ p.holds.length)
    (hbelow : ∀ low, lowestPending prm m p.holds = some low →
      (rankOf prm m r).outranks (rankOf prm m low.reason) = false) :
    (p.raise prm m r).2 = .dropped := by
  cases hlow : lowestPending prm m p.holds with
  | none => simp [Panel.raise, hnew, Nat.not_lt.2 hfull, hlow]
  | some low => simp [Panel.raise, hnew, Nat.not_lt.2 hfull, hlow, entryRank, hbelow low hlow]

end

end

/-- Settles O30: the check of the reason, and the four outcomes of the raise. -/
theorem holdRule : Obligations.HoldRule := by
  intro s h reason p hp hh
  have hser : exec (.hold h reason) s = takeEffect (.hold h reason) (serveHold h reason) s := rfl
  refine ⟨fun hreason => refuses_of_serve hser hp ((serveHold_of_live hh).trans (if_neg hreason)), ?_⟩
  intro hreason
  have haccepts {outcome : RaiseOutcome} (ho : (p.raise s.params (s.holdMaskOf p) .hostQa).2 = outcome) :
      Accepts (.hold h reason) s (s.raise .hostQa h) (outcomeBytes outcome) :=
    accepts_of_serve hser hp ((serveHold_of_live hh).trans (by rw [if_pos hreason, ho]))
  have hunlisted (hnone : ∀ e ∈ p.holds, e.reason ≠ .hostQa) : ¬∃ e ∈ p.holds, e.reason = .hostQa :=
    fun ⟨e, he, hr⟩ => hnone e he hr
  exact ⟨fun hlisted => haccepts (Panel.outcome_of_listed hlisted),
    fun hnone hroom => haccepts (Panel.outcome_of_room (hunlisted hnone) hroom),
    fun low hnone hfull hlow hout => haccepts (Panel.outcome_of_evicting (hunlisted hnone) hfull hlow hout),
    fun hnone hfull hbelow => haccepts (Panel.outcome_of_dropped (hunlisted hnone) hfull hbelow)⟩

/-! ### SERVICE (R165) -/

/-- SERVICE of a live record with a reason of R153, by its checks in order (R165). -/
theorem serveService_of_live {s : State} {h reason : Nat} {p : Panel} {r : HoldReason} (hh : s.panel h = some p)
    (hr : reasonOfCode reason = some r) :
    serveService h reason s =
      if p.stage = .parked then
        if ∃ e ∈ p.holds, e.reason = r then
          if serviceable s.params (s.holdMaskOf p) p.holds r = true then
            (s.modPanel h fun q =>
              { q with holds := takeInService (rankOf s.params (s.holdMaskOf q) r) r q.holds }).answer []
          else s.refuse .notGoverning
        else s.refuse .notFound
      else s.refuse .badState := by
  have hany : (!p.holds.any fun e => e.reason == r) = true ↔ ¬∃ e ∈ p.holds, e.reason = r := by simp
  simp only [serveService, hh, hr, hany, ne_eq, ite_not, Bool.not_eq_true', ← Bool.not_eq_true]

/-- What SERVICE makes of a list in order: the entry is the top of the chain, and every other one stays (R165). -/
theorem takeInService_spec {holds : List HoldEntry} {e : HoldEntry} (hok : holdsOk holds) (he : e ∈ holds)
    (hp : e.state = .pending) (k : Rank) :
    serviceChain (takeInService k e.reason holds) = serviceChain holds ++ [{ e with state := .inService k }] ∧
    ∀ x, x ∈ takeInService k e.reason holds ↔
      (x ∈ holds ∧ x.reason ≠ e.reason) ∨ x = { e with state := .inService k } := by
  obtain ⟨-, hnodup, -, -⟩ := hok
  refine ⟨serviceChain_takeInService hnodup he hp k, fun x => ?_⟩
  rw [takeInService_eq hnodup he, List.mem_append, List.mem_filter, bne_iff_ne, List.mem_singleton]

/-- A reason stands once on a list (R155), so that its entry is PENDING where one of its entries is. -/
theorem FirstPending.state_eq {prm : Params} {m : HoldMask} {holds : List HoldEntry} {e : HoldEntry}
    (h : FirstPending prm m holds e.reason) (hok : holdsOk holds) (he : e ∈ holds) : e.state = .pending := by
  obtain ⟨-, hnodup, -, -⟩ := hok
  obtain ⟨x, hx, hreason, hpending, -⟩ := h
  rwa [← List.inj_on_of_nodup_map hnodup hx he hreason]

theorem serviceRule : Claims.ServiceRule := by
  intro s h reason p hp hh
  have hser : exec (.service h reason) s = takeEffect (.service h reason) (serveService h reason) s := rfl
  refine ⟨fun hnone => refuses_of_serve hser hp (by simp [serveService, hh, hnone]), fun r hr => ?_⟩
  have hserve := serveService_of_live hh hr
  intro rank first above
  have hcheck : serviceable s.params (s.holdMaskOf p) p.holds r = true ↔ first ∧ above := serviceable_iff ..
  refine ⟨fun hst => ?badState, fun hst hnone => ?notFound, fun hst _ hlisted hno => ?notGoverning,
    fun e hst hok he hreason hfirst habove => ?accepted⟩
  case badState => exact refuses_of_serve hser hp (hserve.trans (if_neg hst))
  case notFound =>
    have hunlisted : ¬∃ e ∈ p.holds, e.reason = r := fun ⟨e, he, hr⟩ => hnone e he hr
    rw [if_pos hst, if_neg hunlisted] at hserve
    exact refuses_of_serve hser hp hserve
  case notGoverning =>
    rw [if_pos hst, if_pos hlisted, if_neg (mt hcheck.1 hno)] at hserve
    exact refuses_of_serve hser hp hserve
  case accepted =>
    subst hreason
    rw [if_pos hst, if_pos ⟨e, he, rfl⟩, if_pos (hcheck.2 ⟨hfirst, habove⟩)] at hserve
    obtain ⟨hslots, hothers⟩ := s.modPanel_frame h fun q =>
      { q with holds := takeInService (rankOf s.params (s.holdMaskOf q) e.reason) e.reason q.holds }
    have hpending : e.state = .pending := FirstPending.state_eq hfirst hok he
    obtain ⟨hchain, hmem⟩ := takeInService_spec hok he hpending rank
    refine ⟨_, takeInService rank e.reason p.holds, accepts_of_serve hser hp hserve, hslots, hothers, ?_, hchain,
      hmem⟩
    rw [State.panel_modPanel_self, hh]
    rfl

/-! ### RELEASE (R166) -/

/-- RELEASE of a PARKED record with a service chain goes by the chain's top (R166). -/
theorem serveRelease_of_top {s : State} {h : Nat} {p : Panel} {top : HoldEntry} (hh : s.panel h = some p)
    (hst : p.stage = .parked) (htop : chainTop p.holds = some top) :
    serveRelease h s =
      if top.reason.fixed = true then s.refuse .fixedHold
      else
        (s.modPanel h fun q => { q with holds := q.holds.filter fun e => e.reason != top.reason }).answer
          [be8 top.reason.code] := by
  simp [serveRelease, hh, hst, htop]

theorem releaseRule : Claims.ReleaseRule := by
  intro s h p hp hh
  have hser : exec (.release h) s = takeEffect (.release h) (serveRelease h) s := rfl
  refine ⟨fun hst => ?notParked, fun hst hempty => ?noChain, fun top hst htop hfixed => ?fixed,
    fun top hst htop hfree => ?released⟩
  case notParked => exact refuses_of_serve hser hp (by simp [serveRelease, hh, hst])
  case noChain =>
    have hnone : chainTop p.holds = none := by rw [chainTop, hempty, List.getLast?_nil]
    exact refuses_of_serve hser hp (by simp [serveRelease, hh, hst, hnone])
  case fixed => exact refuses_of_serve hser hp ((serveRelease_of_top hh hst htop).trans (if_pos hfixed))
  case released =>
    have hserve := (serveRelease_of_top hh hst htop).trans (if_neg (Bool.eq_false_iff.1 hfree))
    obtain ⟨hslots, hothers⟩ := s.modPanel_frame h fun q =>
      { q with holds := q.holds.filter fun e => e.reason != top.reason }
    refine ⟨_, accepts_of_serve hser hp hserve, hslots, hothers, ?_⟩
    rw [State.panel_modPanel_self, hh]
    rfl

/-- Settles O31: each request's checks in order and its effect. -/
theorem serviceAndRelease : Obligations.ServiceAndRelease := ⟨serviceRule, releaseRule⟩

end Sys2Proof.Machine
end

section
/-! SUPPORT. REENTER of a live record (R168, R169). -/

namespace Sys2Proof.Machine

/-! ### The checks (R168) -/

/-- A lane above 1 or a resume point above 2 is none (R193). -/
theorem reenter_codes_none {lane point : Nat} (h : 2 ≤ lane ∨ 3 ≤ point) :
    laneOfNat lane = none ∨ resumeOfCode point = none := by
  rcases h with h | h
  · obtain ⟨n, rfl⟩ := Nat.exists_eq_add_of_le' h
    exact .inl rfl
  · obtain ⟨n, rfl⟩ := Nat.exists_eq_add_of_le' h
    exact .inr rfl

/-- No entry holds a record back exactly when each is masked and PENDING (R168 check 3). -/
theorem heldBack_eq_false_iff (m : HoldMask) (holds : List HoldEntry) :
    heldBack m holds = false ↔ ∀ e ∈ holds, m.covers e.reason = true ∧ e.state = .pending := by
  simp [heldBack, HoldEntry.isPending_iff]

/-- What the resume points ask of a record (R168 check 6). -/
theorem resumeReady_iff (rp : ResumePoint) (p : Panel) :
    resumeReady rp p = true ↔
      (rp = .fromSpray → ∃ m, p.mask = some m ∧ m.verdict ≠ .failed) ∧ (rp = .fromOven → 1 ≤ p.coatsApplied) := by
  cases rp with
  | fromMask => simp [resumeReady]
  | fromSpray => cases hm : p.mask <;> simp [resumeReady, hm]
  | fromOven => simp [resumeReady]

theorem reentryOverCoats_iff (rp : ResumePoint) (coats : Nat) (p : Panel) :
    reentryOverCoats rp coats p = true ↔ rp ≠ .fromOven ∧ 3 < p.coatsApplied + coats := by
  simp [reentryOverCoats]

/-- REENTER of a live record goes by its lane and resume point first (R168 check 1). -/
theorem serveReenter_of_live {s : State} {h lane point : Nat} {p : Panel} (hh : s.panel h = some p) :
    (laneOfNat lane = none ∨ resumeOfCode point = none → serveReenter h lane point s = s.refuse .range) ∧
    ∀ l rp, laneOfNat lane = some l → resumeOfCode point = some rp →
      serveReenter h lane point s = s.reenterChecked h l rp p := by
  refine ⟨fun hnone => ?_, fun l rp hl hrp => by simp only [serveReenter, hh, hl, hrp]⟩
  simp only [serveReenter, hh]
  split
  · rename_i hl hrp
    simp [hl, hrp] at hnone
  · rfl

/-- A record without a recipe has no recipe body. -/
theorem recipe_isNone_of_bodyOf {s : State} {p : Panel} {b : Body} (hb : s.bodyOf p = some b) :
    p.recipe.isNone = false := by
  cases hr : p.recipe with
  | none => simp [State.bodyOf, State.recipeOf, hr] at hb
  | some r => rfl

/-! ### The effect (R169) -/

/-- The record in its lane's re-entry list (R169). -/
def State.reenteredAt (h : Nat) (l : LaneNo) (rp : ResumePoint) (s : State) : State :=
  (s.modPanel h (reentered l rp)).modLtk l fun t => { t with reentry := t.reentry ++ [h] }

/-- The re-entering record, field by field (R169). -/
theorem reentered_eq (l : LaneNo) (rp : ResumePoint) (p : Panel) :
    reentered l rp p = { p with
      rework := p.rework + 1, truncated := false, lane := l, resume := some rp, stage := .reentering,
      notices := { p.notices with reentered := true },
      mask := if rp = .fromMask then none else p.mask,
      coats := if rp = .fromOven then p.coats else [],
      cure := if rp = .fromOven then p.cure.map (fun c => { c with verdict := none }) else none } := by
  cases rp <;> rfl

/-- A re-entry changes the lane's re-entry list and the record, and nothing else. -/
theorem State.reenteredAt_spec {s : State} {h : Nat} {p : Panel} (l : LaneNo) (rp : ResumePoint)
    (hh : s.panel h = some p) :
    s.reenteredAt h l rp = { s with slots := (s.reenteredAt h l rp).slots, ltk := (s.reenteredAt h l rp).ltk } ∧
    s.othersKept (s.reenteredAt h l rp) h ∧
    (s.reenteredAt h l rp).ltk = (s.modLtk l fun t => { t with reentry := t.reentry ++ [h] }).ltk ∧
    (s.reenteredAt h l rp).panel h = some (reentered l rp p) := by
  have heq : s.reenteredAt h l rp = (s.setSlot h (some (reentered l rp p))).modLtk l fun t =>
      { t with reentry := t.reentry ++ [h] } := by rw [State.reenteredAt, State.modPanel_of_live hh]
  rw [heq]
  exact ⟨rfl, fun k hk => State.panel_setSlot_ne _ hk, rfl, State.panel_setSlot_self _ (State.panel_lt hh)⟩

/-- Behind REENTER's checks 2 to 6 stand those of the coats and of the room in the re-entry list (R168). -/
theorem State.reenterChecked_of_ready {s : State} {h : Nat} {l : LaneNo} {rp : ResumePoint} {p : Panel} {b : Body}
    (hst : p.stage = .parked) (hfree : heldBack (s.holdMaskOf p) p.holds = false) (hrework : p.rework < 3)
    (hready : resumeReady rp p = true) (hb : s.bodyOf p = some b) :
    s.reenterChecked h l rp p =
      if reentryOverCoats rp b.coats p = true then s.refuse .coatLimit
      else if 4 ≤ (s.ltk.get l).reentry.length then s.refuse .full
      else (s.reenteredAt h l rp).answer [] := by
  simp [State.reenterChecked, hst, hfree, Nat.not_le.2 hrework, recipe_isNone_of_bodyOf hb, hready, hb,
    State.reenteredAt]

/-- Settles O32: the eight checks in order, and what the re-entry leaves. -/
theorem reenterRule : Obligations.ReenterRule := by
  intro s h lane point p hp hh
  have hser : exec (.reenter h lane point) s = takeEffect (.reenter h lane point) (serveReenter h lane point) s := rfl
  obtain ⟨hrange, hchecked⟩ := serveReenter_of_live (lane := lane) (point := point) hh
  refine ⟨fun hbad => refuses_of_serve hser hp (hrange (reenter_codes_none hbad)), fun l rp hl hrp => ?_⟩
  have hserve := hchecked l rp hl hrp
  have hrefuses {st : Status} (he : s.reenterChecked h l rp p = s.refuse st) : Refuses (.reenter h lane point) s st :=
    refuses_of_serve hser hp (hserve.trans he)
  intro free ready
  have hfree : heldBack (s.holdMaskOf p) p.holds = false ↔ free := heldBack_eq_false_iff ..
  have hready : resumeReady rp p = true ↔ ready := resumeReady_iff ..
  refine ⟨fun hst => ?notParked, fun hst hheld => ?held, fun hst hf hrework => ?reworked,
    fun hst hf hrework hno => ?notReady, fun b hst hf hrework hrd hb => ?_⟩
  case notParked => exact hrefuses (by simp [State.reenterChecked, hst])
  case held =>
    have hback : heldBack (s.holdMaskOf p) p.holds = true := by simpa using mt hfree.1 hheld
    exact hrefuses (by simp [State.reenterChecked, hst, hback])
  case reworked => exact hrefuses (by simp [State.reenterChecked, hst, hfree.2 hf, hrework])
  case notReady =>
    rcases hno with hnone | hno
    · exact hrefuses (by simp [State.reenterChecked, hst, hfree.2 hf, Nat.not_le.2 hrework, hnone])
    · have hnot : resumeReady rp p = false := eq_false_of_ne_true (mt hready.1 hno)
      exact hrefuses (by simp [State.reenterChecked, hst, hfree.2 hf, Nat.not_le.2 hrework, hnot])
  have hlast := State.reenterChecked_of_ready (h := h) (l := l) hst (hfree.2 hf) hrework (hready.2 hrd) hb
  intro tooMany
  have hcoats : reentryOverCoats rp b.coats p = true ↔ tooMany := reentryOverCoats_iff ..
  refine ⟨fun hover => ?coatLimit, fun hfits hroom => ?full, fun hfits hroom => ?accepted⟩
  case coatLimit => exact hrefuses (hlast.trans (if_pos (hcoats.2 hover)))
  all_goals rw [if_neg (mt hcoats.1 hfits)] at hlast
  case full => exact hrefuses (hlast.trans (if_pos hroom))
  case accepted =>
    rw [if_neg (Nat.not_le.2 hroom)] at hlast
    obtain ⟨hframe, hothers, hltk, hpanel⟩ := State.reenteredAt_spec l rp hh
    exact ⟨_, accepts_of_serve hser hp (hserve.trans hlast), hframe, hothers, hltk, by rw [hpanel, reentered_eq]⟩

end Sys2Proof.Machine
end

section
/-! SUPPORT. The frames of the line link (R173, R175, R177): the bits of a byte, and what the end of a frame of each
type does by the link state at its start. -/

namespace Sys2Proof.Machine

/-! ### Bits and bytes (R173) -/

theorem bitsOf_cons (b : Byte) (bytes : List Byte) : bitsOf (b :: bytes) = byteBits b ++ bitsOf bytes := rfl

/-- Of eight bits the first is the most significant. -/
theorem byteBits_ofBoolListBE (b7 b6 b5 b4 b3 b2 b1 b0 : Bool) :
    byteBits (BitVec.ofBoolListBE [b7, b6, b5, b4, b3, b2, b1, b0]) = [b7, b6, b5, b4, b3, b2, b1, b0] := by
  simp [byteBits, BitVec.ofBoolListBE, BitVec.getElem_cons]

theorem wholeBytes_byteBits_append (b : Byte) (bits : List Bool) :
    wholeBytes (byteBits b ++ bits) = b :: wholeBytes bits :=
  congrArg (· :: wholeBytes bits) (ofBoolListBE_byteBits b)

theorem wholeBytes_bitsOf_append {part : List Bool} (hp : part.length < 8) (bytes : List Byte) :
    wholeBytes (bitsOf bytes ++ part) = bytes := by
  induction bytes with
  | nil => exact wholeBytes_of_lt hp
  | cons b bytes ih => rw [bitsOf_cons, List.append_assoc, wholeBytes_byteBits_append, ih]

theorem frameBits : Claims.FrameBits := by
  refine ⟨fun b7 b6 b5 b4 b3 b2 b1 b0 rest => ⟨_, rfl, ?_⟩, fun _ _ => rfl, fun bytes _ hp =>
    wholeBytes_bitsOf_append hp bytes⟩
  simpa [byteBits] using byteBits_ofBoolListBE b7 b6 b5 b4 b3 b2 b1 b0

theorem length_of_wholeBytes {bits : List Bool} {bytes : List Byte} (h : wholeBytes bits = bytes) :
    bits.length / 8 = bytes.length := by
  rw [← length_wholeBytes, h]

/-! ### The bits sent (R173) -/

theorem sentBits_idle (n : Nat) : sentBits [linkStateByte .idle] n = List.replicate n false := sentBits_zero n

/-- The state byte clocked whole. -/
theorem sentBits_stateByte (st : LinkState) {n : Nat} (h : 8 ≤ n) :
    sentBits [linkStateByte st] n = bitsOf [linkStateByte st] ++ List.replicate (n - 8) false :=
  sentBits_of_le h

/-! ### The frame's type (R173) -/

section
variable {s : State} {st : LinkState} {bits : List Bool} {rest : List Byte}

theorem State.clockedFrame_request (h : wholeBytes bits = 0x51 :: rest) :
    s.clockedFrame bits = s.onFrame (LineLink.takeRequest bits) := by
  simp [State.clockedFrame, frameType, h]

theorem State.clockedFrame_fetch (h : wholeBytes bits = 0x52 :: rest) :
    s.clockedFrame bits = s.onFrame (LineLink.fetch bits.length) := by
  simp [State.clockedFrame, frameType, h]

theorem State.clockedFrame_ignored
    (h : wholeBytes bits = [] ∨ ∃ ty rest, wholeBytes bits = ty :: rest ∧ ty ≠ 0x51 ∧ ty ≠ 0x52) :
    s.clockedFrame bits = s.ignoreFrame bits.length := by
  rcases h with h | ⟨ty, rest, h, hrequest, hfetch⟩
  · simp [State.clockedFrame, frameType, h]
  · simp only [State.clockedFrame, frameType, h, List.head?_cons]
    rw [if_neg hrequest, if_neg hfetch]

/-- Bits without a frame in progress (log 22). -/
theorem State.clockedFrame_of_none (hf : s.link.frame = none) (bits : List Bool) :
    s.clockedFrame bits = { s with link := { s.link with csn := true } } := by
  rcases s.clockedFrame_cases bits with ⟨-, e⟩ | ⟨-, e⟩ | ⟨-, -, e⟩ <;> rw [e]
  · exact State.onFrame_of_none hf _
  · exact State.onFrame_of_none hf _
  · simp [State.ignoreFrame, State.onFrame_of_none hf, hf]

theorem exec_requestFrame (hr : s.inReset = false) (hf : s.link.frame = some st) (h : wholeBytes bits = 0x51 :: rest) :
    exec (.requestFrame bits) s = .next { s with link := s.link.takeRequest bits st } :=
  congrArg Host.Outcome.next ((State.clockedFrame_request h).trans (State.onFrame_of hr hf _))

theorem exec_fetchFrame (hr : s.inReset = false) (hf : s.link.frame = some st) (h : wholeBytes bits = 0x52 :: rest) :
    exec (.fetchFrame bits) s = .next { s with link := s.link.fetch bits.length st } :=
  congrArg Host.Outcome.next ((State.clockedFrame_fetch h).trans (State.onFrame_of hr hf _))

end

/-! ### Frames that change nothing (R173) -/

theorem frameBounds : Claims.FrameBounds := by
  refine ⟨fun s hr hcsn => ?begins, fun s st bits hr hf hty => ?ignored, fun s bits hf c hc => ?noFrame⟩
  case begins => simp [exec, execCsnFallingEdge, LineLink.fall, hr, hcsn]
  case ignored =>
    exact congrArg Host.Outcome.next ((State.clockedFrame_ignored hty).trans (State.ignoreFrame_of hr hf _))
  case noFrame =>
    have hexec : exec c s = .next (s.clockedFrame bits) := by
      simp only [List.mem_cons, List.not_mem_nil, or_false] at hc
      rcases hc with rfl | rfl | rfl <;> rfl
    rw [hexec, State.clockedFrame_of_none hf]

/-- Settles O17: the bits of bytes, and the frames' bounds. -/
theorem frameStartsAndIgnored : Obligations.FrameStartsAndIgnored := ⟨frameBits, frameBounds⟩

/-! ### REQUEST frames (R175) -/

theorem frameRequest_of_fits {len code : Byte} {params : List Byte} (h1 : 1 ≤ len.toNat) (h250 : len.toNat ≤ 250)
    (hall : len.toNat - 1 ≤ params.length) :
    frameRequest (len :: code :: params) = some { code := code, params := params.take (len.toNat - 1) } := by
  simp [frameRequest, h1, h250, hall]

/-- A frame without a length byte, with a length outside 1..250, or with fewer bytes than its length. -/
theorem frameRequest_of_misfit {bytes : List Byte}
    (h : bytes = [] ∨ ∃ len rest, bytes = len :: rest ∧
      (len.toNat = 0 ∨ 250 < len.toNat ∨ rest.length < len.toNat)) : frameRequest bytes = none := by
  rcases h with rfl | ⟨len, rest, rfl, hlen⟩
  · rfl
  cases rest with
  | nil => rfl
  | cons code params =>
    have hno : ¬(1 ≤ len.toNat ∧ len.toNat ≤ 250 ∧ len.toNat - 1 ≤ params.length) := by
      simp only [List.length_cons] at hlen
      omega
    simpa [frameRequest, and_assoc] using hno

section
variable {k : LineLink} {bits : List Bool}

theorem LineLink.takeRequest_accepted {b : RequestBuffer} (h : frameRequest (wholeBytes bits).tail = some b) :
    k.takeRequest bits .idle =
      { k with state := .busy, request := some b, effect := none, frame := none, csn := true,
               miso := List.replicate bits.length false } := by
  simp only [LineLink.takeRequest, h, sentBits_idle]
  rfl

theorem LineLink.takeRequest_misfit (h : frameRequest (wholeBytes bits).tail = none) :
    k.takeRequest bits .idle = k.endFrame (List.replicate bits.length false) := by
  simp only [LineLink.takeRequest, h, sentBits_idle]

theorem LineLink.takeRequest_occupied {st : LinkState} (h : st ≠ .idle) :
    k.takeRequest bits st = k.endFrame (sentBits [linkStateByte st] bits.length) := by
  cases st with
  | idle => exact absurd rfl h
  | busy | response => rfl

end

/-- Settles O15: the link state at the frame's start, then the frame's own length. -/
theorem requestFrameTaken : Obligations.RequestFrameTaken := by
  intro s bits bytes hr hw
  have htail : (wholeBytes bits).tail = bytes := by rw [hw, List.tail_cons]
  refine ⟨fun len code params hbytes hf h1 h250 hall => ?accepted, fun st hf hst => ?occupied,
    fun hf hmis => ?misfit⟩
  case accepted =>
    have hrequest := frameRequest_of_fits (code := code) h1 h250 hall
    rw [exec_requestFrame hr hf hw, LineLink.takeRequest_accepted (by rw [htail, hbytes, hrequest])]
  case occupied =>
    have hbytes : bits.length / 8 = bytes.length + 1 := length_of_wholeBytes hw
    have hlen : 8 ≤ bits.length := by omega
    rw [exec_requestFrame hr hf hw, LineLink.takeRequest_occupied hst, sentBits_stateByte st hlen]
    rfl
  case misfit =>
    rw [exec_requestFrame hr hf hw, LineLink.takeRequest_misfit (by rw [htail, frameRequest_of_misfit hmis])]
    rfl

/-! ### FETCH frames (R177) -/

section
variable {k : LineLink} {r : Response} {n : Nat}

/-- Every byte of the response clocked whole: the state byte and `r.data.length + 2` bytes behind it. -/
theorem LineLink.fetch_consumed (hr : k.response = some r) (h : 8 * (r.data.length + 3) ≤ n) :
    k.fetch n .response =
      { k.endFrame (sentBits (0x02 :: responseBytes r) n) with state := .idle, response := none } := by
  simp only [LineLink.fetch, hr]
  exact if_pos h

theorem LineLink.fetch_cut (hr : k.response = some r) (h : n < 8 * (r.data.length + 3)) :
    k.fetch n .response = k.endFrame (sentBits (0x02 :: responseBytes r) n) := by
  simp only [LineLink.fetch, hr]
  exact if_neg (Nat.not_le.2 h)

theorem LineLink.fetch_unanswered {st : LinkState} (h : st ≠ .response) :
    k.fetch n st = k.endFrame (sentBits [linkStateByte st] n) := by
  cases st with
  | response => exact absurd rfl h
  | idle | busy => rfl

end

/-- Settles O16: the link state at the frame's start, then how many bytes were clocked. -/
theorem fetchFrameAnswers : Obligations.FetchFrameAnswers := by
  intro s bits rest hr hw n answer
  have hbytes : n / 8 = rest.length + 1 := length_of_wholeBytes hw
  refine ⟨fun r hf hresp hlen => ?consumed, fun r hf hresp hlen => ?cut, fun st hf hst => ?unanswered⟩
  case consumed =>
    have hwhole : 8 * (r.data.length + 3) ≤ n := by omega
    rw [exec_fetchFrame hr hf hw, LineLink.fetch_consumed hresp hwhole, sentBits_of_le hwhole]
    rfl
  case cut =>
    have hcut : n < 8 * (r.data.length + 3) := by omega
    rw [exec_fetchFrame hr hf hw, LineLink.fetch_cut hresp hcut, sentBits_of_ge hcut.le]
    rfl
  case unanswered =>
    have hlen : 8 ≤ n := by omega
    rw [exec_fetchFrame hr hf hw, LineLink.fetch_unanswered hst, sentBits_stateByte st hlen]
    rfl

end Sys2Proof.Machine
end

section
/-! SUPPORT. START_LINE and STOP_LINE: what their checks say of the state, and what each makes of it (R46, R88, R179,
R180). -/

namespace Sys2Proof.Machine

/-! ### START_LINE (R46, R88, R179) -/

/-- START_LINE names no parameter exactly when all its checks pass (R46). -/
theorem startFailure_eq_none_iff (p : Params) : startFailure p = none ↔ ∀ c ∈ startChecks p, c.1 = true := by
  simp [startFailure]

/-- The tag spacing of R88 as the model compares it. -/
theorem tagSpacing_iff (d gap : Nat) : d / max 1 gap < 16 ↔ d < 16 * max 1 gap :=
  Nat.div_lt_iff_lt_mul (by omega)

theorem serveStartLine_of_run {s : State} (hm : s.mode = .run) : serveStartLine s = s.refuse .mode := by
  simp only [serveStartLine, hm]

theorem serveStartLine_of_failure {s : State} {ident : Nat} (hm : s.mode = .config)
    (hf : startFailure s.params = some ident) :
    serveStartLine s = (s, { status := .range, data := [be8 ident] }) := by
  simp only [serveStartLine, hm, hf]

theorem serveStartLine_of_pass {s : State} (hm : s.mode = .config) (hf : startFailure s.params = none) :
    serveStartLine s =
      State.answer [] (({ s with mode := .run }.modLtk .zero fun t => { t with state := .tracking }).modLtk .one
        fun t => { t with state := .tracking }) := by
  simp only [serveStartLine, hm, hf]

theorem startLineChecks : Claims.StartLineChecks := by
  intro s hp
  have hser : exec .startLine s = takeEffect .startLine serveStartLine s := rfl
  refine ⟨fun hm => ?run, fun hm => ⟨?checks, fun hf => ?accepted, fun ident hf => ?failed⟩⟩
  case run => exact refuses_of_serve hser hp (serveStartLine_of_run hm)
  case checks => simp [startFailure_eq_none_iff, startChecks, tagSpacing_iff]
  case accepted => exact accepts_of_serve hser hp (serveStartLine_of_pass hm hf)
  case failed => rw [hser, takeEffect_in hp, serveStartLine_of_failure hm hf]

/-! ### STOP_LINE (R180) -/

/-- Both lanes are at rest (R180). -/
theorem State.bothAtRest_iff (s : State) :
    (s.laneAtRest .zero && s.laneAtRest .one) = true ↔
      ∀ l, (s.ltk.get l).front = [] ∧ (s.ltk.get l).oven = [] ∧ (s.bch.get l).state = .idle := by
  rw [Bool.and_eq_true, State.laneAtRest_iff, State.laneAtRest_iff]
  exact ⟨fun ⟨hzero, hone⟩ l => by cases l <;> assumption, fun h => ⟨h .zero, h .one⟩⟩

theorem serveStopLine_of_run {s : State} (hm : s.mode = .run) :
    serveStopLine s =
      if s.laneAtRest .zero && s.laneAtRest .one then
        State.answer [] (({ s with mode := .config }.modLtk .zero LaneTrack.stopped).modLtk .one LaneTrack.stopped)
      else s.refuse .badState := by
  simp only [serveStopLine, hm]

theorem stopLineRule : Claims.StopLineRule := by
  intro s hp
  have hser : exec .stopLine s = takeEffect .stopLine serveStopLine s := rfl
  refine ⟨fun hm => ?config, fun hm hrest => ?accepted, fun hm ⟨l, hbusy⟩ => ?busy⟩
  case config => exact refuses_of_serve hser hp (by simp only [serveStopLine, hm])
  case accepted =>
    exact accepts_of_serve hser hp ((serveStopLine_of_run hm).trans (if_pos (s.bothAtRest_iff.2 hrest)))
  case busy =>
    have hnot : ¬(s.laneAtRest .zero && s.laneAtRest .one) = true := fun h => by
      obtain ⟨hfront, hoven, hbch⟩ := s.bothAtRest_iff.1 h l
      rcases hbusy with hne | hne | hne <;> contradiction
    exact refuses_of_serve hser hp ((serveStopLine_of_run hm).trans (if_neg hnot))

/-- Settles O20: START_LINE by its checks, STOP_LINE by the rest of both lanes. -/
theorem startAndStop : Obligations.StartAndStop := ⟨startLineChecks, stopLineRule⟩

end Sys2Proof.Machine
end

section
/-! SUPPORT. PROCESSING_COMPLETE (R176): only a request row is ever in process, no request touches the line link port
that carries it, and so completion finds the same response whether the request took effect before or does so now. -/

namespace Sys2Proof.Machine

/-! ### What the request buffer decodes to (R190, R191) -/

theorem isRequest_of_decodeParam {ps : List Byte} {c : Instr} (h : decodeParam ps = .request c) :
    isRequest c = true := by
  unfold decodeParam at h
  simp only at h
  split at h
  · cases h; rfl
  · split at h <;> cases h <;> rfl

/-- SET_PARAM apart, each code of the table gives one row, and every other code none (R190). -/
theorem isRequest_of_decodeBody {code : Nat} {ps : List Byte} {c : Instr} (h : decodeBody code ps = .request c) :
    isRequest c = true := by
  unfold decodeBody at h
  split at h
  case h_2 => exact isRequest_of_decodeParam h
  all_goals cases h <;> rfl

/-- The request buffer holds request rows alone. -/
theorem isRequest_of_decodeRequest {b : RequestBuffer} {c : Instr} (h : decodeRequest b = .request c) :
    isRequest c = true := by
  unfold decodeRequest at h
  split at h
  · exact isRequest_of_decodeBody h
  · cases h

/-- A request row takes effect by its block's rule (R176). -/
theorem exec_of_isRequest {c : Instr} (h : isRequest c = true) (s : State) :
    exec c s = takeEffect c (serve c) s := by
  cases c with
  | requestFrame | fetchFrame | ignoredFrame | processingComplete | encoderCount | eyeEntry | eyeOven | eyeUnload
  | settledEvent | flashClaimExpiry | divertPulseEnd | inspectTrigPulseEnd | inspectTrigRecoveryEnd
  | inspectWindowExpiry | characterReceived | breakEntry | breakEnd | lineQuiet | assemblerByteTake | idRead
  | maskReport | gantryTransferEnd | moveDone | durationExpiry | moveTimeout | gantryErr | flowPulse | recoatExpiry
  | pollStart | pollCompletion | tachEdge | stallWatchExpiry | deviceReset | resetEnd | tick | csnFallingEdge
  | rxdEdge => cases h
  | _ => rfl

/-! ### The port's side of the state -/

/-- What the port itself reads at completion: whether the part runs, and the link with its buffers. -/
def State.portSide (s : State) : Bool × LineLink := (s.inReset, s.link)

theorem portSide_of_fields {s t : State} (hr : t.inReset = s.inReset) (hl : t.link = s.link) :
    t.portSide = s.portSide := by
  rw [State.portSide, hr, hl, State.portSide]

theorem portSide_of_boothRest {s t : State} (h : t.boothRest = s.boothRest) : t.portSide = s.portSide :=
  portSide_of_fields (congrArg State.inReset h :) (congrArg State.link h :)

theorem portSide_of_zoneRest {s t : State} (h : t.zoneRest = s.zoneRest) : t.portSide = s.portSide :=
  portSide_of_fields (congrArg State.inReset h :) (congrArg State.link h :)

@[simp] theorem portSide_fst_ite (c : Prop) [Decidable c] (a b : State × Response) :
    (if c then a else b).1.portSide = if c then a.1.portSide else b.1.portSide := by split <;> rfl

section
variable (s : State)

@[simp] theorem portSide_modPanel (h : Nat) (f : Panel → Panel) : (s.modPanel h f).portSide = s.portSide :=
  portSide_of_fields (s.modPanel_inReset h f) (s.modPanel_link h f)

@[simp] theorem portSide_modRecipe (r : Nat) (f : Recipe → Recipe) : (s.modRecipe r f).portSide = s.portSide :=
  portSide_of_fields (s.modRecipe_inReset r f) (s.modRecipe_link r f)

@[simp] theorem portSide_modLtk (l : LaneNo) (f : LaneTrack → LaneTrack) : (s.modLtk l f).portSide = s.portSide := rfl

@[simp] theorem portSide_modMvf (l : LaneNo) (f : MaskLane → MaskLane) : (s.modMvf l f).portSide = s.portSide := rfl

@[simp] theorem portSide_modPgn (l : LaneNo) (f : Generator → Generator) : (s.modPgn l f).portSide = s.portSide := rfl

@[simp] theorem portSide_modBch (l : LaneNo) (f : Channel → Channel) : (s.modBch l f).portSide = s.portSide := rfl

@[simp] theorem portSide_writeParams (f : Params → Params) : (s.writeParams f).portSide = s.portSide := rfl

@[simp] theorem portSide_moveRefs (old : Option Nat) (r : Nat) : (s.moveRefs old r).portSide = s.portSide := by
  rw [State.moveRefs_frame]; rfl

@[simp] theorem portSide_retireRecord (h : Nat) (p : Panel) : (s.retireRecord h p).portSide = s.portSide := by
  rw [State.retireRecord_frame]; rfl

@[simp] theorem portSide_raise (r : HoldReason) (h : Nat) : (s.raise r h).portSide = s.portSide :=
  portSide_of_boothRest (s.raise_boothRest r h)

@[simp] theorem portSide_askAbort (l : LaneNo) : (s.askAbort l).portSide = s.portSide :=
  portSide_of_boothRest (s.askAbort_boothRest l)

@[simp] theorem portSide_channelIdle (l : LaneNo) : (s.channelIdle l).portSide = s.portSide := rfl

@[simp] theorem portSide_clearBooth (l : LaneNo) : (s.clearBooth l).portSide = s.portSide := by
  unfold State.clearBooth
  simp only
  split <;> rfl

@[simp] theorem portSide_parkQueued (l : LaneNo) : (s.parkQueued l).portSide = s.portSide := by
  rw [State.parkQueued_eq]; rfl

@[simp] theorem portSide_clearInspecting (l : LaneNo) : (s.clearInspecting l).portSide = s.portSide := by
  rw [State.clearInspecting_eq]; rfl

@[simp] theorem portSide_writeBaud (rate : Nat) : (s.writeBaud rate).portSide = s.portSide := by
  unfold State.writeBaud
  split <;> rfl

@[simp] theorem portSide_relimitAll : s.relimitAll.portSide = s.portSide :=
  portSide_of_zoneRest s.relimitAll_zoneRest

/-! ### Requests leave the port alone (R176) -/

theorem portSide_startLine : (serveStartLine s).1.portSide = s.portSide := by
  unfold serveStartLine
  split; · rfl
  split <;> rfl

theorem portSide_stopLine : (serveStopLine s).1.portSide = s.portSide := by
  unfold serveStopLine
  split; · rfl
  split <;> rfl

theorem portSide_clearLane (lane : Nat) : (serveClearLane lane s).1.portSide = s.portSide := by
  unfold serveClearLane
  split <;> simp

theorem portSide_resetBooth (lane : Nat) : (serveResetBooth lane s).1.portSide = s.portSide := by
  unfold serveResetBooth
  split <;> simp

theorem portSide_resyncTag (lane : Nat) : (serveResyncTag lane s).1.portSide = s.portSide := by
  unfold serveResyncTag
  split <;> simp

/-- A request behind the checks of R26. -/
theorem portSide_withFreeRecipe (r : Nat) {f : Recipe → State × Response}
    (hf : ∀ x, (f x).1.portSide = s.portSide) : (s.withFreeRecipe r f).1.portSide = s.portSide := by
  unfold State.withFreeRecipe
  split <;> simp [hf]

theorem portSide_writeSegment (i x0 y0 x1 y1 v o : Nat) :
    (serveWriteSegment i x0 y0 x1 y1 v o s).1.portSide = s.portSide := by
  unfold serveWriteSegment
  simp only
  iterate 5 split; · rfl
  rfl

theorem portSide_assignRecipe (h r : Nat) : (serveAssignRecipe h r s).1.portSide = s.portSide := by
  unfold serveAssignRecipe
  split <;> simp

theorem portSide_bindId (h : Nat) (id : PanelId) : (serveBindId h id s).1.portSide = s.portSide := by
  unfold serveBindId
  split; · rfl
  iterate 3 split; · rfl
  exact portSide_modPanel s h _

theorem portSide_nextNotice : (serveNextNotice s).1.portSide = s.portSide := by
  unfold serveNextNotice
  split; · rfl
  split <;> simp

theorem portSide_retire (h d : Nat) : (serveRetire h d s).1.portSide = s.portSide := by
  rcases serveRetire_cases h d s with e | ⟨p, -, -, -, -, e⟩ <;> rw [e]
  exact portSide_retireRecord s h p

theorem portSide_hold (h r : Nat) : (serveHold h r s).1.portSide = s.portSide := by
  unfold serveHold
  split <;> simp

theorem portSide_service (h r : Nat) : (serveService h r s).1.portSide = s.portSide := by
  unfold serveService
  split; · rfl
  split <;> simp

theorem portSide_release (h : Nat) : (serveRelease h s).1.portSide = s.portSide := by
  unfold serveRelease
  split; · rfl
  split; · rfl
  split <;> simp

theorem portSide_waiveMask (h : Nat) : (serveWaiveMask h s).1.portSide = s.portSide := by
  unfold serveWaiveMask
  split; · rfl
  split <;> simp

theorem portSide_reenter (h lane point : Nat) : (serveReenter h lane point s).1.portSide = s.portSide := by
  rcases serveReenter_cases h lane point s with e | ⟨p, l, rp, -, -, -, e⟩ <;> rw [e]
  rfl

theorem portSide_withdraw (h : Nat) : (serveWithdraw h s).1.portSide = s.portSide := by
  unfold serveWithdraw
  split <;> simp

/-- An accepted parameter leaves the port alone when its write does (R181). -/
theorem portSide_setParam {modes : ParamModes} {valid : Bool} {write : State → State}
    (hw : (write s).portSide = s.portSide) : (s.setParam modes valid write).1.portSide = s.portSide := by
  simp [State.setParam, hw]

theorem portSide_setParamAbortLevel (v : Int) : (serveSetParamAbortLevel v s).1.portSide = s.portSide :=
  portSide_setParam s <| by rw [portSide_askAbort, portSide_askAbort, portSide_writeParams]

theorem portSide_setParamStaleLimit (v : Int) : (serveSetParamStaleLimit v s).1.portSide = s.portSide :=
  portSide_setParam s <| by rw [portSide_relimitAll, portSide_writeParams]

/-- No request touches the link that carries it: its response is the port's to place (R176). -/
theorem portSide_serve (c : Instr) : (serve c s).1.portSide = s.portSide := by
  cases c with
  | startLine => exact portSide_startLine s
  | stopLine => exact portSide_stopLine s
  | clearLane l => exact portSide_clearLane s l
  | resetBooth l => exact portSide_resetBooth s l
  | resyncTag l => exact portSide_resyncTag s l
  | defineRecipe | setMaskZone | clearMaskZone | setCureProfile | eraseRecipe =>
    exact portSide_withFreeRecipe s _ fun x => by simp
  | writeSegment i x0 y0 x1 y1 v o => exact portSide_writeSegment s i x0 y0 x1 y1 v o
  | readRecipe r p => exact congrArg State.portSide (serveReadRecipe_fst r p s)
  | readSegment i => exact congrArg State.portSide (serveReadSegment_fst i s)
  | find id => exact congrArg State.portSide (serveFind_fst id s)
  | readPanel h p => exact congrArg State.portSide (serveReadPanel_fst h p s)
  | assignRecipe h r => exact portSide_assignRecipe s h r
  | bindId h id => exact portSide_bindId s h id
  | nextNotice => exact portSide_nextNotice s
  | retire h d => exact portSide_retire s h d
  | hold h r => exact portSide_hold s h r
  | service h r => exact portSide_service s h r
  | release h => exact portSide_release s h
  | waiveMask h => exact portSide_waiveMask s h
  | reenter h l p => exact portSide_reenter s h l p
  | withdraw h => exact portSide_withdraw s h
  | setParamBaudRate v => exact portSide_setParam s (portSide_writeBaud s v.toNat)
  | setParamAbortLevel v => exact portSide_setParamAbortLevel s v
  | setParamStaleLimit v => exact portSide_setParamStaleLimit s v
  | setParamStationOffset | setParamEyeTolerance | setParamDivertPulse | setParamMinimumGap | setParamSettleTime
  | setParamEntryReserve | setParamDefaultRecipe | setParamInspectTimeout | setParamTraverseSpeed
  | setParamSamplePeriod | setParamAmbient | setParamClassLimits | setParamGainEntry | setParamReasonLevel =>
    exact portSide_setParam s (portSide_writeParams s _)
  | _ => rfl

end

/-! ### Completion (R176) -/

section
variable {s : State} (hbusy : s.link.state = .busy)
include hbusy

theorem State.complete_of_effect {r : Response} (he : s.link.effect = some r) : s.complete = s.respond r := by
  simp [State.complete, hbusy, he]

theorem State.complete_of_request {b : RequestBuffer} (he : s.link.effect = none) (hb : s.link.request = some b) :
    s.complete = s.completeUnserved b := by
  simp [State.complete, hbusy, he, hb]

end

theorem exec_processingComplete {s : State} (hr : s.inReset = false) : exec .processingComplete s = .next s.complete :=
  whenRunning_run _ hr

/-- A request in process that takes effect leaves the same completion as one that takes effect at completion. -/
theorem State.complete_after_effect {s : State} {c : Instr} (hp : s.inProcess c = true) :
    ((serve c s).1.withEffect (serve c s).2).complete = s.complete := by
  obtain ⟨-, hbusy, he, b, hb, hdecode⟩ := (State.inProcess_iff s c).1 hp
  have hlink : (serve c s).1.link = s.link := congrArg Prod.snd (portSide_serve s c)
  have hbusy' : ((serve c s).1.withEffect (serve c s).2).link.state = .busy := by
    rw [State.withEffect_link, hlink, hbusy]
  calc ((serve c s).1.withEffect (serve c s).2).complete
      = ((serve c s).1.withEffect (serve c s).2).respond (serve c s).2 := State.complete_of_effect hbusy' rfl
    _ = (serve c s).1.respond (serve c s).2 := rfl
    _ = s.completeUnserved b := by simp only [State.completeUnserved, hdecode]
    _ = s.complete := (State.complete_of_request hbusy he hb).symm

/-- Settles O18: a response that waits, the port's own two refusals, and a request that took effect before. -/
theorem processingCompletes : Obligations.ProcessingCompletes := by
  intro s hr hbusy
  have hexec : exec .processingComplete s = .next s.complete := exec_processingComplete hr
  refine ⟨fun r he => ?waiting, fun b he hb hdecode => ?badRequest, fun b he hb hdecode => ?badParameter,
    fun c u hp hu => ?inProcess⟩
  case waiting => rw [hexec, State.complete_of_effect hbusy he]; rfl
  case badRequest =>
    rw [hexec, State.complete_of_request hbusy he hb]
    simp only [State.completeUnserved, hdecode]
    rfl
  case badParameter =>
    rw [hexec, State.complete_of_request hbusy he hb]
    simp only [State.completeUnserved, hdecode]
    rfl
  case inProcess =>
    obtain ⟨-, -, -, b, -, hdecode⟩ := (State.inProcess_iff s c).1 hp
    rw [exec_of_isRequest (isRequest_of_decodeRequest hdecode), takeEffect_in hp] at hu
    cases hu
    have hrun : ((serve c s).1.withEffect (serve c s).2).inReset = false :=
      (congrArg Prod.fst (portSide_serve s c)).trans hr
    rw [hexec, exec_processingComplete hrun, State.complete_after_effect hp]

end Sys2Proof.Machine
end

section
/-! SUPPORT. The timebase and device reset (R185, R187): what commands can still do in reset, and what its begin and its
end leave. -/

namespace Sys2Proof.Machine

/-! ### In reset -/

/-- The state with other levels at the pins RXD and CS_N, which the board drives (log 12). -/
def State.withPins (s : State) (rxd csn : Bool) : State :=
  { s with slr := { s.slr with rxd := rxd }, link := { s.link with csn := csn } }

section
variable {s : State} (hr : s.inReset = true)
include hr

theorem takeEffect_of_reset (i : Instr) (f : State → State × Response) : takeEffect i f s = .next s :=
  takeEffect_out (by simp [State.inProcess, hr])

theorem State.onFrame_of_reset (f : LinkState → LineLink → LineLink) : s.onFrame f = s.withPins s.slr.rxd true := by
  simp [State.onFrame, hr, State.withPins]

theorem State.ignoreFrame_of_reset (n : Nat) : s.ignoreFrame n = s.withPins s.slr.rxd true := by
  simp [State.ignoreFrame, hr, State.onFrame_of_reset hr]

/-- Whatever its type, a frame that ends in reset leaves CS_N high and nothing more (R187). -/
theorem State.clockedFrame_of_reset (bits : List Bool) : s.clockedFrame bits = s.withPins s.slr.rxd true := by
  rcases s.clockedFrame_cases bits with ⟨-, he⟩ | ⟨-, he⟩ | ⟨-, -, he⟩
  · exact he.trans (State.onFrame_of_reset hr _)
  · exact he.trans (State.onFrame_of_reset hr _)
  · exact he.trans (State.ignoreFrame_of_reset hr _)

theorem exec_csnFallingEdge_of_reset : exec .csnFallingEdge s = .next (s.withPins s.slr.rxd false) := by
  simp [exec, execCsnFallingEdge, LineLink.fall, hr, State.withPins]

theorem exec_rxdEdge_of_reset (level : Bool) : exec (.rxdEdge level) s = .next (s.withPins level s.link.csn) :=
  if_pos hr

theorem exec_stallWatchExpiry_of_reset (zone : Fin 6) (at_ : Nat) : exec (.stallWatchExpiry zone at_) s = .next s :=
  if_pos hr

end

/-- Settles O4: requests and events do nothing in reset, and the ends of frames and the edges of the two pins set their
levels. -/
theorem inResetNothingHappens : Obligations.InResetNothingHappens := by
  intro c s hr hend hbegin
  cases c with
  | resetEnd => exact absurd rfl hend
  | deviceReset cause => exact absurd rfl (hbegin cause)
  | rxdEdge level => exact ⟨level, s.link.csn, exec_rxdEdge_of_reset hr level⟩
  | csnFallingEdge => exact ⟨s.slr.rxd, false, exec_csnFallingEdge_of_reset hr⟩
  | requestFrame bits | fetchFrame bits | ignoredFrame bits =>
    exact ⟨s.slr.rxd, true, congrArg Host.Outcome.next (State.clockedFrame_of_reset hr bits)⟩
  | tick | processingComplete | encoderCount | eyeEntry | eyeOven | eyeUnload | settledEvent | flashClaimExpiry
  | divertPulseEnd | inspectTrigPulseEnd | inspectTrigRecoveryEnd | inspectWindowExpiry | characterReceived | breakEntry
  | breakEnd | lineQuiet | assemblerByteTake | idRead | maskReport | gantryTransferEnd | moveDone | durationExpiry
  | moveTimeout | gantryErr | flowPulse | recoatExpiry | pollStart | pollCompletion | tachEdge =>
    exact ⟨s.slr.rxd, s.link.csn, whenRunning_reset _ hr⟩
  | stallWatchExpiry zone at_ => exact ⟨s.slr.rxd, s.link.csn, exec_stallWatchExpiry_of_reset hr zone at_⟩
  | _ => exact ⟨s.slr.rxd, s.link.csn, takeEffect_of_reset hr _ _⟩

/-! ### TICK, DEVICE_RESET and RESET_END -/

theorem causesReset_iff (cause : ResetCause) :
    causesReset cause = true ↔ cause = .powerUp ∨ ∃ ns, cause = .resetN ns ∧ 1000 ≤ ns := by
  cases cause <;> simp [causesReset]

theorem exec_deviceReset_of_cause {cause : ResetCause} (h : causesReset cause = true) (s : State) :
    exec (.deviceReset cause) s = .next s.beginReset :=
  if_pos h

theorem exec_deviceReset_filtered {cause : ResetCause} (h : ¬causesReset cause = true) (s : State) :
    exec (.deviceReset cause) s = .next s :=
  if_neg h

theorem State.beginReset_bch (s : State) (l : LaneNo) :
    s.beginReset.bch.get l = (s.bch.get l).abandoned := by
  cases l <;> rfl

theorem State.beginReset_ltk (s : State) (l : LaneNo) :
    s.beginReset.ltk.get l = (s.ltk.get l).abandoned := by
  cases l <;> rfl

theorem State.beginReset_mvf (s : State) (l : LaneNo) :
    s.beginReset.mvf.get l = (s.mvf.get l).abandoned := by
  cases l <;> rfl

theorem LaneTrack.abandoned_pulseOf (t : LaneTrack) (g : DivertGate) : t.abandoned.pulseOf g = none := by
  cases g <;> rfl

/-- The start of reset abandons each lane's move, recoat wait, timers, pulses and windows (R187). -/
theorem State.beginReset_lane (s : State) (l : LaneNo) :
    let t := s.beginReset
    (t.bch.get l).order = none ∧ (t.bch.get l).recoatExpiry = none ∧ (t.ltk.get l).quiet = none ∧
    (t.ltk.get l).flashClaim = none ∧ (∀ g, (t.ltk.get l).pulseOf g = none) ∧ (t.mvf.get l).trig = .free ∧
    (t.mvf.get l).inspecting = [] := by
  simp only [State.beginReset_bch, State.beginReset_ltk, State.beginReset_mvf]
  exact ⟨rfl, rfl, rfl, rfl, (s.ltk.get l).abandoned_pulseOf, rfl, rfl⟩

/-- Settles O59: the tick, the filtered and the long pulse, and the end of reset in and out of reset. -/
theorem tickAndResetRule : Obligations.TickAndResetRule := by
  refine ⟨fun s hr => ?tick, fun s ns hns => ?filtered, fun s cause hcause => ?begins, fun s hr => ?ends,
    fun s hr => ?running⟩
  case tick => exact ⟨s.tickOn, whenRunning_run _ hr, rfl, BitVec.toNat_add s.tick 1, rfl⟩
  case filtered =>
    have hshort : ¬causesReset (.resetN ns) = true := by simpa [causesReset] using hns
    exact exec_deviceReset_filtered hshort s
  case begins =>
    exact ⟨s.beginReset, exec_deviceReset_of_cause ((causesReset_iff cause).2 hcause) s, rfl, rfl, rfl, rfl, rfl, rfl,
      rfl, rfl, rfl, rfl, s.beginReset_lane⟩
  case ends => exact if_pos hr
  case running => exact if_neg (Bool.eq_false_iff.1 hr)

end Sys2Proof.Machine
end

section
/-! SUPPORT. The byte formats of requests (R189 to R191): each field is read back at its place, and so is every request
from the buffer that carries it. -/

namespace Sys2Proof.Machine

/-! ### Fields read back (R189) -/

theorem fitsU_one_iff (v : Nat) : fitsU 1 v = true ↔ v < 256 := decide_eq_true_iff

/-- The two bytes of a word joined again. -/
theorem joined_word (w : BitVec 16) : w.extractLsb' 8 8 ++ w.extractLsb' 0 8 = w := by
  rw [BitVec.extractLsb'_append_extractLsb'_eq_extractLsb' (by rfl)]
  exact BitVec.extractLsb'_eq_self

/-- The two words of a double word joined again. -/
theorem joined_dword (w : BitVec 32) :
    (w.extractLsb' 24 8 ++ w.extractLsb' 16 8) ++ (w.extractLsb' 8 8 ++ w.extractLsb' 0 8) = w := by
  rw [BitVec.extractLsb'_append_extractLsb'_eq_extractLsb' (by rfl),
    BitVec.extractLsb'_append_extractLsb'_eq_extractLsb' (by rfl),
    BitVec.extractLsb'_append_extractLsb'_eq_extractLsb' (by rfl)]
  exact BitVec.extractLsb'_eq_self

theorem toNat_ofInt_of_fits {n v : Nat} (h : fitsU n v = true) : (BitVec.ofInt (8 * n) v).toNat = v := by
  rw [BitVec.ofInt_natCast, BitVec.toNat_ofNat]
  exact Nat.mod_eq_of_lt (by simpa [fitsU] using h)

theorem toInt_ofInt_of_fits {n : Nat} {v : Int} (hn : 0 < n) (h : fitsS n v = true) :
    (BitVec.ofInt (8 * n) v).toInt = v := by
  simp only [fitsS, Bool.and_eq_true, decide_eq_true_eq] at h
  exact BitVec.toInt_ofInt_eq_self (by omega) h.1 h.2

/-! A field at the front of a parameter list. -/

section
variable (ps : List Byte)

@[simp] theorem u8At_be8 {v : Nat} (h : fitsU 1 v = true) : u8At (be8 v :: ps) 0 = v :=
  toNat_be8 ((fitsU_one_iff v).1 h)

theorem w16At_be16 (v : Int) : w16At (be16 v ++ ps) 0 = BitVec.ofInt 16 v := joined_word _

theorem w32At_be32 (v : Int) : w32At (be32 v ++ ps) 0 = BitVec.ofInt 32 v := joined_dword _

@[simp] theorem u16At_be16 {v : Nat} (h : fitsU 2 v = true) : u16At (be16 v ++ ps) 0 = v := by
  rw [u16At, w16At_be16]; exact toNat_ofInt_of_fits h

@[simp] theorem s16At_be16 {v : Int} (h : fitsS 2 v = true) : s16At (be16 v ++ ps) 0 = v := by
  rw [s16At, w16At_be16]; exact toInt_ofInt_of_fits (by decide) h

@[simp] theorem u32At_be32 {v : Nat} (h : fitsU 4 v = true) : u32At (be32 v ++ ps) 0 = v := by
  rw [u32At, w32At_be32]; exact toNat_ofInt_of_fits h

@[simp] theorem s32At_be32 {v : Int} (h : fitsS 4 v = true) : s32At (be32 v ++ ps) 0 = v := by
  rw [s32At, w32At_be32]; exact toInt_ofInt_of_fits (by decide) h

end

@[simp] theorem u16At_be16_last {v : Nat} (h : fitsU 2 v = true) : u16At (be16 v) 0 = v := u16At_be16 [] h

@[simp] theorem s16At_be16_last {v : Int} (h : fitsS 2 v = true) : s16At (be16 v) 0 = v := s16At_be16 [] h

@[simp] theorem s32At_be32_last {v : Int} (h : fitsS 4 v = true) : s32At (be32 v) 0 = v := s32At_be32 [] h

/-! A field behind others stands at the front of what is left when they are dropped. -/

section
variable (ps : List Byte) (i : Nat)

theorem w16At_drop : w16At (ps.drop i) 0 = w16At ps i := by simp [w16At, byteAt]

theorem w32At_drop : w32At (ps.drop i) 0 = w32At ps i := by simp [w32At, w16At, byteAt, Nat.add_assoc]

@[simp] theorem u8At_succ : u8At ps (i + 1) = u8At (ps.drop (i + 1)) 0 := by simp [u8At, byteAt]

@[simp] theorem u16At_succ : u16At ps (i + 1) = u16At (ps.drop (i + 1)) 0 := by rw [u16At, ← w16At_drop, u16At]

@[simp] theorem s16At_succ : s16At ps (i + 1) = s16At (ps.drop (i + 1)) 0 := by rw [s16At, ← w16At_drop, s16At]

@[simp] theorem u32At_succ : u32At ps (i + 1) = u32At (ps.drop (i + 1)) 0 := by rw [u32At, ← w32At_drop, u32At]

@[simp] theorem s32At_succ : s32At ps (i + 1) = s32At (ps.drop (i + 1)) 0 := by rw [s32At, ← w32At_drop, s32At]

@[simp] theorem drop_be16 (v : Int) : (be16 v ++ ps).drop (i + 2) = ps.drop i := rfl

@[simp] theorem drop_be32 (v : Int) : (be32 v ++ ps).drop (i + 4) = ps.drop i := rfl

end

/-! ### Parts of requests (R191) -/

/-- The length of every request's buffer fits its command (R190). -/
theorem lengthFits_of_encodeRequest {c : Instr} {b : RequestBuffer} (hw : c.wellFormed = true)
    (h : encodeRequest c = some b) : lengthFits b = true := by
  cases c with
  | find id => exact Laws.EncodedLength.find id b hw h
  | bindId k id => exact Laws.EncodedLength.bindId k id b hw h
  | _ => cases h <;> rfl

theorem decodeRequest_of_encodeRequest {c : Instr} {b : RequestBuffer} (hw : c.wellFormed = true)
    (h : encodeRequest c = some b) : decodeRequest b = decodeBody b.code.toNat b.params :=
  if_pos (lengthFits_of_encodeRequest hw h)

/-- What the decoder reads in the parameters of a SET_PARAM request (R191). -/
structure ParamReads (ps : List Byte) (ident subA subB : Nat) (v1 v2 v3 v4 v5 : Int) : Prop where
  ident : u8At ps 0 = ident
  subA : u8At ps 1 = subA
  subB : u8At ps 2 = subB
  value1 : s32At ps 3 = v1
  value2 : s32At ps 7 = v2
  value3 : s32At ps 11 = v3
  value4 : s32At ps 15 = v4
  value5 : s32At ps 19 = v5

/-- A SET_PARAM request is read back when its fields decode to it. -/
theorem decodeBody_paramRequest {c : Instr} {r : RequestBuffer} {ident subA subB : Nat} {v1 v2 v3 v4 v5 : Int}
    (hr : paramRequest ident subA subB v1 v2 v3 v4 v5 = some r)
    (hbytes : fitsU 1 ident = true ∧ fitsU 1 subA = true ∧ fitsU 1 subB = true)
    (hvalues : fitsS 4 v1 = true ∧ fitsS 4 v2 = true ∧ fitsS 4 v3 = true ∧ fitsS 4 v4 = true ∧ fitsS 4 v5 = true)
    (hd : ∀ ps, ParamReads ps ident subA subB v1 v2 v3 v4 v5 → decodeParam ps = .request c) :
    decodeBody r.code.toNat r.params = .request c := by
  cases hr
  obtain ⟨hident, ha, hb⟩ := hbytes
  obtain ⟨h1, h2, h3, h4, h5⟩ := hvalues
  refine hd _ ?_
  constructor <;> simp [*]

/-- A SET_PARAM request of one value word. -/
theorem decodeBody_oneValue {c : Instr} {r : RequestBuffer} {ident subA subB : Nat} {v : Int}
    (hr : paramRequest ident subA subB v = some r)
    (hbytes : fitsU 1 ident = true ∧ fitsU 1 subA = true ∧ fitsU 1 subB = true) (hv : fitsS 4 v = true)
    (hd : ∀ ps, ParamReads ps ident subA subB v 0 0 0 0 → decodeParam ps = .request c) :
    decodeBody r.code.toNat r.params = .request c :=
  decodeBody_paramRequest hr hbytes ⟨hv, by decide⟩ hd

theorem offsetOfId_offsetId (o : StationOffset) : offsetOfId (offsetId o) = some o := by cases o <;> rfl

theorem fitsU_offsetId (o : StationOffset) : fitsU 1 (offsetId o) = true := by cases o <;> rfl

/-! ### Every request -/

/-- Settles O3: the length fits, and each field is read back at its place. -/
theorem requestRoundTrip : Obligations.RequestRoundTrip := by
  intro c b hw h
  rw [decodeRequest_of_encodeRequest hw h]
  cases c with
  | requestFrame | fetchFrame | ignoredFrame | processingComplete | encoderCount | eyeEntry | eyeOven | eyeUnload
  | settledEvent | flashClaimExpiry | divertPulseEnd | inspectTrigPulseEnd | inspectTrigRecoveryEnd
  | inspectWindowExpiry | characterReceived | breakEntry | breakEnd | lineQuiet | assemblerByteTake | idRead
  | maskReport | gantryTransferEnd | moveDone | durationExpiry | moveTimeout | gantryErr | flowPulse | recoatExpiry
  | pollStart | pollCompletion | tachEdge | stallWatchExpiry | deviceReset | resetEnd | tick | csnFallingEdge
  | rxdEdge => cases h
  | lineStatus | startLine | stopLine | readZones | nextNotice | find => cases h; rfl
  | bindId k id =>
    cases h
    simp only [Instr.wellFormed, Bool.and_eq_true] at hw
    simp [decodeBody, hw]
  | defineRecipe r f =>
    cases h
    simp only [Instr.wellFormed, RecipeFields.fits, Bool.and_eq_true] at hw
    simp [decodeBody, decodeFields, hw]
  | setCureProfile r f =>
    cases h
    simp only [Instr.wellFormed, CureFields.fits, Bool.and_eq_true] at hw
    simp [decodeBody, decodeCure, hw]
  | setParamStationOffset o v =>
    refine decodeBody_oneValue h ⟨fitsU_offsetId o, rfl, rfl⟩ hw fun ps hps => ?_
    simp only [decodeParam, hps.ident, offsetOfId_offsetId, hps.value1]
  | setParamDefaultRecipe l v =>
    obtain ⟨hl, hv⟩ := Bool.and_eq_true_iff.1 hw
    refine decodeBody_oneValue h ⟨rfl, hl, rfl⟩ hv fun ps hps => ?_
    simp only [decodeParam, hps.ident, offsetOfId, hps.subA, hps.value1]
  | setParamReasonLevel r v =>
    obtain ⟨hl, hv⟩ := Bool.and_eq_true_iff.1 hw
    refine decodeBody_oneValue h ⟨rfl, hl, rfl⟩ hv fun ps hps => ?_
    simp only [decodeParam, hps.ident, offsetOfId, hps.subA, hps.value1]
  | setParamGainEntry m a v =>
    simp only [Instr.wellFormed, Bool.and_eq_true] at hw
    obtain ⟨⟨hm, ha⟩, hv⟩ := hw
    refine decodeBody_oneValue h ⟨rfl, hm, ha⟩ hv fun ps hps => ?_
    simp only [decodeParam, hps.ident, offsetOfId, hps.subA, hps.subB, hps.value1]
  | setParamClassLimits a b c d e =>
    simp only [Instr.wellFormed, Bool.and_eq_true, and_assoc] at hw
    refine decodeBody_paramRequest h ⟨rfl, rfl, rfl⟩ hw fun ps hps => ?_
    simp only [decodeParam, hps.ident, offsetOfId, hps.value1, hps.value2, hps.value3, hps.value4, hps.value5]
  | setParamEyeTolerance v | setParamDivertPulse v | setParamMinimumGap v | setParamSettleTime v
  | setParamEntryReserve v | setParamBaudRate v | setParamInspectTimeout v | setParamTraverseSpeed v
  | setParamAbortLevel v | setParamSamplePeriod v | setParamStaleLimit v | setParamAmbient v =>
    refine decodeBody_oneValue h ⟨rfl, rfl, rfl⟩ hw fun ps hps => ?_
    simp only [decodeParam, hps.ident, offsetOfId, hps.value1]
  | clearLane | resetBooth | resyncTag | setMaskZone | clearMaskZone | eraseRecipe | readRecipe | writeSegment
  | readSegment | readPanel | assignRecipe | retire | hold | service | release | waiveMask | reenter | withdraw =>
    cases h
    simp only [Instr.wellFormed, Bool.and_eq_true] at hw
    simp [decodeBody, hw]

end Sys2Proof.Machine
end

section
/-! SUPPORT. No event, and nothing that an event calls, touches the queue of waiting commands (log 1). -/

namespace Sys2Proof.Machine

/-! ### Frames that hold the queue -/

theorem pending_of_lineRest {s t : State} (h : t.lineRest = s.lineRest) : t.pending = s.pending :=
  (congrArg State.pending h :)

theorem pending_of_boothRest {s t : State} (h : t.boothRest = s.boothRest) : t.pending = s.pending :=
  (congrArg State.pending h :)

theorem pending_of_zoneRest {s t : State} (h : t.zoneRest = s.zoneRest) : t.pending = s.pending :=
  (congrArg State.pending h :)

@[simp] theorem pending_ite (c : Prop) [Decidable c] (s t : State) :
    (if c then s else t).pending = if c then s.pending else t.pending := apply_ite ..

theorem pending_foldl {α : Type} {f : State → α → State} (hf : ∀ s a, (f s a).pending = s.pending) (as : List α)
    (s : State) : (as.foldl f s).pending = s.pending :=
  List.foldlRecOn (motive := fun u => u.pending = s.pending) as f rfl fun u hu a _ => (hf u a).trans hu

section
variable (s : State) (l : LaneNo)

/-! ### Raises and the booth channels -/

@[simp] theorem pending_raise (r : HoldReason) (h : Nat) : (s.raise r h).pending = s.pending :=
  pending_of_boothRest (s.raise_boothRest r h)

@[simp] theorem pending_askAbort : (s.askAbort l).pending = s.pending :=
  pending_of_boothRest (s.askAbort_boothRest l)

@[simp] theorem pending_portEnd : s.portEnd.pending = s.pending := pending_of_boothRest s.portEnd_boothRest

@[simp] theorem pending_nextCoat : (s.nextCoat l).pending = s.pending :=
  pending_of_boothRest (s.nextCoat_boothRest l)

@[simp] theorem pending_completeOrder : (s.completeOrder l).pending = s.pending :=
  pending_of_boothRest (s.completeOrder_boothRest l)

@[simp] theorem pending_enterFault : (s.enterFault l).pending = s.pending :=
  pending_of_boothRest (s.enterFault_boothRest l)

@[simp] theorem pending_settled : (s.settled l).pending = s.pending := pending_of_boothRest (s.settled_boothRest l)

theorem pending_moveDoneEdge : (s.moveDoneEdge l).pending = s.pending := by simp [State.moveDoneEdge]

theorem pending_durationEnd : (s.durationEnd l).pending = s.pending := by
  unfold State.durationEnd
  simp only
  split <;> simp

theorem pending_moveTimeoutEnd : (s.moveTimeoutEnd l).pending = s.pending := by
  unfold State.moveTimeoutEnd
  simp only
  split <;> simp

theorem pending_gantryErrSample (v : Bool) : (s.gantryErrSample l v).pending = s.pending := by
  simp [State.gantryErrSample]

theorem pending_countPulse : (s.countPulse l).pending = s.pending := by
  unfold State.countPulse
  simp only
  split <;> simp

theorem pending_recoatEnd : (s.recoatEnd l).pending = s.pending := by simp [State.recoatEnd]

/-! ### The mask verifier -/

theorem pending_trigPulseEnd : (s.trigPulseEnd l).pending = s.pending := by
  unfold State.trigPulseEnd
  split <;> simp

theorem pending_trigRecoveryEnd : (s.trigRecoveryEnd l).pending = s.pending := by
  unfold State.trigRecoveryEnd
  split <;> simp

theorem pending_windowTimeout (h : Nat) : (s.windowTimeout h).pending = s.pending := by
  unfold State.windowTimeout
  split; · rfl
  split
  · exact pending_of_lineRest (s.endWindow_lineRest h)
  · rfl

theorem pending_applyReport (h : Nat) (pairs : List (Nat × ZoneStatus)) :
    (s.applyReport h pairs).pending = s.pending := by
  have hraise : ∀ (u : State) r, (u.raiseOpt r h).pending = u.pending := fun u r => by
    cases r with
    | none => rfl
    | some r => exact pending_raise u r h
  unfold State.applyReport
  split <;> simp [State.leaveInspecting, hraise]

theorem pending_takeReport : s.takeReport.pending = s.pending := by
  unfold State.takeReport State.acceptReport
  split; swap; · rfl
  split
  · rfl
  · exact pending_applyReport ..

/-! ### The oven -/

theorem pending_readTach (z : Nat) (v : Bool) (n : Nat) : (s.readTach z v n).pending = s.pending := by
  unfold State.readTach
  split <;> simp

theorem pending_stallAt (z n : Nat) : (s.stallAt z n).pending = s.pending := by
  unfold State.stallAt
  split <;> simp

@[simp] theorem pending_applyReplyAt (r : SensorReply) (z : Nat) : (s.applyReplyAt r z).pending = s.pending := by
  have halarm : ∀ (u : State) before, (u.alarmIfInvalid before z).pending = u.pending := fun u before => by
    unfold State.alarmIfInvalid
    split <;> simp
  unfold State.applyReplyAt
  split <;> simp [halarm]

theorem pending_updateCuring (h : Nat) : (s.updateCuring h).pending = s.pending := by
  unfold State.updateCuring
  split; · rfl
  split; · rfl
  exact (pending_foldl (fun s r => pending_raise s r h) _ _).trans (s.modPanel_pending h _)

theorem pending_completePoll (rs : Vector SensorReply 6) : (s.completePoll rs).pending = s.pending := by
  unfold State.completePoll
  split
  · exact (pending_foldl pending_updateCuring _ _).trans (by simp [State.applyReplies])
  · rfl

/-! ### The lane tracker -/

@[simp] theorem pending_faultCause : (s.faultCause l).pending = s.pending :=
  pending_of_lineRest (s.faultCause_lineRest l)

@[simp] theorem pending_placeFront (h : Nat) : (s.placeFront l h).pending = s.pending := by
  simp [State.placeFront, State.checkPlacement]

theorem pending_entryEdge : (s.entryEdge l).pending = s.pending := by
  unfold State.entryEdge
  simp only
  split; · rfl
  split; · simp
  split; · simp
  split <;> simp [State.createRecord]

theorem pending_bindRead (h : Nat) (p : Panel) (id : PanelId) : (s.bindRead h p id).pending = s.pending := by
  unfold State.bindRead
  split <;> simp [State.storeId]

theorem pending_takeRead : s.takeRead.pending = s.pending := by
  unfold State.takeRead State.acceptRead State.leaveEntered
  split; swap; · rfl
  split; · rfl
  split; · rfl
  rw [State.modPanel_pending, pending_bindRead, State.resumeAssembler_pending]

theorem pending_count (sec : LineSection) : (s.count l sec).pending = s.pending := by
  have hquiet : (s.restartQuiet l sec).pending = s.pending := by cases sec <;> rfl
  unfold State.count
  split
  · rfl
  · exact (pending_foldl (fun s a => pending_of_lineRest (s.arrive_lineRest l a)) _ _).trans
      ((pending_foldl (fun s h => s.modPanel_pending h _) _ _).trans hquiet)

theorem pending_quietEnd : (s.quietEnd l).pending = s.pending := by simp [State.quietEnd]

theorem pending_claimEnd : (s.claimEnd l).pending = s.pending := by simp [State.claimEnd]

theorem pending_pulseEnd (g : DivertGate) : (s.pulseEnd l g).pending = s.pending := by simp [State.pulseEnd]

theorem pending_ovenEdge : (s.ovenEdge l).pending = s.pending := by
  unfold State.ovenEdge
  split; · rfl
  split <;> simp [State.transfer]

theorem pending_unloadEdge : (s.unloadEdge l).pending = s.pending := by
  unfold State.unloadEdge
  split; · rfl
  split; · simp
  split <;> simp [State.finish, State.divert]

/-- The event of a rising edge, which sees the state with the new level kept (R186). -/
theorem pending_onEdge {ev : State → State} (hev : ∀ s, (ev s).pending = s.pending) (k : LaneInput) (v : Bool) :
    (s.onEdge l k v ev).pending = s.pending := by
  simp [State.onEdge, hev]

/-! ### The station link -/

theorem pending_enterBreak : s.enterBreak.pending = s.pending := by simp [State.enterBreak]

@[simp] theorem pending_abandonIfQuiet : s.abandonIfQuiet.pending = s.pending := by simp [State.abandonIfQuiet]

theorem pending_lineQuiet : s.lineQuiet.pending = s.pending := by simp [State.lineQuiet]

theorem pending_assemble : s.assemble.pending = s.pending := by
  unfold State.assemble
  split <;> simp

end

end Sys2Proof.Machine
end

section
/-! SUPPORT. No request and no command touches the queue of waiting commands, and a step takes its front (log 1). -/

namespace Sys2Proof.Machine

/-! ### Requests -/

section
variable (s : State)

@[simp] theorem pending_fst_ite (c : Prop) [Decidable c] (a b : State × Response) :
    (if c then a else b).1.pending = if c then a.1.pending else b.1.pending := by split <;> rfl

theorem pending_startLine : (serveStartLine s).1.pending = s.pending := by
  unfold serveStartLine
  split; · rfl
  split <;> rfl

theorem pending_stopLine : (serveStopLine s).1.pending = s.pending := by
  unfold serveStopLine
  split; · rfl
  split <;> rfl

theorem pending_clearLane (lane : Nat) : (serveClearLane lane s).1.pending = s.pending := by
  have hpark : ∀ l, (s.parkQueued l).pending = s.pending := fun l =>
    pending_foldl (fun s h => s.modPanel_pending h _) _ _
  have hclear : ∀ (u : State) l, (u.clearInspecting l).pending = u.pending := fun u l =>
    pending_foldl (fun s (w : Window) => s.modPanel_pending w.handle _) _ _
  have hbooth : ∀ (u : State) l, (u.clearBooth l).pending = u.pending := fun u l => by
    unfold State.clearBooth State.channelIdle
    simp only
    split <;> simp
  unfold serveClearLane
  split <;> simp [hpark, hclear, hbooth]

theorem pending_resetBooth (lane : Nat) : (serveResetBooth lane s).1.pending = s.pending := by
  unfold serveResetBooth State.channelIdle
  split <;> simp

theorem pending_resyncTag (lane : Nat) : (serveResyncTag lane s).1.pending = s.pending := by
  unfold serveResyncTag
  split <;> simp

/-- A request behind the checks of R26. -/
theorem pending_withFreeRecipe (r : Nat) {f : Recipe → State × Response} (hf : ∀ x, (f x).1.pending = s.pending) :
    (s.withFreeRecipe r f).1.pending = s.pending := by
  unfold State.withFreeRecipe
  split <;> simp [hf]

theorem pending_writeSegment (i x0 y0 x1 y1 v o : Nat) :
    (serveWriteSegment i x0 y0 x1 y1 v o s).1.pending = s.pending := by
  simp [serveWriteSegment]

theorem pending_assignRecipe (h r : Nat) : (serveAssignRecipe h r s).1.pending = s.pending := by
  have hrefs : ∀ (u : State) old, (u.moveRefs old r).pending = u.pending := fun u old => by
    rw [State.moveRefs_frame]
  unfold serveAssignRecipe
  split <;> simp [hrefs]

theorem pending_bindId (h : Nat) (id : PanelId) : (serveBindId h id s).1.pending = s.pending := by
  unfold serveBindId
  split <;> simp

theorem pending_nextNotice : (serveNextNotice s).1.pending = s.pending := by
  unfold serveNextNotice
  split; · rfl
  split <;> simp

theorem pending_retire (h d : Nat) : (serveRetire h d s).1.pending = s.pending := by
  rcases serveRetire_cases h d s with e | ⟨p, -, -, -, -, e⟩ <;> rw [e]
  rw [State.retireRecord_frame]

theorem pending_hold (h r : Nat) : (serveHold h r s).1.pending = s.pending := by
  unfold serveHold
  split <;> simp

theorem pending_service (h r : Nat) : (serveService h r s).1.pending = s.pending := by
  unfold serveService
  split; · rfl
  split <;> simp

theorem pending_release (h : Nat) : (serveRelease h s).1.pending = s.pending := by
  unfold serveRelease
  split; · rfl
  split; · rfl
  split <;> simp

theorem pending_waiveMask (h : Nat) : (serveWaiveMask h s).1.pending = s.pending := by
  unfold serveWaiveMask
  split; · rfl
  split <;> simp

theorem pending_reenter (h lane point : Nat) : (serveReenter h lane point s).1.pending = s.pending := by
  rcases serveReenter_cases h lane point s with e | ⟨p, l, rp, -, -, -, e⟩ <;> rw [e]
  rfl

theorem pending_withdraw (h : Nat) : (serveWithdraw h s).1.pending = s.pending := by
  unfold serveWithdraw
  split <;> simp

/-- An accepted parameter leaves the queue alone when its write does (R181). -/
theorem pending_setParam {modes : ParamModes} {valid : Bool} {write : State → State}
    (hw : (write s).pending = s.pending) : (s.setParam modes valid write).1.pending = s.pending := by
  simp [State.setParam, hw]

theorem pending_setParamAbortLevel (v : Int) : (serveSetParamAbortLevel v s).1.pending = s.pending :=
  pending_setParam s <| by rw [pending_askAbort, pending_askAbort, State.writeParams_pending]

theorem pending_setParamStaleLimit (v : Int) : (serveSetParamStaleLimit v s).1.pending = s.pending :=
  pending_setParam s <| by rw [pending_of_zoneRest (State.relimitAll_zoneRest _), State.writeParams_pending]

theorem pending_setParamBaudRate (v : Int) : (serveSetParamBaudRate v s).1.pending = s.pending :=
  pending_setParam s <| by simp [State.writeBaud]

theorem pending_serve (c : Instr) : (serve c s).1.pending = s.pending := by
  cases c with
  | startLine => exact pending_startLine s
  | stopLine => exact pending_stopLine s
  | clearLane l => exact pending_clearLane s l
  | resetBooth l => exact pending_resetBooth s l
  | resyncTag l => exact pending_resyncTag s l
  | defineRecipe | setMaskZone | clearMaskZone | setCureProfile | eraseRecipe =>
    exact pending_withFreeRecipe s _ fun x => by simp
  | writeSegment i x0 y0 x1 y1 v o => exact pending_writeSegment s i x0 y0 x1 y1 v o
  | readRecipe r p => exact congrArg State.pending (serveReadRecipe_fst r p s)
  | readSegment i => exact congrArg State.pending (serveReadSegment_fst i s)
  | find id => exact congrArg State.pending (serveFind_fst id s)
  | readPanel h p => exact congrArg State.pending (serveReadPanel_fst h p s)
  | assignRecipe h r => exact pending_assignRecipe s h r
  | bindId h id => exact pending_bindId s h id
  | nextNotice => exact pending_nextNotice s
  | retire h d => exact pending_retire s h d
  | hold h r => exact pending_hold s h r
  | service h r => exact pending_service s h r
  | release h => exact pending_release s h
  | waiveMask h => exact pending_waiveMask s h
  | reenter h l p => exact pending_reenter s h l p
  | withdraw h => exact pending_withdraw s h
  | setParamBaudRate v => exact pending_setParamBaudRate s v
  | setParamAbortLevel v => exact pending_setParamAbortLevel s v
  | setParamStaleLimit v => exact pending_setParamStaleLimit s v
  | setParamStationOffset | setParamEyeTolerance | setParamDivertPulse | setParamMinimumGap | setParamSettleTime
  | setParamEntryReserve | setParamDefaultRecipe | setParamInspectTimeout | setParamTraverseSpeed
  | setParamSamplePeriod | setParamAmbient | setParamClassLimits | setParamGainEntry | setParamReasonLevel =>
    exact pending_setParam s (s.writeParams_pending _)
  | _ => rfl

/-! ### The line link port -/

theorem pending_complete : s.complete.pending = s.pending := by
  unfold State.complete State.completeUnserved
  split; swap; · rfl
  split
  · rfl
  · split
    · rfl
    · rfl
    · exact pending_serve s _
  · rfl

theorem pending_clockedFrame (bits : List Bool) : (s.clockedFrame bits).pending = s.pending := by
  have hframe : ∀ f, (s.onFrame f).pending = s.pending := fun f => by
    unfold State.onFrame
    split <;> rfl
  have hignored : ∀ n, (s.ignoreFrame n).pending = s.pending := fun n => by
    unfold State.ignoreFrame
    simp only
    split <;> exact hframe _
  rcases s.clockedFrame_cases bits with ⟨-, e⟩ | ⟨-, e⟩ | ⟨-, -, e⟩ <;> rw [e]
  · exact hframe _
  · exact hframe _
  · exact hignored _

end

/-! ### Every command -/

/-- The outcome goes on, with the queue of the state before. -/
def KeepsQueue (s : State) (o : Result) : Prop := ∃ t, o = .next t ∧ t.pending = s.pending

section
variable {s : State}

theorem KeepsQueue.next {t : State} (h : t.pending = s.pending) : KeepsQueue s (.next t) := ⟨t, rfl, h⟩

theorem KeepsQueue.ite {c : Prop} [Decidable c] {a b : Result} (ha : KeepsQueue s a) (hb : KeepsQueue s b) :
    KeepsQueue s (if c then a else b) := by
  split
  · exact ha
  · exact hb

/-- An event does nothing in reset. -/
theorem KeepsQueue.event {f : State → State} (hf : (f s).pending = s.pending) : KeepsQueue s (whenRunning f s) :=
  .ite (.next rfl) (.next hf)

theorem KeepsQueue.edge {l : LaneNo} {k : LaneInput} {v : Bool} {ev : State → State}
    (hev : ∀ s, (ev s).pending = s.pending) : KeepsQueue s (whenRunning (State.onEdge l k v ev) s) :=
  .event (pending_onEdge s l hev k v)

/-- A request that is not in process does nothing (log 3). -/
theorem KeepsQueue.request {c : Instr} (hc : exec c s = takeEffect c (serve c) s) : KeepsQueue s (exec c s) := by
  rw [hc]
  exact .ite (.next (pending_serve s c)) (.next rfl)

end

/-- Settles O2: every command is a request, a frame, an event, or an edge of a pin or of reset, and each of these goes on
with the queue as it was. -/
theorem nothingStopsQueueKept : Obligations.NothingStopsQueueKept := by
  intro c s
  change KeepsQueue s (exec c s)
  cases c with
  | requestFrame bits | fetchFrame bits | ignoredFrame bits => exact .next (pending_clockedFrame s bits)
  | processingComplete => exact .event (pending_complete s)
  | csnFallingEdge => exact .next rfl
  | rxdEdge | deviceReset | resetEnd => exact .ite (.next rfl) (.next rfl)
  | encoderCount l sec v => exact .edge fun s => pending_count s l sec
  | eyeEntry l v => exact .edge fun s => pending_entryEdge s l
  | eyeOven l v => exact .edge fun s => pending_ovenEdge s l
  | eyeUnload l v => exact .edge fun s => pending_unloadEdge s l
  | moveDone l v => exact .edge fun s => pending_moveDoneEdge s l
  | flowPulse l v => exact .edge fun s => pending_countPulse s l
  | settledEvent l => exact .event (pending_quietEnd s l)
  | flashClaimExpiry l => exact .event (pending_claimEnd s l)
  | divertPulseEnd l g => exact .event (pending_pulseEnd s l g)
  | inspectTrigPulseEnd l => exact .event (pending_trigPulseEnd s l)
  | inspectTrigRecoveryEnd l => exact .event (pending_trigRecoveryEnd s l)
  | inspectWindowExpiry h => exact .event (pending_windowTimeout s h)
  | breakEntry => exact .event (pending_enterBreak s)
  | lineQuiet => exact .event (pending_lineQuiet s)
  | assemblerByteTake => exact .event (pending_assemble s)
  | idRead => exact .event (pending_takeRead s)
  | maskReport => exact .event (pending_takeReport s)
  | gantryTransferEnd => exact .event (pending_portEnd s)
  | durationExpiry l => exact .event (pending_durationEnd s l)
  | moveTimeout l => exact .event (pending_moveTimeoutEnd s l)
  | gantryErr l v => exact .event (pending_gantryErrSample s l v)
  | recoatExpiry l => exact .event (pending_recoatEnd s l)
  | pollStart => exact .event (by split <;> rfl)
  | pollCompletion rs => exact .event (pending_completePoll s rs)
  | tachEdge z v n => exact .event (pending_readTach ..)
  | stallWatchExpiry z n =>
    exact .event (f := fun s => (s.atSample (s.sampleAt n)).stallAt z (s.sampleAt n)) (pending_stallAt ..)
  | tick | characterReceived | breakEnd => exact .event rfl
  | _ => exact .request rfl

/-! ### The step -/

/-- Settles O1: `step` by its two equations. -/
theorem stepRunsFrontCommand : Obligations.StepRunsFrontCommand :=
  ⟨fun _ _ _ => rfl, fun s hs => by simp only [step, hs]⟩

end Sys2Proof.Machine
end
